-- ==== Sys2Proof/Word.lean ====
section
/-!
DEFINITION. Words of the machine and their plainest arithmetic (R1).
-/
namespace Sys2Proof

/-- A byte of memory. -/
abbrev Byte := BitVec 8
/-- A register of one lane (R29, R66). -/
abbrev Word := BitVec 32
/-- A 64-bit value: a PC, a virtual address, a register pair. -/
abbrev DWord := BitVec 64
/-- One bit per lane of a group (R37). -/
abbrev Mask := BitVec 32

/-- The mask of all 32 lanes. -/
def Mask.all : Mask := 0xFFFFFFFF#32

/-- Lane `i` is in the mask. -/
def Mask.has (m : Mask) (i : Nat) : Bool := m.getLsbD i

/-- The PC of an exited lane (R36). -/
def exitedPc : DWord := 0xFFFFFFFFFFFFFFFF#64

end Sys2Proof
end

