-- ==== Sys2Proof/Syntax.lean ====
section
/-!
DEFINITION. The instruction set: the fields of an instruction word (R66), the clause header (R60), and Instr, one
constructor for each row of the opcode table. A row that the issue unit fetches carries its word's fields; a row that
is an event of the part carries the parties of the event, and a row that something outside the part starts (a mailbox
command, a register write, a reset, a link or power event) reads what it was started with from the state's `input`.
Rows without fields stand last.
-/
namespace Sys2Proof

/-- The operand fields of an instruction word below its opcode (R66). -/
structure Fields where
  sbset  : BitVec 3
  look   : BitVec 4
  dst    : BitVec 8
  srca   : BitVec 8
  srcb   : BitVec 8
  srcc   : BitVec 8
  perm   : BitVec 3
  pparam : BitVec 4
  pred   : BitVec 6
  psense : BitVec 1
  mod    : BitVec 3
  deriving DecidableEq, Repr

/-- The 24-bit immediate of an immediate form (R69): MOD bit 2, then word bits 32:10. -/
def Fields.imm (f : Fields) : BitVec 24 :=
  f.mod.extractLsb' 2 1 ++ f.srcb ++ f.srcc ++ f.perm ++ f.pparam

/-- A valid clause header (R60), without its marker and its MBZ fields. -/
structure Header where
  cclass  : BitVec 2
  cthresh : BitVec 6
  cwen    : BitVec 1
  sbmask  : BitVec 7
  yield   : BitVec 1
  engine  : BitVec 3
  count   : BitVec 4
  deriving DecidableEq, Repr

/-- The kinds of translated access (R384). -/
inductive AccessKind where
  | read | write | fetch | readWrite | any
  deriving DecidableEq, Repr

/-- The answers to a page request (R151). -/
inductive PageAnswer where
  | success | invalidRequest | responseFailure
  deriving DecidableEq, Repr

/-- The holders of a line's tokens (R364). -/
inductive Holder where
  | home | die (d : Nat) | host | link
  deriving DecidableEq, Repr

/-- What a peer does to this module's memory (R364). -/
inductive PeerOp where
  | read (count : Nat)
  | write (data : List Byte)
  deriving DecidableEq, Repr

/-- Where an uncorrectable error is found (R306, R307). -/
inductive ErrorSite where
  /-- A register row of a group, met by the instruction at which some lanes stand: `sr.finfo` 1. -/
  | registerRow (g : Nat) (lanes : BitVec 32)
  /-- A team-scratchpad word, met by an operation of a group: `sr.finfo` 2. -/
  | scratchpad (t g op : Nat)
  /-- A DRAM word met by an access of a context, an operation of a group or none: `sr.finfo` 0. -/
  | memory (asid g op pa : Nat)
  /-- State that no single context owns (R447): every context that reaches it. -/
  | shared (pa : Nat) (asids : List Nat)
  /-- A word of a CU's L1, or of an L2 slice where no CU is named: one that is dirty or registered is poisoned at home (R307), a
  clean one is read again (R306). -/
  | cachedWord (cu : Option Nat) (pa : Nat)
  /-- A line of a CU's instruction cache (R144, R306): it is discarded and fetched again. -/
  | codeLine (cu asid line : Nat)
  /-- The word `k` of an instruction line in flight to a CU is lost to its context (R149). -/
  | codeFill (cu asid line k : Nat)
  /-- An error that was corrected, by its identifier (R306). -/
  | corrected (id : Nat)
  /-- A die's L2 slices, or a CU's L1, are out of service: every word they hold modified is lost (R307). -/
  | lostDie (d : Nat)
  | lostCu (cu : Nat)
  deriving DecidableEq, Repr

/-- The rows of the opcode table. -/
inductive Instr where
  /-- NOP (R115). Does nothing; the issuing lanes advance past it. -/
  | nop (f : Fields)
  /-- BRA (R113). Moves each participant's PC to the target at the instruction's address plus 8 times the sign-extended immediate. -/
  | bra (f : Fields)
  /-- BRAX (R113). Moves each participant's PC to the 64-bit address read in that lane. -/
  | brax (f : Fields)
  /-- CALL (R113). Writes PC + 8 to the link pair and branches to the immediate target. -/
  | call (f : Fields)
  /-- CALLX (R113). Writes PC + 8 to the link pair and branches to the address read in a register pair. -/
  | callx (f : Fields)
  /-- RET (R113). Moves each participant's PC to the address in a register pair, marked to the fetch unit as a return. -/
  | ret (f : Fields)
  /-- EXIT (R115). Sets each participant's PC to all ones and counts the lane as signed in every join. -/
  | exit (f : Fields)
  /-- YIELD (R115). Makes the group the most recently issued group of its quadrant. -/
  | yield (f : Fields)
  /-- JENR (R40). Replaces a join's declared mask with the group operand mask. -/
  | jenr (f : Fields)
  /-- JENR_ACT (R116). Replaces a join's declared mask with the mask of participants. -/
  | jenrAct (f : Fields)
  /-- JSIGN (R40). Sets the signed bit of each declared participant in a join. -/
  | jsign (f : Fields)
  /-- JWAIT (R41). Signs for each participant and parks it unless the join is complete. -/
  | jwait (f : Fields)
  /-- SBWAIT (R117). Holds the group until every named scoreboard slot is complete. -/
  | sbwait (f : Fields)
  /-- CWAIT (R117). Holds the group until the named outstanding-operation counter stands at the threshold or below. -/
  | cwait (f : Fields)
  /-- TWAIT (R118). Holds the group until every tag in the mask is set. -/
  | twait (f : Fields)
  /-- TWANY (R118). Holds the group until some tag in the mask is set, then writes the lowest set tag number. -/
  | twany (f : Fields)
  /-- TFIND (R118). Writes the lowest set tag number in the mask, or all ones, without waiting. -/
  | tfind (f : Fields)
  /-- TCLR (R118). Clears every tag in the mask. -/
  | tclr (f : Fields)
  /-- BARW (R119). Arrives at a hardware barrier and waits until its phase bit changes. -/
  | barw (f : Fields)
  /-- BARA (R119). Arrives at a hardware barrier without waiting. -/
  | bara (f : Fields)
  /-- RARV (R120). Adds one arrival of the group to a stage-ring slot. -/
  | rarv (f : Fields)
  /-- RWAIT (R120). Holds the group until a stage-ring slot's phase bit equals the given value. -/
  | rwait (f : Fields)
  /-- MWAIT (R121). Checks each participant's watched word and sleeps until every word differs from its expected value or the timeout falls due. -/
  | mwait (f : Fields)
  /-- MWAIT_WAKE (R121). A write to a watched line that becomes visible at the scope, or a resume, makes a sleeping MWAIT read its words again. -/
  | mwaitWake (g half : Nat)
  /-- MWAIT_TIMEOUT (R121). The timeout of an MWAIT in ticks falls due and the wait ends with a per-lane status. -/
  | mwaitTimeout (g half : Nat)
  /-- SPAWN (R45). Sends one thread record per participant to the die launch unit and writes a status to each issuing lane. -/
  | spawn (f : Fields)
  /-- SPAWN_RECORD_ARRIVAL (R45). A thread record arriving at the die launch unit is checked and placed in the bin with its key, a new bin, or refused as FULL. -/
  | spawnRecordArrival (g op : Nat)
  /-- SPAWN_BIN_TIMER_EXPIRY (R47). A bin's timer expires in ticks and the bin closes, taking any records that arrive in the same cycle. -/
  | spawnBinTimerExpiry (die bin : Nat)
  /-- SPAWN_GROUP_LAUNCH (R49). The die launch unit places a pending spawn group as a spawn team of one group on a CU of its die. -/
  | spawnGroupLaunch (die cu : Nat)
  /-- IPREF (R147). Requests n + 1 instruction-cache lines from the line of the group operand, dropping those that cannot be filled. -/
  | ipref (f : Fields)
  /-- TRAP (R142). Raises SOFTWARE_TRAP when the instruction has a participant. -/
  | trap (f : Fields)
  /-- ASSERT (R142). Raises ASSERT_FAIL and stops every group of the context when some participant's condition register is zero. -/
  | assert (f : Fields)
  /-- BKPT (R142). Raises BREAKPOINT when the instruction has a participant. -/
  | bkpt (f : Fields)
  /-- GETSR (R126). Writes the value of a special register to each participant. -/
  | getsr (f : Fields)
  /-- SETSR (R126). Writes a writable special register, such as sr.savepc, of each participant in handler mode. -/
  | setsr (f : Fields)
  /-- RENTER (R407). Checks every assumption of the region and either makes the group resident or sends it to the region's handler with a cause word. -/
  | renter (f : Fields)
  /-- RLEAVE (R408). Ends the group's residency in its region and advances the lanes. -/
  | rleave (f : Fields)
  /-- TRAPRET_REPLAY (R141). Returns every lane that entered the handler to its saved PC and leaves handler mode. -/
  | trapretReplay (f : Fields)
  /-- TRAPRET_SKIP (R141). Leaves handler mode, returning lanes saved at the faulting instruction to the word after it. -/
  | trapretSkip (f : Fields)
  /-- IADD (R128). Adds two 32-bit integers with wrap or saturation. -/
  | iadd (f : Fields)
  /-- ISUB (R128). Subtracts two 32-bit integers with wrap or saturation. -/
  | isub (f : Fields)
  /-- IMUL (R128). Multiplies two 32-bit integers with wrap or saturation. -/
  | imul (f : Fields)
  /-- IMULH (R128). Writes bits 63:32 of the signed or unsigned product. -/
  | imulh (f : Fields)
  /-- IMAD (R128). Computes a times b plus c with wrap or saturation. -/
  | imad (f : Fields)
  /-- IADDI (R128). Adds the sign-extended immediate to a 32-bit integer. -/
  | iaddi (f : Fields)
  /-- IMIN (R128). Writes the smaller of two integers, signed or unsigned. -/
  | imin (f : Fields)
  /-- IMAX (R128). Writes the larger of two integers, signed or unsigned. -/
  | imax (f : Fields)
  /-- AND (R127). Bitwise AND of two registers. -/
  | and (f : Fields)
  /-- OR (R127). Bitwise OR of two registers. -/
  | orr (f : Fields)
  /-- XOR (R127). Bitwise XOR of two registers. -/
  | xor (f : Fields)
  /-- ANDN (R127). Computes a AND NOT b. -/
  | andn (f : Fields)
  /-- SHL (R129). Shifts left, giving zero for shifts of 32 or more. -/
  | shl (f : Fields)
  /-- SHR (R129). Shifts right with zero fill or sign fill. -/
  | shr (f : Fields)
  /-- IADD64 (R128). Adds two 64-bit integers with wrap or saturation. -/
  | iadd64 (f : Fields)
  /-- IADDI64 (R128). Adds the sign-extended immediate to a 64-bit integer. -/
  | iaddi64 (f : Fields)
  /-- POPC (R127). Counts the set bits of b. -/
  | popc (f : Fields)
  /-- CLZ (R127). Counts the leading zeros of b. -/
  | clz (f : Fields)
  /-- BREV (R127). Reverses the bit order of b. -/
  | brev (f : Fields)
  /-- BFE (R129). Extracts a bit field, zero- or sign-extended. -/
  | bfe (f : Fields)
  /-- BFI (R129). Inserts a bit field of a into c. -/
  | bfi (f : Fields)
  /-- ISET (R130). Writes all ones where an integer comparison holds and zero elsewhere. -/
  | iset (f : Fields)
  /-- SEL (R127). Selects a or b according to c. -/
  | sel (f : Fields)
  /-- MOV (R127). Copies b, read through the permutation. -/
  | mov (f : Fields)
  /-- MOVI (R131). Writes the zero- or sign-extended 24-bit immediate. -/
  | movi (f : Fields)
  /-- MOVHI (R131). Replaces bits 31:24 of the destination with an 8-bit immediate. -/
  | movhi (f : Fields)
  /-- MOVX (R132). Reads the register whose index is computed at run time. -/
  | movx (f : Fields)
  /-- MOVXW (R132). Writes the register whose index is computed at run time. -/
  | movxw (f : Fields)
  /-- BWIN (R133). Takes a four-byte window of b:a and reverses, clears or sign-fills its bytes. -/
  | bwin (f : Fields)
  /-- LXCH (R134). Reads a from another lane chosen by an absolute, relative, rotating or XOR index. -/
  | lxch (f : Fields)
  /-- LMASK (R135). Combines the participants' values into one mask, count or lane result. -/
  | lmask (f : Fields)
  /-- LCOMB (R135). Reduces the participants' values within aligned lane blocks. -/
  | lcomb (f : Fields)
  /-- FADD_F32 (R196). Adds two f32 values with one rounding. -/
  | faddF32 (f : Fields)
  /-- FSUB_F32 (R196). Subtracts two f32 values with one rounding. -/
  | fsubF32 (f : Fields)
  /-- FMUL_F32 (R196). Multiplies two f32 values with one rounding. -/
  | fmulF32 (f : Fields)
  /-- FFMA_F32 (R196). Fused multiply-add in f32 with one rounding. -/
  | ffmaF32 (f : Fields)
  /-- FMIN_F32 (R198). Selects the smaller f32 operand under the NaN mode. -/
  | fminF32 (f : Fields)
  /-- FMAX_F32 (R198). Selects the larger f32 operand under the NaN mode. -/
  | fmaxF32 (f : Fields)
  /-- FSET_F32 (R199). Writes all ones where an f32 comparison holds. -/
  | fsetF32 (f : Fields)
  /-- FCLASS_F32 (R200). Writes a one-hot class mask of an f32 value. -/
  | fclassF32 (f : Fields)
  /-- FADD_F64 (R196). Adds two f64 values with one rounding. -/
  | faddF64 (f : Fields)
  /-- FSUB_F64 (R196). Subtracts two f64 values with one rounding. -/
  | fsubF64 (f : Fields)
  /-- FMUL_F64 (R196). Multiplies two f64 values with one rounding. -/
  | fmulF64 (f : Fields)
  /-- FFMA_F64 (R196). Fused multiply-add in f64 with one rounding. -/
  | ffmaF64 (f : Fields)
  /-- FMIN_F64 (R198). Selects the smaller f64 operand under the NaN mode. -/
  | fminF64 (f : Fields)
  /-- FMAX_F64 (R198). Selects the larger f64 operand under the NaN mode. -/
  | fmaxF64 (f : Fields)
  /-- FSET_F64 (R199). Writes all ones where an f64 comparison holds. -/
  | fsetF64 (f : Fields)
  /-- FCLASS_F64 (R200). Writes a one-hot class mask of an f64 value. -/
  | fclassF64 (f : Fields)
  /-- HADD2_F16 (R197). Adds pairs of f16 elements. -/
  | hadd2F16 (f : Fields)
  /-- HSUB2_F16 (R197). Subtracts pairs of f16 elements. -/
  | hsub2F16 (f : Fields)
  /-- HMUL2_F16 (R197). Multiplies pairs of f16 elements. -/
  | hmul2F16 (f : Fields)
  /-- HFMA2_F16 (R197). Fused multiply-add on pairs of f16 elements. -/
  | hfma2F16 (f : Fields)
  /-- HMIN2_F16 (R198). Elementwise minimum of f16 pairs. -/
  | hmin2F16 (f : Fields)
  /-- HMAX2_F16 (R198). Elementwise maximum of f16 pairs. -/
  | hmax2F16 (f : Fields)
  /-- HSET2_F16 (R199). Elementwise comparison of f16 pairs. -/
  | hset2F16 (f : Fields)
  /-- FRND_F32 (R201). Rounds an f32 value to an integral value. -/
  | frndF32 (f : Fields)
  /-- HADD2_BF16 (R197). Adds pairs of bf16 elements. -/
  | hadd2Bf16 (f : Fields)
  /-- HSUB2_BF16 (R197). Subtracts pairs of bf16 elements. -/
  | hsub2Bf16 (f : Fields)
  /-- HMUL2_BF16 (R197). Multiplies pairs of bf16 elements. -/
  | hmul2Bf16 (f : Fields)
  /-- HFMA2_BF16 (R197). Fused multiply-add on pairs of bf16 elements. -/
  | hfma2Bf16 (f : Fields)
  /-- HMIN2_BF16 (R198). Elementwise minimum of bf16 pairs. -/
  | hmin2Bf16 (f : Fields)
  /-- HMAX2_BF16 (R198). Elementwise maximum of bf16 pairs. -/
  | hmax2Bf16 (f : Fields)
  /-- HSET2_BF16 (R199). Elementwise comparison of bf16 pairs. -/
  | hset2Bf16 (f : Fields)
  /-- FRND_F64 (R201). Rounds an f64 value to an integral value. -/
  | frndF64 (f : Fields)
  /-- RCP_F32 (R203). Correctly rounded f32 reciprocal. -/
  | rcpF32 (f : Fields)
  /-- RSQ_F32 (R203). Correctly rounded f32 reciprocal square root. -/
  | rsqF32 (f : Fields)
  /-- SQRT_F32 (R203). Correctly rounded f32 square root. -/
  | sqrtF32 (f : Fields)
  /-- EX2_F32 (R203). Correctly rounded f32 power of two. -/
  | ex2F32 (f : Fields)
  /-- LG2_F32 (R203). Correctly rounded f32 base-2 logarithm. -/
  | lg2F32 (f : Fields)
  /-- SIN_F32 (R203). Correctly rounded sine of an argument in revolutions. -/
  | sinF32 (f : Fields)
  /-- COS_F32 (R203). Correctly rounded cosine of an argument in revolutions. -/
  | cosF32 (f : Fields)
  /-- TANH_F32 (R203). Correctly rounded f32 hyperbolic tangent. -/
  | tanhF32 (f : Fields)
  /-- RCP_F64 (R203). Correctly rounded f64 reciprocal. -/
  | rcpF64 (f : Fields)
  /-- SQRT_F64 (R203). Correctly rounded f64 square root. -/
  | sqrtF64 (f : Fields)
  /-- CVT (R207). Converts between f64, f32, f16 and bf16. -/
  | cvt (f : Fields)
  /-- CVTI (R208). Converts a floating-point value to an integer type with saturation. -/
  | cvti (f : Fields)
  /-- CVTF (R208). Converts an integer to a floating-point format. -/
  | cvtf (f : Fields)
  /-- CVTN (R210). Narrows an f32 block into one packed register under a format slot and scale. -/
  | cvtn (f : Fields)
  /-- CVTW (R211). Widens one packed register into an f32 block under a format slot and scale. -/
  | cvtw (f : Fields)
  /-- CBDEC (R213). Decodes one CB2 index per lane into eight f32 weights through the slot's codebook. -/
  | cbdec (f : Fields)
  /-- BSCALE (R212). Computes the e8m0 block scale of each aligned lane block. -/
  | bscale (f : Fields)
  /-- LD (R317). Loads bytes at each participant's virtual address into registers. -/
  | ld (f : Fields)
  /-- ST (R318). Stores bytes of a register at each participant's virtual address. -/
  | st (f : Fields)
  /-- SPLD (R320). Loads from team scratchpad. -/
  | spld (f : Fields)
  /-- SPST (R320). Stores to team scratchpad. -/
  | spst (f : Fields)
  /-- LDP (R321). Loads from the launch's copied parameter block. -/
  | ldp (f : Fields)
  /-- ATOM (R323). Performs an atomic operation per participant in ascending lane order and returns the old values. -/
  | atom (f : Fields)
  /-- RED (R323). Performs an atomic operation per participant without returning a value. -/
  | red (f : Fields)
  /-- CAS (R324). Compares bits and swaps at each participant's address. -/
  | cas (f : Fields)
  /-- ATOMS (R323). Performs an atomic operation on team-scratchpad words. -/
  | atoms (f : Fields)
  /-- CASS (R324). Compares and swaps on team-scratchpad words. -/
  | cass (f : Fields)
  /-- FENCE (R331). Waits as a release, for copy or collective counters, and makes a full L1 invalidation as its flags select. -/
  | fence (f : Fields)
  /-- REL (R328). Waits for the group's completed writes, then writes VALUE and merges the write signature into a synchronisation line. -/
  | rel (f : Fields)
  /-- ACQ (R329). Reads a synchronisation line and invalidates L1 words whose lines hit its signature. -/
  | acq (f : Fields)
  /-- SIGCLR (R330). Clears a synchronisation line's signature and SAT. -/
  | sigclr (f : Fields)
  /-- MARM_ARM (R332). Arms a monitor on a 32-bit word and reports whether it already differs. -/
  | marmArm (f : Fields)
  /-- MARM_ARM_B64 (R332). Arms a monitor on a 64-bit word and reports whether it already differs. -/
  | marmArmB64 (f : Fields)
  /-- MARM_TEST (R332). Writes the fired bits of the group's four monitors. -/
  | marmTest (f : Fields)
  /-- MARM_CLR (R332). Disarms a monitor and clears its fired bit. -/
  | marmClr (f : Fields)
  /-- MONITOR_FIRE (R332). An armed monitor whose word, checked after a visible write or a resume, differs from its expected value sets its fired bit. -/
  | monitorFire (g k : Nat)
  /-- PREF (R333). Requests lines into L1 or L2, dropping untranslatable or poisoned lines without trace. -/
  | pref (f : Fields)
  /-- CCTL_WB (R334). Writes home the dirty private-page words of a range of L1 lines. -/
  | cctlWb (f : Fields)
  /-- CCTL_INV (R334). Invalidates clean unregistered words of a range of L1 lines. -/
  | cctlInv (f : Fields)
  /-- CCTL_INVALL (R334). Makes the full invalidation of the CU's L1. -/
  | cctlInvall (f : Fields)
  /-- CCTL_IINV (R334). Invalidates a range of lines in the instruction caches of every CU of the context. -/
  | cctlIinv (f : Fields)
  /-- PZERO (R335). Zeroes a 4 KiB page at home, recalling every copy and clearing poison. -/
  | pzero (f : Fields)
  /-- MEMORY_ACCESS_COMPLETE (R318). A memory instruction completes when its results, L1 writes or home acknowledgements are in, completing its slot and lowering oc.mem in order. -/
  | memoryAccessComplete (g op : Nat) (lanes : BitVec 32)
  /-- MMA (R269). Signs the join and, when it completes, captures A, B and C and issues D := C + A x B to the matrix engine. -/
  | mma (f : Fields)
  /-- MMAS (R260). As MMA, skipping the A blocks whose bitmap bits are clear. -/
  | mmas (f : Fields)
  /-- MMACB (R261). As MMA with e2m1 A and cb2 B decoded through the codebook. -/
  | mmacb (f : Fields)
  /-- MMAD (R269). Join-issued f64 matrix multiply-accumulate of 16 x 16 x 8. -/
  | mmad (f : Fields)
  /-- MATRIX_ENGINE_START (R263). The matrix engine starts the next queued instruction of the CU in arrival order. -/
  | matrixEngineStart (cu : Nat)
  /-- MATRIX_COMPLETE (R267). A matrix instruction writes its destination in all lanes, completes its slot and lowers oc.mat. -/
  | matrixComplete (cu : Nat)
  /-- MBMAP (R272). Builds the MMAS bitmap of an A fragment. -/
  | mbmap (f : Fields)
  /-- MZERO (R271). Clears an accumulator block in all 32 lanes. -/
  | mzero (f : Fields)
  /-- MSCALE (R273). Loads the SA or SB scale latch from a scale fragment. -/
  | mscale (f : Fields)
  /-- MLDF (R274). Loads a fragment image from team scratchpad into a register block. -/
  | mldf (f : Fields)
  /-- MSTF (R274). Stores a register block as a fragment image in team scratchpad. -/
  | mstf (f : Fields)
  /-- AMOV (R236). Copies an affine form bit for bit. -/
  | amov (f : Fields)
  /-- ANEW (R236). Builds a form from a centre and half-width, minting one symbol. -/
  | anew (f : Fields)
  /-- ALD (R237). Loads a 64-byte affine record into an affine register. -/
  | ald (f : Fields)
  /-- AST (R237). Stores an affine register as a 64-byte record. -/
  | ast (f : Fields)
  /-- AADD (R238). Adds two affine forms with sound rounding. -/
  | aadd (f : Fields)
  /-- ASUB (R238). Subtracts two affine forms with sound rounding. -/
  | asub (f : Fields)
  /-- ANEG (R238). Negates an affine form. -/
  | aneg (f : Fields)
  /-- ASCL (R238). Scales an affine form by an f64 value. -/
  | ascl (f : Fields)
  /-- AMUL (R239). Multiplies two affine forms, minting a symbol for the linearisation error. -/
  | amul (f : Fields)
  /-- AFMA (R239). Fused affine multiply-add, minting a symbol for the error. -/
  | afma (f : Fields)
  /-- ARCP (R240). Min-range reciprocal of an affine form, minting a symbol. -/
  | arcp (f : Fields)
  /-- ASQRT (R241). Min-range square root of an affine form, minting a symbol. -/
  | asqrt (f : Fields)
  /-- AFOLD (R243). Keeps the k largest terms and condenses the rest into one fresh symbol. -/
  | afold (f : Fields)
  /-- ACEN (R244). Writes the f64 centre of a form. -/
  | acen (f : Fields)
  /-- ARAD (R244). Writes the radius or a directed bound of a form. -/
  | arad (f : Fields)
  /-- ATERM (R245). Writes a term's id and coefficient, or the form's count, VOID bit and residue. -/
  | aterm (f : Fields)
  /-- ADECK_READ (R246). Writes the Deck's H and A and the group's hand. -/
  | adeckRead (f : Fields)
  /-- ADECK_ADD (R246). Adds to the Deck's allowance and writes the Deck state. -/
  | adeckAdd (f : Fields)
  /-- ADECK_SET (R246). Sets the Deck's next hand and writes the Deck state. -/
  | adeckSet (f : Fields)
  /-- CPYL (R293). Starts a copy of a tensor tile from memory into team scratchpad. -/
  | cpyl (f : Fields)
  /-- CPYS (R293). Starts a copy of a scratchpad image into a tensor tile. -/
  | cpys (f : Fields)
  /-- CPYG (R293). Starts a gather of rows chosen per participant into scratchpad. -/
  | cpyg (f : Fields)
  /-- CPYR (R294). Starts an atomic add of a scratchpad image into a tensor tile. -/
  | cpyr (f : Fields)
  /-- CPYP (R295). Starts a prefetch of a tile's lines into L2. -/
  | cpyp (f : Fields)
  /-- COLL_ALLRED (R296). Starts an all-reduce over the process group. -/
  | collAllred (f : Fields)
  /-- COLL_ALLGATH (R296). Starts an all-gather over the process group. -/
  | collAllgath (f : Fields)
  /-- COLL_REDSCAT (R296). Starts a reduce-scatter over the process group. -/
  | collRedscat (f : Fields)
  /-- COLL_SEND (R296). Starts sending a tile to one rank. -/
  | collSend (f : Fields)
  /-- COLL_RECV (R296). Starts receiving a tile from one rank. -/
  | collRecv (f : Fields)
  /-- COLL_PEER_DATA (R297). Data of a collective arrives from a peer rank. -/
  | collPeerData (asid coll rank : Nat) (data : List (BitVec 8))
  /-- COPY_LAND (R290). A copy lands: its tag is set, its ring slot receives an arrival, its memory counter is decremented and its slot completes. -/
  | copyLand (g op : Nat)
  /-- ASMK (R399). Reads an assumption descriptor, installs its watch and returns a handle and status. -/
  | asmk (f : Fields)
  /-- ASDROP (R403). Drops an assumption, revoking it first if it is LIVE. -/
  | asdrop (f : Fields)
  /-- ASQRY (R404). Returns the state word of each participant's handle. -/
  | asqry (f : Fields)
  /-- LAUNCH (R428). Writes a launch or graph entry into queue 7 and returns its index. -/
  | launch (f : Fields)
  /-- CKPT (R444). Requests or joins a checkpoint of the context and returns a status. -/
  | ckpt (f : Fields)
  /-- CLAUSE_HEADER (R61). At a clause header the issue unit checks it and admission, then holds the group until its slot and counter waits pass. -/
  | clauseHeader (h : Header)
  /-- LONG_LATENCY_RESULT (R73). A long-latency result is written and its registers stop being pending. -/
  | longLatencyResult (g op : Nat) (lanes : BitVec 32)
  /-- FETCH_MISS (R146). The issue address lies in a line the instruction cache lacks; the fetch unit requests it and the group stalls. -/
  | fetchMiss (g : Nat)
  /-- FETCH_LINE_FILL (R146). A requested instruction line arrives and is installed, and stalled groups issue. -/
  | fetchLineFill (cu asid line : Nat)
  /-- PAGE_WALK (R384). The walker complex walks the tables for a TLB miss and installs the translation or records a page fault. -/
  | pageWalk (cu asid : Nat) (va : BitVec 64) (kind : AccessKind)
  /-- PAGE_REQUEST_SEND (R150). A replayable page fault sends a page request once the function's allocation allows. -/
  | pageRequestSend (req : Nat)
  /-- PAGE_REQUEST_RESPONSE (R151). A page request response arrives; on Success parked groups replay, otherwise the fault is delivered as TH. -/
  | pageRequestResponse (req : Nat) (answer : PageAnswer)
  /-- TRAP_HANDLER_ENTRY (R140). After pending registers clear, the fault record is written and live lanes enter the context trap handler. -/
  | trapHandlerEntry (g : Nat)
  /-- CONTEXT_END (R448). A fatal fault ends the context: EXIT is injected at every group's next issue slot and waits are released. -/
  | contextEnd (asid : Nat)
  /-- GROUP_RETIRE (R59). A group whose lanes have exited and whose slots and counters are clear retires, freeing its state and, last, its team. -/
  | groupRetire (g : Nat)
  /-- LAUNCH_COMPLETE (R426). A completed launch has its writes performed at SYSTEM scope, STATE 2 written and DONE decremented. -/
  | launchComplete (l : Nat)
  /-- QUEUE_ENTRY_CONSIDER (R425). The scheduler checks the next queue entry and accepts it with STATE 1 or refuses it with STATE 3 and a cause. -/
  | queueEntryConsider (asid queue : Nat)
  /-- GRAPH_NODE_START (R427). A graph node starts once every predecessor has completed. -/
  | graphNodeStart (l : Nat)
  /-- TEAM_PLACE (R429). The grid scheduler places a waiting team on eligible CUs of one cluster. -/
  | teamPlace (t cluster : Nat)
  /-- SRAM_WAY_CONVERT (R305). An L1 way is written home, invalidated and zeroed to become scratchpad for a chosen team. -/
  | sramWayConvert (cu : Nat)
  /-- FORWARD_PROGRESS_SWAP (R432). No group of a CU has issued for N ticks, and blocked teams are swapped for the earliest waiting team. -/
  | forwardProgressSwap (cu : Nat)
  /-- PREEMPT_BY_CLASS (R438). Lower-class resident teams are swapped out so a higher-class waiting team can be placed. -/
  | preemptByClass (t cluster : Nat)
  /-- BANK_SWITCH (R435). The Stock becomes the active bank after 64 cycles and the former active bank becomes the Waste. -/
  | bankSwitch (cu : Nat) (incoming : List Nat)
  /-- ROW_SWAP (R437). Some teams of a CU are drained and spilled while others keep issuing, and an incoming team is loaded. -/
  | rowSwap (cu : Nat) (outgoing : List Nat)
  /-- WASTE_ROW_SPILL (R436). Waste rows claimed by a later load are spilled to the save area after their drains. -/
  | wasteRowSpill (cu t : Nat)
  /-- CHECKPOINT_TAKE (R446). Groups stop and drain, objects are written to the image and covered pages become copy-on-write. -/
  | checkpointTake (asid : Nat)
  /-- UNCORRECTABLE_ERROR (R306). An uncorrectable error in a register row, scratchpad word or DRAM leads to rollback or the end of the context. -/
  | uncorrectableError (site : ErrorSite)
  /-- HANG_TIMEOUT (R449). A context with no issue and no completion for LIMIT_MS ends with HANG. -/
  | hangTimeout (asid : Nat)
  /-- CAUGHT_WRITE_EVALUATE (R402). A watch filter holds a caught write and the registry evaluates it, releasing it or breaking an assumption. -/
  | caughtWriteEvaluate (held : Nat)
  /-- REVOCATION_DELIVER (R409). Revocation reaches a CU, which stops each resident dependant at its next issue slot and ends its waits. -/
  | revocationDeliver (slot g : Nat)
  /-- REVOCATION_ACK (R410). Once a dependant's reads are performed the CU acknowledges and redirects it to HANDLER with the cause word. -/
  | revocationAck (slot g : Nat)
  /-- IMAGE_PATCH (R411). The context engine redirects a saved dependant in its image and acknowledges for it. -/
  | imagePatch (slot g : Nat)
  /-- HELD_WRITE_RELEASE (R412). When every acknowledgement is in, held writes are performed in coherence order and the revocation completes. -/
  | heldWriteRelease (slot : Nat)
  /-- RECLASSIFY (R366). A miss by another CU on a PRIVATE frame makes it TRANSIT, writes the owner's dirty words and makes it SHARED. -/
  | reclassify (frame cu : Nat)
  /-- REGISTRATION_RECALL (R368). A die slice recalls a registered word from its owning L1 and merges the value. -/
  | registrationRecall (line word : Nat)
  /-- FORWARDED_READ (R368). A read of a registered word at the slice is forwarded to the owning L1, which answers with the value. -/
  | forwardedRead (cu line word : Nat)
  /-- TRANSIENT_REQUEST (R370). A requester asks the line's holders for tokens, and each holder answers by the token table. -/
  | transientRequest (who : Holder) (line : Nat) (write : Bool)
  /-- ATTEMPT_FAIL (R370). A transient request that has not gathered enough tokens in 512 fabric cycles fails and is retried after a delay. -/
  | attemptFail (who : Holder) (line : Nat) (write : Bool)
  /-- TRUMP_REQUEST (R372). After 16 failed attempts or 4 microseconds the requester sends a trump request, which enters the home's trump table. -/
  | trumpRequest (who : Holder) (line : Nat) (write : Bool)
  /-- TRUMP_RELEASE (R373). A trump requester finishes its operation and releases the entry, and the next entry for the line becomes active. -/
  | trumpRelease (who : Holder) (line : Nat)
  /-- LINE_REPLACE (R371). A die slice replaces a line, recalling registrations and returning its tokens to the home store. -/
  | lineReplace (die line : Nat)
  /-- HOST_MEMRD (R374). A host CXL.mem read of device memory is served by the host agent with one token. -/
  | hostMemrd (pa count : Nat)
  /-- HOST_MEMWR (R373). A host CXL.mem write is performed at the home store, invalidating L1 copies before acknowledgement. -/
  | hostMemwr (pa : Nat) (data : List (BitVec 8))
  /-- HOST_SNOOP (R374). A host snoop makes the host agent recall tokens and L1 words of a host-memory line. -/
  | hostSnoop (line : Nat) (invalidate : Bool)
  /-- BIRSP (R374). The host's BIRsp completes a back-invalidate and lets the host agent give up the token. -/
  | birsp (line : Nat)
  /-- D2H_COMPLETION (R374). The host completes a device RdShared or RdOwn and the host agent grants tokens. -/
  | d2hCompletion (die line : Nat)
  /-- PEER_ACCESS (R364). A peer's access to this module's memory is performed by the link agent. -/
  | peerAccess (pa : Nat) (access : PeerOp)
  /-- FRAME_ZEROING (R377). The zero engine takes a FREE-DIRTY frame through ZEROING to CLEAN. -/
  | frameZeroing (frame : Nat)
  /-- UNASSIGNED_OPCODE (R84). An instruction word whose opcode is unassigned reaches issue and raises ILLEGAL_OPCODE. -/
  | unassignedOpcode (op : BitVec 8) (f : Fields)
  /-- DOORBELL (R424). A doorbell write sets a queue's new tail and acts as an acquire for the scheduler's reads. -/
  | doorbell 
  /-- PORT_ADMIT (R311). In each fabric cycle an L2 slice port admits up to two eligible line requests. -/
  | portAdmit 
  /-- IMG_INSERT (R154). Validates an image and inserts it in the image cache or sets the function's bit. -/
  | imgInsert 
  /-- IMG_LOOKUP (R154). Looks up a visible image cache entry by digest and length. -/
  | imgLookup 
  /-- IMG_RELEASE (R157). Clears a function's bit of an image cache entry, removing its cached translations and freeing the entry when the mask is empty. -/
  | imgRelease 
  /-- IMG_QUERY (R154). Returns an image cache entry's digest, length, base and mask. -/
  | imgQuery 
  /-- BIAS_HOST (R375). Flips pages to host bias. -/
  | biasHost 
  /-- BIAS_DEVICE (R375). Flips pages to device bias. -/
  | biasDevice 
  /-- TLB_INV_VA (R387). Invalidates translations of an ASID over a VA range. -/
  | tlbInvVa 
  /-- TLB_INV_ASID (R387). Invalidates every non-global translation of an ASID. -/
  | tlbInvAsid 
  /-- TLB_INV_FUNC (R387). Invalidates every translation of a function. -/
  | tlbInvFunc 
  /-- TLB_INV_S2 (R387). Invalidates translations whose stage-2 part covers an IPA range. -/
  | tlbInvS2 
  /-- CTX_CREATE (R421). Creates a context with its descriptor, queue table, quota and privilege. -/
  | ctxCreate 
  /-- CTX_DELETE (R421). Ends and deletes a context, freeing its reservations and frames. -/
  | ctxDelete 
  /-- FREEZE (R442). Freezes every context of the package or pod into second-tier memory. -/
  | freeze 
  /-- POD_FREEZE_MESSAGE (R442). A pod freeze command arrives over the Huader links and the module freezes in lockstep with the pod. -/
  | podFreezeMessage 
  /-- THAW (R443). Returns a frozen context's teams to the waiting set. -/
  | thaw 
  /-- PART_SET (R452). Defines or deletes a partition of crossbar ports. -/
  | partSet 
  /-- VF_BIND (R454). Binds a virtual function to a partition with an optional stage-2 root. -/
  | vfBind 
  /-- CTX_BW (R309). Installs a context's bandwidth word at every L2 slice port. -/
  | ctxBw 
  /-- VF_RESET (R451). Deletes a function's contexts, frees its frames and unbinds it. -/
  | vfReset 
  /-- CLUSTER_LEND (R455). Lends a cluster port to another partition after flushing its L1s and caches. -/
  | clusterLend 
  /-- CLUSTER_RECLAIM (R456). Returns a lent cluster, swapping out the gangs resident there. -/
  | clusterReclaim 
  /-- FRAME_CLAIM (R457). Moves CLEAN frames to OWNED by a function or the system. -/
  | frameClaim 
  /-- FRAME_FREE (R458). Removes the translations of OWNED frames and moves them to FREE-DIRTY. -/
  | frameFree 
  /-- MB_CMD_UNASSIGNED (R463). A mailbox command with an unassigned code returns INVALID. -/
  | mbCmdUnassigned 
  /-- SUMMARY (R465). A write of SUM_ADDR starts a report of the package's or function's state into a buffer. -/
  | summary 
  /-- MEM_ILV_WRITE (R20). The first write of MEM_ILV after reset sets the interleave; later writes are ignored. -/
  | memIlvWrite 
  /-- REGISTER_WRITE (R461). A write to a management register without its own row takes effect, or is ignored and counted. -/
  | registerWrite 
  /-- POWER_ON_RESET (R467). Power good starts reset from strap sampling through training and zeroing to READY. -/
  | powerOnReset 
  /-- HOST_RESET (R467). A host conventional reset of the physical function runs reset from link training. -/
  | hostReset 
  /-- VF_FLR (R467). A function-level reset of a virtual function acts as VF_RESET. -/
  | vfFlr 
  /-- POWER_CLOCK_STEP (R468). The power control lowers or raises the arithmetic clock in 25 MHz steps to hold the power limit. -/
  | powerClockStep 
  /-- THERMAL_TRIP (R468). At 110 degrees or loss of coolant flow the part powers off with LAST_CAUSE 2. -/
  | thermalTrip 
  /-- CU_TEMPERATURE_SAMPLE (R430). A CU sensor reading makes the CU hot at 90 degrees or clears it at 84 degrees. -/
  | cuTemperatureSample 
  /-- VOLTAGE_DROOP (R430). A voltage-droop event that completes a triple within 100 microseconds bars the CU. -/
  | voltageDroop 
  /-- BAR_EXPIRY (R430). A CU's bar expires 1 ms after its last triple. -/
  | barExpiry 
  /-- LINK_DOWN (R470). A Huader link goes down after 16 failed retries or loss of lock, ending contexts routed over it. -/
  | linkDown 
  /-- ETH_PACKET_RECEIVE (R471). A UDP packet or acknowledgement arrives on an Ethernet port. -/
  | ethPacketReceive 
  /-- ETH_RETRANSMIT_TIMEOUT (R471). A packet without acknowledgement for 100 microseconds is retransmitted. -/
  | ethRetransmitTimeout 
  /-- ETH_ACK_TIMEOUT (R471). One second without acknowledgement ends the context with LINK_FAILURE. -/
  | ethAckTimeout 
  /-- ETH_ECN_MARK (R471). An ECN mark halves the sending rate to that peer. -/
  | ethEcnMark 
  /-- POWER_FAULT (R467). A loss of supply stops the part and leads to a reset with LAST_CAUSE 3. -/
  | powerFault 
  /-- HOST_LINK_FAILURE (R307). The CXL link to the host fails, the host agent is taken out of service and the words it alone held modified are poisoned. -/
  | hostLinkFailure 
  /-- PATROL_SCRUBBING (R306). Patrol scrubbing reads every DRAM line once every 24 hours, correcting and counting errors. -/
  | patrolScrubbing 
  /-- PAGE_REQUEST_CAPABILITY (R151). System software writes a function's Page Request capability, setting its allocation or re-enabling it after a Response Failure. -/
  | pageRequestCapability 
  /-- LINK_LEVEL_RETRY (R470). A Huader flit that fails its CRC is retried at link level, and the failed retries of the flit are counted toward the link going down. -/
  | linkLevelRetry 
  /-- LINK_RETRAIN (R470). A link retrains, regaining lock and UP, and its retrain count in LINK_STS and the error counters increases. -/
  | linkRetrain 
  deriving DecidableEq, Repr

end Sys2Proof
end

