-- ==== Sys2Proof/WellFormed.lean ====
section
/-!
DEFINITION. Well-formedness: the part of step 6 of R88 that depends on the instruction word alone. Kinds of operand
fields (R67), the MOD, SRCC and LOOK values each description gives, PERM and PPARAM (R80, R82), and the predicate
sense (R70). The checks that read a format slot's ELEMENT (R209, R265) are made at issue.
-/
namespace Sys2Proof

/-- The kinds of an operand field (R67). `below` and `only` are I8 fields whose description bounds the value;
`packed n align count` is a block field that carries an index in its low `n` bits (R265). -/
inductive Kind where
  | v | v2 | v4 | a | j | i8 | z
  | vk (align count : Nat)
  | below (n : Nat)
  | only (n : Nat)
  | packed (low align count : Nat)
  deriving DecidableEq, Repr

/-- The values that a field of the kind may hold (R67). -/
def Kind.ok : Kind → Nat → Bool
  | .v, _ => true
  | .v2, n => n % 2 == 0 && n + 1 ≤ 254
  | .v4, n => n % 4 == 0 && n + 3 ≤ 254
  | .a, n => n < 16
  | .j, n => n < 16
  | .i8, _ => true
  | .z, n => n == 0
  | .vk al c, n => n % al == 0 && n + c ≤ 255
  | .below k, n => n < k
  | .only k, n => n == k
  | .packed low al c, n =>
    let first := n / 2 ^ low * 2 ^ low
    first % al == 0 && first + c ≤ 255

/-- The registers `v`n that a field of the kind names (R68). -/
def Kind.regs : Kind → Nat → List Nat
  | .v, n => [n]
  | .v2, n => [n, n + 1]
  | .v4, n => [n, n + 1, n + 2, n + 3]
  | .vk _ c, n => (List.range c).map (n + ·)
  | .packed low _ c, n => (List.range c).map (n / 2 ^ low * 2 ^ low + ·)
  | _, _ => []

/-- The affine register that a field of the kind names, as 256 + n (R76). -/
def Kind.aregs : Kind → Nat → List Nat
  | .a, n => [256 + n]
  | _, _ => []

/-- The signature of an instruction: its field kinds, whether it is an immediate form (R69), permutable (R80),
marked † (R82) or L (R83), whether it requires a slot (R77), and whether its MOD and SRCC values are given. -/
structure Sig where
  dst    : Kind
  a      : Kind
  b      : Kind
  c      : Kind
  imm    : Bool
  perm   : Bool
  dagger : Bool
  long   : Bool
  slot   : Bool
  mod    : Bool
  deriving DecidableEq, Repr

/-- MOD bits 1:0. -/
def low (m : BitVec 3) : BitVec 2 := m.extractLsb' 0 2
/-- The special registers of 64 bits (R125). -/
def srWide (n : Nat) : Bool := n == 11 || n == 15 || n == 16 || n == 17
/-- The floating-point codes of CVT (R207). -/
def fpCode (c : Nat) : Bool := c == 1 || c == 2 || c == 3 || c == 9
def fpKind (c : Nat) : Kind := if c == 9 then .v2 else .v
/-- The 64-bit integer codes of CVTI and CVTF (R208). -/
def intWide (c : Nat) : Bool := c == 2 || c == 3
def intKind (c : Nat) : Kind := if intWide c then .v2 else .v
/-- The register kind of a type code (R314). -/
def memKind (t : Nat) : Kind := if t == 5 then .v2 else if t == 6 then .v4 else .v
/-- The register kind of an atomic's width (R313). -/
def wide (m : BitVec 3) : Kind := if m == 1 then .v2 else .v
/-- The registers of a fragment move (R274). -/
def fragRegs (m : BitVec 3) : Nat :=
  match m.toNat with
  | 0 => 8
  | 1 => 16
  | 2 => 32
  | _ => 4
/-- The completion target index by its kind (R281). -/
def targetKind (m : BitVec 3) : Kind :=
  match m.toNat with
  | 1 => .below 64
  | 2 => .below 128
  | _ => .z

/-- The signature of each instruction of the map, from its chapter's encoding table. -/
def Instr.sig? : Instr → Option Sig
  | .nop f => some ⟨.z, .z, .z, .z, false, false, false, false, false, f.mod == 0⟩
  | .bra f => some ⟨.z, .z, .z, .z, true, false, false, false, false, low f.mod == 0⟩
  | .brax f => some ⟨.z, .v2, .z, .z, false, false, false, false, false, f.mod == 0⟩
  | .call f => some ⟨.v2, .z, .z, .z, true, false, false, false, false, low f.mod == 0⟩
  | .callx f => some ⟨.v2, .v2, .z, .z, false, false, false, false, false, f.mod == 0⟩
  | .ret f => some ⟨.z, .v2, .z, .z, false, false, false, false, false, f.mod == 0⟩
  | .exit f => some ⟨.z, .z, .z, .z, false, false, false, false, false, f.mod == 0⟩
  | .yield f => some ⟨.z, .z, .z, .z, false, false, false, false, false, f.mod == 0⟩
  | .jenr f => some ⟨.j, .v, .z, .z, false, false, false, false, false, f.mod == 0⟩
  | .jenrAct f => some ⟨.j, .z, .z, .z, false, false, false, false, false, f.mod == 1⟩
  | .jsign f => some ⟨.j, .z, .z, .z, false, false, false, false, false, f.mod == 0⟩
  | .jwait f => some ⟨.j, .z, .z, .z, false, false, false, false, false, f.mod == 0⟩
  | .sbwait f => some ⟨.z, .z, .z, .below 128, false, false, false, false, false, f.mod == 0⟩
  | .cwait f => some ⟨.z, .z, .z, .below 64, false, false, false, false, false, f.mod.toNat < 4⟩
  | .twait f => some ⟨.z, .v2, .z, .z, false, false, false, false, false, f.mod == 0⟩
  | .twany f => some ⟨.v, .v2, .z, .z, false, false, false, false, false, f.mod == 0⟩
  | .tfind f => some ⟨.v, .v2, .z, .z, false, false, false, false, false, f.mod == 0⟩
  | .tclr f => some ⟨.z, .v2, .z, .z, false, false, false, false, false, f.mod == 0⟩
  | .barw f => some ⟨.z, .below 32, if f.mod == 1 then .v else .z, .z, false, false, false, false, false, f.mod.toNat < 2⟩
  | .bara f => some ⟨.z, .below 32, if f.mod == 1 then .v else .z, .z, false, false, false, false, false, f.mod.toNat < 2⟩
  | .rarv f => some ⟨.z, .below 8, .z, .below 16, false, false, false, false, false, f.mod == 0⟩
  | .rwait f => some ⟨.z, .below 8, .z, .below 16, false, false, false, false, false, f.mod.toNat < 2⟩
  | .mwait f => some ⟨.v, .v2, if f.mod.getLsbD 0 then .v2 else .v, .v, false, false, false, false, false, true⟩
  | .spawn f => some ⟨.v, .v2, .v4, .z, false, false, false, true, false, f.mod == 0⟩
  | .ipref f => some ⟨.z, .v2, .z, .below 16, false, false, false, false, false, f.mod == 0⟩
  | .trap f => some ⟨.z, .z, .z, .z, true, false, false, false, false, low f.mod == 0⟩
  | .assert f => some ⟨.z, .v, .v2, .z, false, false, false, false, false, f.mod == 0⟩
  | .bkpt f => some ⟨.z, .z, .z, .z, true, false, false, false, false, low f.mod == 0⟩
  | .getsr f => some ⟨if srWide f.srcc.toNat then .v2 else .v, .z, .z, .below 21, false, false, false, false, false, f.mod == 0⟩
  | .setsr f => some ⟨.z, .v2, .z, .only 17, false, false, false, false, false, f.mod == 0⟩
  | .renter f => some ⟨.z, .z, .z, .z, false, false, false, false, false, f.mod == 0⟩
  | .rleave f => some ⟨.z, .z, .z, .z, false, false, false, false, false, f.mod == 0⟩
  | .trapretReplay f => some ⟨.z, .z, .z, .z, false, false, false, false, false, f.mod == 0⟩
  | .trapretSkip f => some ⟨.z, .z, .z, .z, false, false, false, false, false, f.mod == 1⟩
  | .iadd f => some ⟨.v, .v, .v, .z, false, true, false, false, false, low f.mod != 2⟩
  | .isub f => some ⟨.v, .v, .v, .z, false, true, false, false, false, low f.mod != 2⟩
  | .imul f => some ⟨.v, .v, .v, .z, false, true, false, false, false, low f.mod != 2⟩
  | .imulh f => some ⟨.v, .v, .v, .z, false, true, false, false, false, low f.mod == 0 || low f.mod == 2⟩
  | .imad f => some ⟨.v, .v, .v, .v, false, true, false, false, false, low f.mod != 2⟩
  | .iaddi f => some ⟨.v, .v, .z, .z, true, false, false, false, false, low f.mod != 2⟩
  | .imin f => some ⟨.v, .v, .v, .z, false, true, false, false, false, low f.mod == 0 || low f.mod == 2⟩
  | .imax f => some ⟨.v, .v, .v, .z, false, true, false, false, false, low f.mod == 0 || low f.mod == 2⟩
  | .and f => some ⟨.v, .v, .v, .z, false, true, false, false, false, low f.mod == 0⟩
  | .orr f => some ⟨.v, .v, .v, .z, false, true, false, false, false, low f.mod == 0⟩
  | .xor f => some ⟨.v, .v, .v, .z, false, true, false, false, false, low f.mod == 0⟩
  | .andn f => some ⟨.v, .v, .v, .z, false, true, false, false, false, low f.mod == 0⟩
  | .shl f => some ⟨.v, .v, .v, .z, false, true, false, false, false, low f.mod == 0⟩
  | .shr f => some ⟨.v, .v, .v, .z, false, true, false, false, false, low f.mod == 0 || low f.mod == 2⟩
  | .iadd64 f => some ⟨.v2, .v2, .v2, .z, false, false, false, false, false, low f.mod != 2 && f.mod.toNat < 4⟩
  | .iaddi64 f => some ⟨.v2, .v2, .z, .z, true, false, false, false, false, low f.mod != 2⟩
  | .popc f => some ⟨.v, .z, .v, .z, false, true, false, false, false, low f.mod == 0⟩
  | .clz f => some ⟨.v, .z, .v, .z, false, true, false, false, false, low f.mod == 0⟩
  | .brev f => some ⟨.v, .z, .v, .z, false, true, false, false, false, low f.mod == 0⟩
  | .bfe f => some ⟨.v, .v, .v, .z, false, true, false, false, false, low f.mod == 0 || low f.mod == 2⟩
  | .bfi f => some ⟨.v, .v, .v, .v, false, true, false, false, false, low f.mod == 0⟩
  | .iset f => some ⟨.v, .v, .v, .below 2, false, true, true, false, false, f.mod.toNat < 6⟩
  | .sel f => some ⟨.v, .v, .v, .v, false, true, false, false, false, low f.mod == 0⟩
  | .mov f => some ⟨.v, .z, .v, .z, false, true, false, false, false, low f.mod == 0⟩
  | .movi f => some ⟨.v, .z, .z, .z, true, false, false, false, false, low f.mod == 0 || low f.mod == 1⟩
  | .movhi f => some ⟨.v, .z, .z, .z, true, false, false, false, false, low f.mod == 0 && f.imm.toNat < 256⟩
  | .movx f => some ⟨.v, .v, .z, .i8, false, false, false, false, false, f.mod == 0⟩
  | .movxw f => some ⟨.z, .v, .v, .i8, false, true, false, false, false, low f.mod == 0⟩
  | .bwin f => some ⟨.v, .v, .v, .v, false, true, false, false, false, low f.mod == 0⟩
  | .lxch _ => some ⟨.v, .v, .v, .i8, false, true, false, false, false, true⟩
  | .lmask f => some ⟨.v, .z, .v, .z, false, true, true, false, false, f.mod.toNat < 7⟩
  | .lcomb _ => some ⟨.v, .z, .v, .below 6, false, true, true, false, false, true⟩
  | .faddF32 _ => some ⟨.v, .v, .v, .z, false, true, false, false, false, true⟩
  | .fsubF32 _ => some ⟨.v, .v, .v, .z, false, true, false, false, false, true⟩
  | .fmulF32 _ => some ⟨.v, .v, .v, .z, false, true, false, false, false, true⟩
  | .ffmaF32 _ => some ⟨.v, .v, .v, .v, false, true, false, false, false, true⟩
  | .fminF32 f => some ⟨.v, .v, .v, .z, false, true, false, false, false, (low f.mod).toNat < 2⟩
  | .fmaxF32 f => some ⟨.v, .v, .v, .z, false, true, false, false, false, (low f.mod).toNat < 2⟩
  | .fsetF32 _ => some ⟨.v, .v, .v, .z, false, true, true, false, false, true⟩
  | .fclassF32 f => some ⟨.v, .z, .v, .z, false, true, false, false, false, low f.mod == 0⟩
  | .faddF64 f => some ⟨.v2, .v2, .v2, .z, false, false, false, false, false, f.mod.toNat < 4⟩
  | .fsubF64 f => some ⟨.v2, .v2, .v2, .z, false, false, false, false, false, f.mod.toNat < 4⟩
  | .fmulF64 f => some ⟨.v2, .v2, .v2, .z, false, false, false, false, false, f.mod.toNat < 4⟩
  | .ffmaF64 f => some ⟨.v2, .v2, .v2, .v2, false, false, false, false, false, f.mod.toNat < 4⟩
  | .fminF64 f => some ⟨.v2, .v2, .v2, .z, false, false, false, false, false, f.mod.toNat < 2⟩
  | .fmaxF64 f => some ⟨.v2, .v2, .v2, .z, false, false, false, false, false, f.mod.toNat < 2⟩
  | .fsetF64 _ => some ⟨.v, .v2, .v2, .z, false, false, true, false, false, true⟩
  | .fclassF64 f => some ⟨.v, .z, .v2, .z, false, false, false, false, false, f.mod == 0⟩
  | .hadd2F16 _ => some ⟨.v, .v, .v, .z, false, true, false, false, false, true⟩
  | .hsub2F16 _ => some ⟨.v, .v, .v, .z, false, true, false, false, false, true⟩
  | .hmul2F16 _ => some ⟨.v, .v, .v, .z, false, true, false, false, false, true⟩
  | .hfma2F16 _ => some ⟨.v, .v, .v, .v, false, true, false, false, false, true⟩
  | .hmin2F16 f => some ⟨.v, .v, .v, .z, false, true, false, false, false, (low f.mod).toNat < 2⟩
  | .hmax2F16 f => some ⟨.v, .v, .v, .z, false, true, false, false, false, (low f.mod).toNat < 2⟩
  | .hset2F16 _ => some ⟨.v, .v, .v, .z, false, true, true, false, false, true⟩
  | .frndF32 _ => some ⟨.v, .z, .v, .z, false, true, false, false, false, true⟩
  | .hadd2Bf16 _ => some ⟨.v, .v, .v, .z, false, true, false, false, false, true⟩
  | .hsub2Bf16 _ => some ⟨.v, .v, .v, .z, false, true, false, false, false, true⟩
  | .hmul2Bf16 _ => some ⟨.v, .v, .v, .z, false, true, false, false, false, true⟩
  | .hfma2Bf16 _ => some ⟨.v, .v, .v, .v, false, true, false, false, false, true⟩
  | .hmin2Bf16 f => some ⟨.v, .v, .v, .z, false, true, false, false, false, (low f.mod).toNat < 2⟩
  | .hmax2Bf16 f => some ⟨.v, .v, .v, .z, false, true, false, false, false, (low f.mod).toNat < 2⟩
  | .hset2Bf16 _ => some ⟨.v, .v, .v, .z, false, true, true, false, false, true⟩
  | .frndF64 f => some ⟨.v2, .z, .v2, .z, false, false, false, false, false, f.mod.toNat < 4⟩
  | .rcpF32 f => some ⟨.v, .v, .z, .z, false, false, false, true, false, f.mod.toNat < 4⟩
  | .rsqF32 f => some ⟨.v, .v, .z, .z, false, false, false, true, false, f.mod.toNat < 4⟩
  | .sqrtF32 f => some ⟨.v, .v, .z, .z, false, false, false, true, false, f.mod.toNat < 4⟩
  | .ex2F32 f => some ⟨.v, .v, .z, .z, false, false, false, true, false, f.mod.toNat < 4⟩
  | .lg2F32 f => some ⟨.v, .v, .z, .z, false, false, false, true, false, f.mod.toNat < 4⟩
  | .sinF32 f => some ⟨.v, .v, .z, .z, false, false, false, true, false, f.mod.toNat < 4⟩
  | .cosF32 f => some ⟨.v, .v, .z, .z, false, false, false, true, false, f.mod.toNat < 4⟩
  | .tanhF32 f => some ⟨.v, .v, .z, .z, false, false, false, true, false, f.mod.toNat < 4⟩
  | .rcpF64 f => some ⟨.v2, .v2, .z, .z, false, false, false, true, false, f.mod.toNat < 4⟩
  | .sqrtF64 f => some ⟨.v2, .v2, .z, .z, false, false, false, true, false, f.mod.toNat < 4⟩
  | .cvt f => some ⟨fpKind (f.srcc.toNat % 16), .z, fpKind (f.srcc.toNat / 16), .i8, false, ((f.srcc.toNat / 16) != 9), false, false, false, fpCode (f.srcc.toNat / 16) && fpCode (f.srcc.toNat % 16) && (f.srcc.toNat / 16) != (f.srcc.toNat % 16) && ((f.srcc.toNat / 16) != 9 || f.mod.toNat < 4)⟩
  | .cvti f => some ⟨intKind (f.srcc.toNat % 16), .z, fpKind (f.srcc.toNat / 16), .i8, false, ((f.srcc.toNat / 16) != 9), false, false, false, fpCode (f.srcc.toNat / 16) && (f.srcc.toNat % 16) < 8 && ((f.srcc.toNat / 16) != 9 || f.mod.toNat < 4)⟩
  | .cvtf f => some ⟨fpKind (f.srcc.toNat % 16), .z, intKind (f.srcc.toNat / 16), .i8, false, !(intWide (f.srcc.toNat / 16)), false, false, false, fpCode (f.srcc.toNat % 16) && (f.srcc.toNat / 16) < 8 && (!(intWide (f.srcc.toNat / 16)) || f.mod.toNat < 4)⟩
  | .cvtn _ => some ⟨.v, .i8, .v, .below 8, false, true, false, false, false, true⟩
  | .cvtw _ => some ⟨.i8, .v, .v, .below 8, false, true, false, false, false, true⟩
  | .cbdec _ => some ⟨.vk 8 8, .v, .v, .below 8, false, true, false, true, false, true⟩
  | .bscale f => some ⟨.v, .z, .v, .below 48, false, true, false, false, false, low f.mod == 0⟩
  | .ld f => some ⟨memKind f.srcc.toNat, .v2, .i8, .i8, false, false, false, true, false, f.srcc.toNat < 7 && f.mod.toNat < 3⟩
  | .st f => some ⟨.i8, .v2, memKind f.srcc.toNat, .i8, false, false, false, false, false, (f.srcc.toNat < 7 && f.srcc.toNat != 1 && f.srcc.toNat != 3) && f.mod.toNat < 3⟩
  | .spld f => some ⟨memKind f.srcc.toNat, .v, .i8, .i8, false, false, false, true, false, f.srcc.toNat < 7 && f.mod == 0⟩
  | .spst f => some ⟨.i8, .v, memKind f.srcc.toNat, .i8, false, false, false, false, false, (f.srcc.toNat < 7 && f.srcc.toNat != 1 && f.srcc.toNat != 3) && f.mod == 0⟩
  | .ldp f => some ⟨memKind f.srcc.toNat, .v, .i8, .i8, false, false, false, true, false, f.srcc.toNat < 7 && f.mod == 0⟩
  | .atom f => some ⟨wide f.mod, .v2, wide f.mod, .below 14, false, false, false, true, false, f.mod.toNat < 2⟩
  | .red f => some ⟨.z, .v2, wide f.mod, .below 14, false, false, false, false, false, f.mod.toNat < 2⟩
  | .cas f => some ⟨wide f.mod, .v2, wide f.mod, wide f.mod, false, false, false, true, false, f.mod.toNat < 2⟩
  | .atoms f => some ⟨wide f.mod, .v, wide f.mod, .below 14, false, false, false, true, false, f.mod.toNat < 2⟩
  | .cass f => some ⟨wide f.mod, .v, wide f.mod, wide f.mod, false, false, false, true, false, f.mod.toNat < 2⟩
  | .fence f => some ⟨.z, .z, .z, .below 16, false, false, false, false, false, f.mod.toNat < 4 && f.srcc != 0⟩
  | .rel _ => some ⟨.z, .v2, .v2, .z, false, false, false, false, false, true⟩
  | .acq f => some ⟨.v2, .v2, .z, .z, false, false, false, true, false, f.mod.toNat < 4⟩
  | .sigclr f => some ⟨.z, .v2, .z, .z, false, false, false, false, false, f.mod == 0⟩
  | .marmArm f => some ⟨.v, .v2, .v, .below 16, false, false, false, false, false, f.mod == 0⟩
  | .marmArmB64 f => some ⟨.v, .v2, .v2, .below 16, false, false, false, false, false, f.mod == 1⟩
  | .marmTest f => some ⟨.v, .z, .z, .z, false, false, false, false, false, f.mod == 2⟩
  | .marmClr f => some ⟨.z, .z, .z, .below 4, false, false, false, false, false, f.mod == 3⟩
  | .pref f => some ⟨.z, .v2, .z, .z, false, false, false, false, false, f.mod.toNat < 2⟩
  | .cctlWb f => some ⟨.z, .v2, .z, .below 16, false, false, false, false, false, f.mod == 0⟩
  | .cctlInv f => some ⟨.z, .v2, .z, .below 16, false, false, false, false, false, f.mod == 1⟩
  | .cctlInvall f => some ⟨.z, .z, .z, .z, false, false, false, false, false, f.mod == 2⟩
  | .cctlIinv f => some ⟨.z, .v2, .z, .below 16, false, false, false, false, false, f.mod == 3⟩
  | .pzero f => some ⟨.z, .v2, .z, .z, false, false, false, false, false, f.mod == 0⟩
  | .mma f => some ⟨.i8, .i8, .i8, .z, false, false, false, true, true, f.mod == 0⟩
  | .mmas f => some ⟨.i8, .i8, .i8, .v2, false, false, false, true, true, f.mod == 0⟩
  | .mmacb f => some ⟨.i8, .i8, .i8, .z, false, false, false, true, true, f.mod == 0⟩
  | .mmad f => some ⟨.packed 4 16 16, .packed 3 8 8, .packed 3 8 8, .z, false, false, false, true, true, f.mod == 0 && f.srca.toNat % 8 == 0 && f.srcb.toNat % 8 == 0⟩
  | .mbmap f => some ⟨.v2, .i8, .z, .z, false, false, false, true, true, f.mod == 0⟩
  | .mzero f => some ⟨if f.mod == 0 then .vk 32 32 else .vk 16 16, .z, .z, .z, false, false, false, true, true, f.mod.toNat < 2⟩
  | .mscale f => some ⟨.z, .vk 4 4, .z, .z, false, false, false, true, true, f.mod.toNat < 2⟩
  | .mldf f => some ⟨.vk (fragRegs f.mod) (fragRegs f.mod), .v, .z, .z, false, false, false, true, true, f.mod.toNat < 4⟩
  | .mstf f => some ⟨.z, .v, .vk (fragRegs f.mod) (fragRegs f.mod), .z, false, false, false, false, true, f.mod.toNat < 4⟩
  | .amov f => some ⟨.a, .a, .z, .z, false, false, false, false, false, f.mod == 0⟩
  | .anew f => some ⟨.a, .v2, .v, .z, false, false, false, false, false, f.mod == 0⟩
  | .ald f => some ⟨.a, .v2, .z, .z, false, false, false, true, false, f.mod == 0⟩
  | .ast f => some ⟨.z, .v2, .a, .z, false, false, false, false, false, f.mod == 0⟩
  | .aadd f => some ⟨.a, .a, .a, .z, false, false, false, false, false, f.mod == 0⟩
  | .asub f => some ⟨.a, .a, .a, .z, false, false, false, false, false, f.mod == 0⟩
  | .aneg f => some ⟨.a, .a, .z, .z, false, false, false, false, false, f.mod == 0⟩
  | .ascl f => some ⟨.a, .a, .v2, .z, false, false, false, false, false, f.mod == 0⟩
  | .amul f => some ⟨.a, .a, .a, .z, false, false, false, true, false, f.mod == 0⟩
  | .afma f => some ⟨.a, .a, .a, .a, false, false, false, true, false, f.mod == 0⟩
  | .arcp f => some ⟨.a, .a, .z, .z, false, false, false, true, false, f.mod == 0⟩
  | .asqrt f => some ⟨.a, .a, .z, .z, false, false, false, true, false, f.mod == 0⟩
  | .afold f => some ⟨.a, .a, .z, .below 6, false, false, false, true, false, f.mod.toNat < 2⟩
  | .acen f => some ⟨.v2, .a, .z, .z, false, false, false, false, false, f.mod == 0⟩
  | .arad f => some ⟨.v2, .a, .z, .z, false, false, false, false, false, f.mod.toNat < 3⟩
  | .aterm f => some ⟨.v2, .a, .z, .below 7, false, false, false, false, false, f.mod == 0⟩
  | .adeckRead f => some ⟨.v4, .z, .v, .z, false, false, false, true, false, f.mod == 0⟩
  | .adeckAdd f => some ⟨.v4, .z, .v, .z, false, false, false, true, false, f.mod == 1⟩
  | .adeckSet f => some ⟨.v4, .z, .v, .z, false, false, false, true, false, f.mod == 2⟩
  | .cpyl f => some ⟨targetKind f.mod, .vk 8 8, if f.mod == 3 then .v2 else .z, .z, false, false, false, false, false, f.mod.toNat < 4⟩
  | .cpys f => some ⟨targetKind f.mod, .vk 8 8, if f.mod == 3 then .v2 else .z, .z, false, false, false, false, false, f.mod.toNat < 4⟩
  | .cpyg f => some ⟨targetKind f.mod, .vk 8 8, if f.mod == 3 then .v2 else .z, .z, false, false, false, false, false, f.mod.toNat < 4⟩
  | .cpyr f => some ⟨targetKind f.mod, .vk 8 8, if f.mod == 3 then .v2 else .z, .z, false, false, false, false, false, f.mod.toNat < 4⟩
  | .cpyp f => some ⟨targetKind f.mod, .vk 8 8, if f.mod == 3 then .v2 else .z, .z, false, false, false, false, false, f.mod.toNat < 4⟩
  | .collAllred f => some ⟨targetKind f.mod, .vk 8 8, if f.mod == 3 then .v2 else .z, .only 0, false, false, false, false, false, f.mod.toNat < 4⟩
  | .collAllgath f => some ⟨targetKind f.mod, .vk 8 8, if f.mod == 3 then .v2 else .z, .only 1, false, false, false, false, false, f.mod.toNat < 4⟩
  | .collRedscat f => some ⟨targetKind f.mod, .vk 8 8, if f.mod == 3 then .v2 else .z, .only 2, false, false, false, false, false, f.mod.toNat < 4⟩
  | .collSend f => some ⟨targetKind f.mod, .vk 8 8, if f.mod == 3 then .v2 else .z, .only 3, false, false, false, false, false, f.mod.toNat < 4⟩
  | .collRecv f => some ⟨targetKind f.mod, .vk 8 8, if f.mod == 3 then .v2 else .z, .only 4, false, false, false, false, false, f.mod.toNat < 4⟩
  | .asmk f => some ⟨.v4, .v2, .z, .z, false, false, false, true, false, f.mod.toNat < 4⟩
  | .asdrop f => some ⟨.z, .v2, .z, .z, false, false, false, false, false, f.mod == 0⟩
  | .asqry f => some ⟨.v, .v2, .z, .z, false, false, false, true, false, f.mod == 0⟩
  | .launch f => some ⟨.v, .v2, .v2, .z, false, false, false, true, false, f.mod.toNat < 2⟩
  | .ckpt f => some ⟨.v, .z, .z, .z, false, false, false, false, false, f.mod == 0⟩
  | .mwaitWake _ _ => none
  | .mwaitTimeout _ _ => none
  | .spawnRecordArrival _ _ => none
  | .spawnBinTimerExpiry _ _ => none
  | .spawnGroupLaunch _ _ => none
  | .monitorFire _ _ => none
  | .memoryAccessComplete _ _ _ => none
  | .matrixEngineStart _ => none
  | .matrixComplete _ => none
  | .collPeerData _ _ _ _ => none
  | .copyLand _ _ => none
  | .clauseHeader _ => none
  | .longLatencyResult _ _ _ => none
  | .fetchMiss _ => none
  | .fetchLineFill _ _ _ => none
  | .pageWalk _ _ _ _ => none
  | .pageRequestSend _ => none
  | .pageRequestResponse _ _ => none
  | .trapHandlerEntry _ => none
  | .contextEnd _ => none
  | .groupRetire _ => none
  | .launchComplete _ => none
  | .doorbell => none
  | .queueEntryConsider _ _ => none
  | .graphNodeStart _ => none
  | .teamPlace _ _ => none
  | .sramWayConvert _ => none
  | .forwardProgressSwap _ => none
  | .preemptByClass _ _ => none
  | .bankSwitch _ _ => none
  | .rowSwap _ _ => none
  | .wasteRowSpill _ _ => none
  | .checkpointTake _ => none
  | .uncorrectableError _ => none
  | .hangTimeout _ => none
  | .caughtWriteEvaluate _ => none
  | .revocationDeliver _ _ => none
  | .revocationAck _ _ => none
  | .imagePatch _ _ => none
  | .heldWriteRelease _ => none
  | .reclassify _ _ => none
  | .registrationRecall _ _ => none
  | .forwardedRead _ _ _ => none
  | .transientRequest _ _ _ => none
  | .attemptFail _ _ _ => none
  | .trumpRequest _ _ _ => none
  | .trumpRelease _ _ => none
  | .lineReplace _ _ => none
  | .hostMemrd _ _ => none
  | .hostMemwr _ _ => none
  | .hostSnoop _ _ => none
  | .birsp _ => none
  | .d2hCompletion _ _ => none
  | .peerAccess _ _ => none
  | .frameZeroing _ => none
  | .portAdmit => none
  | .mbCmdUnassigned => none
  | .summary => none
  | .memIlvWrite => none
  | .registerWrite => none
  | .powerOnReset => none
  | .hostReset => none
  | .vfFlr => none
  | .powerClockStep => none
  | .thermalTrip => none
  | .cuTemperatureSample => none
  | .voltageDroop => none
  | .barExpiry => none
  | .linkDown => none
  | .ethPacketReceive => none
  | .ethRetransmitTimeout => none
  | .ethAckTimeout => none
  | .ethEcnMark => none
  | .unassignedOpcode _ _ => none
  | .powerFault => none
  | .hostLinkFailure => none
  | .patrolScrubbing => none
  | .pageRequestCapability => none
  | .linkLevelRetry => none
  | .linkRetrain => none
  | .podFreezeMessage => none
  | .imgInsert => none
  | .imgLookup => none
  | .imgRelease => none
  | .imgQuery => none
  | .biasHost => none
  | .biasDevice => none
  | .tlbInvVa => none
  | .tlbInvAsid => none
  | .tlbInvFunc => none
  | .tlbInvS2 => none
  | .ctxCreate => none
  | .ctxDelete => none
  | .freeze => none
  | .thaw => none
  | .partSet => none
  | .vfBind => none
  | .ctxBw => none
  | .vfReset => none
  | .clusterLend => none
  | .clusterReclaim => none
  | .frameClaim => none
  | .frameFree => none

/-- The operand fields of an instruction of the map. -/
def Instr.fields? : Instr → Option Fields
  | .nop f => some f
  | .bra f => some f
  | .brax f => some f
  | .call f => some f
  | .callx f => some f
  | .ret f => some f
  | .exit f => some f
  | .yield f => some f
  | .jenr f => some f
  | .jenrAct f => some f
  | .jsign f => some f
  | .jwait f => some f
  | .sbwait f => some f
  | .cwait f => some f
  | .twait f => some f
  | .twany f => some f
  | .tfind f => some f
  | .tclr f => some f
  | .barw f => some f
  | .bara f => some f
  | .rarv f => some f
  | .rwait f => some f
  | .mwait f => some f
  | .spawn f => some f
  | .ipref f => some f
  | .trap f => some f
  | .assert f => some f
  | .bkpt f => some f
  | .getsr f => some f
  | .setsr f => some f
  | .renter f => some f
  | .rleave f => some f
  | .trapretReplay f => some f
  | .trapretSkip f => some f
  | .iadd f => some f
  | .isub f => some f
  | .imul f => some f
  | .imulh f => some f
  | .imad f => some f
  | .iaddi f => some f
  | .imin f => some f
  | .imax f => some f
  | .and f => some f
  | .orr f => some f
  | .xor f => some f
  | .andn f => some f
  | .shl f => some f
  | .shr f => some f
  | .iadd64 f => some f
  | .iaddi64 f => some f
  | .popc f => some f
  | .clz f => some f
  | .brev f => some f
  | .bfe f => some f
  | .bfi f => some f
  | .iset f => some f
  | .sel f => some f
  | .mov f => some f
  | .movi f => some f
  | .movhi f => some f
  | .movx f => some f
  | .movxw f => some f
  | .bwin f => some f
  | .lxch f => some f
  | .lmask f => some f
  | .lcomb f => some f
  | .faddF32 f => some f
  | .fsubF32 f => some f
  | .fmulF32 f => some f
  | .ffmaF32 f => some f
  | .fminF32 f => some f
  | .fmaxF32 f => some f
  | .fsetF32 f => some f
  | .fclassF32 f => some f
  | .faddF64 f => some f
  | .fsubF64 f => some f
  | .fmulF64 f => some f
  | .ffmaF64 f => some f
  | .fminF64 f => some f
  | .fmaxF64 f => some f
  | .fsetF64 f => some f
  | .fclassF64 f => some f
  | .hadd2F16 f => some f
  | .hsub2F16 f => some f
  | .hmul2F16 f => some f
  | .hfma2F16 f => some f
  | .hmin2F16 f => some f
  | .hmax2F16 f => some f
  | .hset2F16 f => some f
  | .frndF32 f => some f
  | .hadd2Bf16 f => some f
  | .hsub2Bf16 f => some f
  | .hmul2Bf16 f => some f
  | .hfma2Bf16 f => some f
  | .hmin2Bf16 f => some f
  | .hmax2Bf16 f => some f
  | .hset2Bf16 f => some f
  | .frndF64 f => some f
  | .rcpF32 f => some f
  | .rsqF32 f => some f
  | .sqrtF32 f => some f
  | .ex2F32 f => some f
  | .lg2F32 f => some f
  | .sinF32 f => some f
  | .cosF32 f => some f
  | .tanhF32 f => some f
  | .rcpF64 f => some f
  | .sqrtF64 f => some f
  | .cvt f => some f
  | .cvti f => some f
  | .cvtf f => some f
  | .cvtn f => some f
  | .cvtw f => some f
  | .cbdec f => some f
  | .bscale f => some f
  | .ld f => some f
  | .st f => some f
  | .spld f => some f
  | .spst f => some f
  | .ldp f => some f
  | .atom f => some f
  | .red f => some f
  | .cas f => some f
  | .atoms f => some f
  | .cass f => some f
  | .fence f => some f
  | .rel f => some f
  | .acq f => some f
  | .sigclr f => some f
  | .marmArm f => some f
  | .marmArmB64 f => some f
  | .marmTest f => some f
  | .marmClr f => some f
  | .pref f => some f
  | .cctlWb f => some f
  | .cctlInv f => some f
  | .cctlInvall f => some f
  | .cctlIinv f => some f
  | .pzero f => some f
  | .mma f => some f
  | .mmas f => some f
  | .mmacb f => some f
  | .mmad f => some f
  | .mbmap f => some f
  | .mzero f => some f
  | .mscale f => some f
  | .mldf f => some f
  | .mstf f => some f
  | .amov f => some f
  | .anew f => some f
  | .ald f => some f
  | .ast f => some f
  | .aadd f => some f
  | .asub f => some f
  | .aneg f => some f
  | .ascl f => some f
  | .amul f => some f
  | .afma f => some f
  | .arcp f => some f
  | .asqrt f => some f
  | .afold f => some f
  | .acen f => some f
  | .arad f => some f
  | .aterm f => some f
  | .adeckRead f => some f
  | .adeckAdd f => some f
  | .adeckSet f => some f
  | .cpyl f => some f
  | .cpys f => some f
  | .cpyg f => some f
  | .cpyr f => some f
  | .cpyp f => some f
  | .collAllred f => some f
  | .collAllgath f => some f
  | .collRedscat f => some f
  | .collSend f => some f
  | .collRecv f => some f
  | .asmk f => some f
  | .asdrop f => some f
  | .asqry f => some f
  | .launch f => some f
  | .ckpt f => some f
  | .mwaitWake _ _ => none
  | .mwaitTimeout _ _ => none
  | .spawnRecordArrival _ _ => none
  | .spawnBinTimerExpiry _ _ => none
  | .spawnGroupLaunch _ _ => none
  | .monitorFire _ _ => none
  | .memoryAccessComplete _ _ _ => none
  | .matrixEngineStart _ => none
  | .matrixComplete _ => none
  | .collPeerData _ _ _ _ => none
  | .copyLand _ _ => none
  | .clauseHeader _ => none
  | .longLatencyResult _ _ _ => none
  | .fetchMiss _ => none
  | .fetchLineFill _ _ _ => none
  | .pageWalk _ _ _ _ => none
  | .pageRequestSend _ => none
  | .pageRequestResponse _ _ => none
  | .trapHandlerEntry _ => none
  | .contextEnd _ => none
  | .groupRetire _ => none
  | .launchComplete _ => none
  | .doorbell => none
  | .queueEntryConsider _ _ => none
  | .graphNodeStart _ => none
  | .teamPlace _ _ => none
  | .sramWayConvert _ => none
  | .forwardProgressSwap _ => none
  | .preemptByClass _ _ => none
  | .bankSwitch _ _ => none
  | .rowSwap _ _ => none
  | .wasteRowSpill _ _ => none
  | .checkpointTake _ => none
  | .uncorrectableError _ => none
  | .hangTimeout _ => none
  | .caughtWriteEvaluate _ => none
  | .revocationDeliver _ _ => none
  | .revocationAck _ _ => none
  | .imagePatch _ _ => none
  | .heldWriteRelease _ => none
  | .reclassify _ _ => none
  | .registrationRecall _ _ => none
  | .forwardedRead _ _ _ => none
  | .transientRequest _ _ _ => none
  | .attemptFail _ _ _ => none
  | .trumpRequest _ _ _ => none
  | .trumpRelease _ _ => none
  | .lineReplace _ _ => none
  | .hostMemrd _ _ => none
  | .hostMemwr _ _ => none
  | .hostSnoop _ _ => none
  | .birsp _ => none
  | .d2hCompletion _ _ => none
  | .peerAccess _ _ => none
  | .frameZeroing _ => none
  | .portAdmit => none
  | .mbCmdUnassigned => none
  | .summary => none
  | .memIlvWrite => none
  | .registerWrite => none
  | .powerOnReset => none
  | .hostReset => none
  | .vfFlr => none
  | .powerClockStep => none
  | .thermalTrip => none
  | .cuTemperatureSample => none
  | .voltageDroop => none
  | .barExpiry => none
  | .linkDown => none
  | .ethPacketReceive => none
  | .ethRetransmitTimeout => none
  | .ethAckTimeout => none
  | .ethEcnMark => none
  | .unassignedOpcode _ f => some f
  | .powerFault => none
  | .hostLinkFailure => none
  | .patrolScrubbing => none
  | .pageRequestCapability => none
  | .linkLevelRetry => none
  | .linkRetrain => none
  | .podFreezeMessage => none
  | .imgInsert => none
  | .imgLookup => none
  | .imgRelease => none
  | .imgQuery => none
  | .biasHost => none
  | .biasDevice => none
  | .tlbInvVa => none
  | .tlbInvAsid => none
  | .tlbInvFunc => none
  | .tlbInvS2 => none
  | .ctxCreate => none
  | .ctxDelete => none
  | .freeze => none
  | .thaw => none
  | .partSet => none
  | .vfBind => none
  | .ctxBw => none
  | .vfReset => none
  | .clusterLend => none
  | .clusterReclaim => none
  | .frameClaim => none
  | .frameFree => none

/-- The opcode of an instruction of the map (R83). -/
def Instr.opcode? : Instr → Option (BitVec 8)
  | .nop _ => some 0x00#8
  | .bra _ => some 0x01#8
  | .brax _ => some 0x02#8
  | .call _ => some 0x03#8
  | .callx _ => some 0x04#8
  | .ret _ => some 0x05#8
  | .exit _ => some 0x06#8
  | .yield _ => some 0x07#8
  | .jenr _ => some 0x08#8
  | .jenrAct _ => some 0x08#8
  | .jsign _ => some 0x09#8
  | .jwait _ => some 0x0A#8
  | .sbwait _ => some 0x0B#8
  | .cwait _ => some 0x0C#8
  | .twait _ => some 0x0D#8
  | .twany _ => some 0x0E#8
  | .tfind _ => some 0x0F#8
  | .tclr _ => some 0x10#8
  | .barw _ => some 0x11#8
  | .bara _ => some 0x12#8
  | .rarv _ => some 0x13#8
  | .rwait _ => some 0x14#8
  | .mwait _ => some 0x15#8
  | .spawn _ => some 0x16#8
  | .ipref _ => some 0x17#8
  | .trap _ => some 0x18#8
  | .assert _ => some 0x19#8
  | .bkpt _ => some 0x1A#8
  | .getsr _ => some 0x1B#8
  | .setsr _ => some 0x1C#8
  | .renter _ => some 0x1D#8
  | .rleave _ => some 0x1E#8
  | .trapretReplay _ => some 0x1F#8
  | .trapretSkip _ => some 0x1F#8
  | .iadd _ => some 0x20#8
  | .isub _ => some 0x21#8
  | .imul _ => some 0x22#8
  | .imulh _ => some 0x23#8
  | .imad _ => some 0x24#8
  | .iaddi _ => some 0x25#8
  | .imin _ => some 0x26#8
  | .imax _ => some 0x27#8
  | .and _ => some 0x28#8
  | .orr _ => some 0x29#8
  | .xor _ => some 0x2A#8
  | .andn _ => some 0x2B#8
  | .shl _ => some 0x2C#8
  | .shr _ => some 0x2D#8
  | .iadd64 _ => some 0x2E#8
  | .iaddi64 _ => some 0x2F#8
  | .popc _ => some 0x30#8
  | .clz _ => some 0x31#8
  | .brev _ => some 0x32#8
  | .bfe _ => some 0x33#8
  | .bfi _ => some 0x34#8
  | .iset _ => some 0x35#8
  | .sel _ => some 0x36#8
  | .mov _ => some 0x37#8
  | .movi _ => some 0x38#8
  | .movhi _ => some 0x39#8
  | .movx _ => some 0x3A#8
  | .movxw _ => some 0x3B#8
  | .bwin _ => some 0x3C#8
  | .lxch _ => some 0x3D#8
  | .lmask _ => some 0x3E#8
  | .lcomb _ => some 0x3F#8
  | .faddF32 _ => some 0x40#8
  | .fsubF32 _ => some 0x41#8
  | .fmulF32 _ => some 0x42#8
  | .ffmaF32 _ => some 0x43#8
  | .fminF32 _ => some 0x44#8
  | .fmaxF32 _ => some 0x45#8
  | .fsetF32 _ => some 0x46#8
  | .fclassF32 _ => some 0x47#8
  | .faddF64 _ => some 0x48#8
  | .fsubF64 _ => some 0x49#8
  | .fmulF64 _ => some 0x4A#8
  | .ffmaF64 _ => some 0x4B#8
  | .fminF64 _ => some 0x4C#8
  | .fmaxF64 _ => some 0x4D#8
  | .fsetF64 _ => some 0x4E#8
  | .fclassF64 _ => some 0x4F#8
  | .hadd2F16 _ => some 0x50#8
  | .hsub2F16 _ => some 0x51#8
  | .hmul2F16 _ => some 0x52#8
  | .hfma2F16 _ => some 0x53#8
  | .hmin2F16 _ => some 0x54#8
  | .hmax2F16 _ => some 0x55#8
  | .hset2F16 _ => some 0x56#8
  | .frndF32 _ => some 0x57#8
  | .hadd2Bf16 _ => some 0x58#8
  | .hsub2Bf16 _ => some 0x59#8
  | .hmul2Bf16 _ => some 0x5A#8
  | .hfma2Bf16 _ => some 0x5B#8
  | .hmin2Bf16 _ => some 0x5C#8
  | .hmax2Bf16 _ => some 0x5D#8
  | .hset2Bf16 _ => some 0x5E#8
  | .frndF64 _ => some 0x5F#8
  | .rcpF32 _ => some 0x60#8
  | .rsqF32 _ => some 0x61#8
  | .sqrtF32 _ => some 0x62#8
  | .ex2F32 _ => some 0x63#8
  | .lg2F32 _ => some 0x64#8
  | .sinF32 _ => some 0x65#8
  | .cosF32 _ => some 0x66#8
  | .tanhF32 _ => some 0x67#8
  | .rcpF64 _ => some 0x68#8
  | .sqrtF64 _ => some 0x69#8
  | .cvt _ => some 0x70#8
  | .cvti _ => some 0x71#8
  | .cvtf _ => some 0x72#8
  | .cvtn _ => some 0x73#8
  | .cvtw _ => some 0x74#8
  | .cbdec _ => some 0x75#8
  | .bscale _ => some 0x76#8
  | .ld _ => some 0x80#8
  | .st _ => some 0x81#8
  | .spld _ => some 0x82#8
  | .spst _ => some 0x83#8
  | .ldp _ => some 0x84#8
  | .atom _ => some 0x85#8
  | .red _ => some 0x86#8
  | .cas _ => some 0x87#8
  | .atoms _ => some 0x88#8
  | .cass _ => some 0x89#8
  | .fence _ => some 0x8A#8
  | .rel _ => some 0x8B#8
  | .acq _ => some 0x8C#8
  | .sigclr _ => some 0x8D#8
  | .marmArm _ => some 0x8E#8
  | .marmArmB64 _ => some 0x8E#8
  | .marmTest _ => some 0x8E#8
  | .marmClr _ => some 0x8E#8
  | .pref _ => some 0x8F#8
  | .cctlWb _ => some 0x90#8
  | .cctlInv _ => some 0x90#8
  | .cctlInvall _ => some 0x90#8
  | .cctlIinv _ => some 0x90#8
  | .pzero _ => some 0x91#8
  | .mma _ => some 0xA0#8
  | .mmas _ => some 0xA1#8
  | .mmacb _ => some 0xA2#8
  | .mmad _ => some 0xA3#8
  | .mbmap _ => some 0xA4#8
  | .mzero _ => some 0xA5#8
  | .mscale _ => some 0xA6#8
  | .mldf _ => some 0xA7#8
  | .mstf _ => some 0xA8#8
  | .amov _ => some 0xB0#8
  | .anew _ => some 0xB1#8
  | .ald _ => some 0xB2#8
  | .ast _ => some 0xB3#8
  | .aadd _ => some 0xB4#8
  | .asub _ => some 0xB5#8
  | .aneg _ => some 0xB6#8
  | .ascl _ => some 0xB7#8
  | .amul _ => some 0xB8#8
  | .afma _ => some 0xB9#8
  | .arcp _ => some 0xBA#8
  | .asqrt _ => some 0xBB#8
  | .afold _ => some 0xBC#8
  | .acen _ => some 0xBD#8
  | .arad _ => some 0xBE#8
  | .aterm _ => some 0xBF#8
  | .adeckRead _ => some 0xE5#8
  | .adeckAdd _ => some 0xE5#8
  | .adeckSet _ => some 0xE5#8
  | .cpyl _ => some 0xC0#8
  | .cpys _ => some 0xC1#8
  | .cpyg _ => some 0xC2#8
  | .cpyr _ => some 0xC3#8
  | .cpyp _ => some 0xC4#8
  | .collAllred _ => some 0xC5#8
  | .collAllgath _ => some 0xC5#8
  | .collRedscat _ => some 0xC5#8
  | .collSend _ => some 0xC5#8
  | .collRecv _ => some 0xC5#8
  | .asmk _ => some 0xE0#8
  | .asdrop _ => some 0xE1#8
  | .asqry _ => some 0xE2#8
  | .launch _ => some 0xE3#8
  | .ckpt _ => some 0xE4#8
  | .mwaitWake _ _ => none
  | .mwaitTimeout _ _ => none
  | .spawnRecordArrival _ _ => none
  | .spawnBinTimerExpiry _ _ => none
  | .spawnGroupLaunch _ _ => none
  | .monitorFire _ _ => none
  | .memoryAccessComplete _ _ _ => none
  | .matrixEngineStart _ => none
  | .matrixComplete _ => none
  | .collPeerData _ _ _ _ => none
  | .copyLand _ _ => none
  | .clauseHeader _ => none
  | .longLatencyResult _ _ _ => none
  | .fetchMiss _ => none
  | .fetchLineFill _ _ _ => none
  | .pageWalk _ _ _ _ => none
  | .pageRequestSend _ => none
  | .pageRequestResponse _ _ => none
  | .trapHandlerEntry _ => none
  | .contextEnd _ => none
  | .groupRetire _ => none
  | .launchComplete _ => none
  | .doorbell => none
  | .queueEntryConsider _ _ => none
  | .graphNodeStart _ => none
  | .teamPlace _ _ => none
  | .sramWayConvert _ => none
  | .forwardProgressSwap _ => none
  | .preemptByClass _ _ => none
  | .bankSwitch _ _ => none
  | .rowSwap _ _ => none
  | .wasteRowSpill _ _ => none
  | .checkpointTake _ => none
  | .uncorrectableError _ => none
  | .hangTimeout _ => none
  | .caughtWriteEvaluate _ => none
  | .revocationDeliver _ _ => none
  | .revocationAck _ _ => none
  | .imagePatch _ _ => none
  | .heldWriteRelease _ => none
  | .reclassify _ _ => none
  | .registrationRecall _ _ => none
  | .forwardedRead _ _ _ => none
  | .transientRequest _ _ _ => none
  | .attemptFail _ _ _ => none
  | .trumpRequest _ _ _ => none
  | .trumpRelease _ _ => none
  | .lineReplace _ _ => none
  | .hostMemrd _ _ => none
  | .hostMemwr _ _ => none
  | .hostSnoop _ _ => none
  | .birsp _ => none
  | .d2hCompletion _ _ => none
  | .peerAccess _ _ => none
  | .frameZeroing _ => none
  | .portAdmit => none
  | .mbCmdUnassigned => none
  | .summary => none
  | .memIlvWrite => none
  | .registerWrite => none
  | .powerOnReset => none
  | .hostReset => none
  | .vfFlr => none
  | .powerClockStep => none
  | .thermalTrip => none
  | .cuTemperatureSample => none
  | .voltageDroop => none
  | .barExpiry => none
  | .linkDown => none
  | .ethPacketReceive => none
  | .ethRetransmitTimeout => none
  | .ethAckTimeout => none
  | .ethEcnMark => none
  | .unassignedOpcode op _ => some op
  | .powerFault => none
  | .hostLinkFailure => none
  | .patrolScrubbing => none
  | .pageRequestCapability => none
  | .linkLevelRetry => none
  | .linkRetrain => none
  | .podFreezeMessage => none
  | .imgInsert => none
  | .imgLookup => none
  | .imgRelease => none
  | .imgQuery => none
  | .biasHost => none
  | .biasDevice => none
  | .tlbInvVa => none
  | .tlbInvAsid => none
  | .tlbInvFunc => none
  | .tlbInvS2 => none
  | .ctxCreate => none
  | .ctxDelete => none
  | .freeze => none
  | .thaw => none
  | .partSet => none
  | .vfBind => none
  | .ctxBw => none
  | .vfReset => none
  | .clusterLend => none
  | .clusterReclaim => none
  | .frameClaim => none
  | .frameFree => none

/-- The admitted permutations (R80): `h` is the lane-high bit, 0 on an instruction marked †. -/
def permOk (sg : Sig) (f : Fields) : Bool :=
  if sg.imm then true
  else if sg.perm then
    let h := !sg.dagger && f.mod.getLsbD 2
    match f.perm.toNat with
    | 0 => f.pparam == 0 && !h
    | 1 => true
    | 2 => f.pparam.toNat < 8 && !h
    | 3 => 1 ≤ f.pparam.toNat && f.pparam.toNat ≤ 5 && !h
    | 4 => true
    | _ => false
  else f.perm == 0 && f.pparam == 0

/-- Step 6 of R88 on the word alone. -/
def fieldsOk (sg : Sig) (f : Fields) : Bool :=
  sg.dst.ok f.dst.toNat && sg.a.ok f.srca.toNat
    && (sg.imm || (sg.b.ok f.srcb.toNat && sg.c.ok f.srcc.toNat))
    && sg.mod && permOk sg f
    && (sg.long || f.look == 0)
    && (!sg.slot || f.sbset != 0)
    && !(f.pred == 63 && f.psense == 1)

/-- The opcodes that the map leaves unassigned and that are no marker (R83, R84). -/
def unassigned (op : BitVec 8) : Bool :=
  let n := op.toNat
  (0x6A ≤ n && n ≤ 0x6F) || (0x77 ≤ n && n ≤ 0x7F) || (0x92 ≤ n && n ≤ 0x9F) || (0xA9 ≤ n && n ≤ 0xAF)
    || (0xC6 ≤ n && n ≤ 0xDF && n != 0xCA && n != 0xCB) || 0xE6 ≤ n

/-- A header's own rule (R60). -/
def Header.ok (h : Header) : Bool :=
  h.engine != 7 && (h.cwen == 1 || (h.cclass == 0 && h.cthresh == 0))

/-- An instruction that the word alone admits. An event of the part has no word and is well-formed. -/
def Instr.wf (i : Instr) : Bool :=
  match i with
  | .clauseHeader h => h.ok
  | .unassignedOpcode op _ => unassigned op
  | i =>
    match i.sig?, i.fields? with
    | some sg, some f => fieldsOk sg f
    | _, _ => true

/-- Well-formed instructions. -/
abbrev WellFormed (i : Instr) : Prop := i.wf = true

end Sys2Proof
end

