-- ==== Sys2Proof/Decode.lean ====
section
/-!
DEFINITION. The decoder, total on any word and any bytes, and the encoder (R60, R66, R83). A word whose top byte is a
marker is a header; an unassigned opcode decodes to its own constructor, which traps; a word outside its description
is rejected by name.
-/
namespace Sys2Proof

/-- Why a word is no instruction. -/
inductive DecodeError where
  /-- A clause header that R60 does not admit, or a kernel header word (R53). -/
  | illegalHeader
  /-- A field outside its kind or description: step 6 of R88. -/
  | illegalEncoding
  /-- Fewer than eight bytes. -/
  | truncated
  deriving DecidableEq, Repr

/-- The operand fields of a word (R66). -/
def Fields.ofWord (w : DWord) : Fields where
  sbset  := w.extractLsb' 53 3
  look   := w.extractLsb' 49 4
  dst    := w.extractLsb' 41 8
  srca   := w.extractLsb' 33 8
  srcb   := w.extractLsb' 25 8
  srcc   := w.extractLsb' 17 8
  perm   := w.extractLsb' 14 3
  pparam := w.extractLsb' 10 4
  pred   := w.extractLsb' 4 6
  psense := w.extractLsb' 3 1
  mod    := w.extractLsb' 0 3

/-- The word of an opcode and its fields (R66). -/
def Fields.word (op : BitVec 8) (f : Fields) : DWord :=
  op ++ f.sbset ++ f.look ++ f.dst ++ f.srca ++ f.srcb ++ f.srcc ++ f.perm ++ f.pparam ++ f.pred ++ f.psense ++ f.mod

/-- The instruction of an opcode of the map, before the checks of step 6. Where one opcode serves several rows of the
table, MOD or SRCC decides; a value that no row gives is rejected. -/
def ofOpcode (op : Nat) (f : Fields) : Except DecodeError Instr :=
  match op with
  | 0x00 => .ok (.nop f)
  | 0x01 => .ok (.bra f)
  | 0x02 => .ok (.brax f)
  | 0x03 => .ok (.call f)
  | 0x04 => .ok (.callx f)
  | 0x05 => .ok (.ret f)
  | 0x06 => .ok (.exit f)
  | 0x07 => .ok (.yield f)
  | 0x08 =>
    match f.mod.toNat with
    | 0 => .ok (.jenr f)
    | 1 => .ok (.jenrAct f)
    | _ => .error .illegalEncoding
  | 0x09 => .ok (.jsign f)
  | 0x0A => .ok (.jwait f)
  | 0x0B => .ok (.sbwait f)
  | 0x0C => .ok (.cwait f)
  | 0x0D => .ok (.twait f)
  | 0x0E => .ok (.twany f)
  | 0x0F => .ok (.tfind f)
  | 0x10 => .ok (.tclr f)
  | 0x11 => .ok (.barw f)
  | 0x12 => .ok (.bara f)
  | 0x13 => .ok (.rarv f)
  | 0x14 => .ok (.rwait f)
  | 0x15 => .ok (.mwait f)
  | 0x16 => .ok (.spawn f)
  | 0x17 => .ok (.ipref f)
  | 0x18 => .ok (.trap f)
  | 0x19 => .ok (.assert f)
  | 0x1A => .ok (.bkpt f)
  | 0x1B => .ok (.getsr f)
  | 0x1C => .ok (.setsr f)
  | 0x1D => .ok (.renter f)
  | 0x1E => .ok (.rleave f)
  | 0x1F =>
    match f.mod.toNat with
    | 0 => .ok (.trapretReplay f)
    | 1 => .ok (.trapretSkip f)
    | _ => .error .illegalEncoding
  | 0x20 => .ok (.iadd f)
  | 0x21 => .ok (.isub f)
  | 0x22 => .ok (.imul f)
  | 0x23 => .ok (.imulh f)
  | 0x24 => .ok (.imad f)
  | 0x25 => .ok (.iaddi f)
  | 0x26 => .ok (.imin f)
  | 0x27 => .ok (.imax f)
  | 0x28 => .ok (.and f)
  | 0x29 => .ok (.orr f)
  | 0x2A => .ok (.xor f)
  | 0x2B => .ok (.andn f)
  | 0x2C => .ok (.shl f)
  | 0x2D => .ok (.shr f)
  | 0x2E => .ok (.iadd64 f)
  | 0x2F => .ok (.iaddi64 f)
  | 0x30 => .ok (.popc f)
  | 0x31 => .ok (.clz f)
  | 0x32 => .ok (.brev f)
  | 0x33 => .ok (.bfe f)
  | 0x34 => .ok (.bfi f)
  | 0x35 => .ok (.iset f)
  | 0x36 => .ok (.sel f)
  | 0x37 => .ok (.mov f)
  | 0x38 => .ok (.movi f)
  | 0x39 => .ok (.movhi f)
  | 0x3A => .ok (.movx f)
  | 0x3B => .ok (.movxw f)
  | 0x3C => .ok (.bwin f)
  | 0x3D => .ok (.lxch f)
  | 0x3E => .ok (.lmask f)
  | 0x3F => .ok (.lcomb f)
  | 0x40 => .ok (.faddF32 f)
  | 0x41 => .ok (.fsubF32 f)
  | 0x42 => .ok (.fmulF32 f)
  | 0x43 => .ok (.ffmaF32 f)
  | 0x44 => .ok (.fminF32 f)
  | 0x45 => .ok (.fmaxF32 f)
  | 0x46 => .ok (.fsetF32 f)
  | 0x47 => .ok (.fclassF32 f)
  | 0x48 => .ok (.faddF64 f)
  | 0x49 => .ok (.fsubF64 f)
  | 0x4A => .ok (.fmulF64 f)
  | 0x4B => .ok (.ffmaF64 f)
  | 0x4C => .ok (.fminF64 f)
  | 0x4D => .ok (.fmaxF64 f)
  | 0x4E => .ok (.fsetF64 f)
  | 0x4F => .ok (.fclassF64 f)
  | 0x50 => .ok (.hadd2F16 f)
  | 0x51 => .ok (.hsub2F16 f)
  | 0x52 => .ok (.hmul2F16 f)
  | 0x53 => .ok (.hfma2F16 f)
  | 0x54 => .ok (.hmin2F16 f)
  | 0x55 => .ok (.hmax2F16 f)
  | 0x56 => .ok (.hset2F16 f)
  | 0x57 => .ok (.frndF32 f)
  | 0x58 => .ok (.hadd2Bf16 f)
  | 0x59 => .ok (.hsub2Bf16 f)
  | 0x5A => .ok (.hmul2Bf16 f)
  | 0x5B => .ok (.hfma2Bf16 f)
  | 0x5C => .ok (.hmin2Bf16 f)
  | 0x5D => .ok (.hmax2Bf16 f)
  | 0x5E => .ok (.hset2Bf16 f)
  | 0x5F => .ok (.frndF64 f)
  | 0x60 => .ok (.rcpF32 f)
  | 0x61 => .ok (.rsqF32 f)
  | 0x62 => .ok (.sqrtF32 f)
  | 0x63 => .ok (.ex2F32 f)
  | 0x64 => .ok (.lg2F32 f)
  | 0x65 => .ok (.sinF32 f)
  | 0x66 => .ok (.cosF32 f)
  | 0x67 => .ok (.tanhF32 f)
  | 0x68 => .ok (.rcpF64 f)
  | 0x69 => .ok (.sqrtF64 f)
  | 0x70 => .ok (.cvt f)
  | 0x71 => .ok (.cvti f)
  | 0x72 => .ok (.cvtf f)
  | 0x73 => .ok (.cvtn f)
  | 0x74 => .ok (.cvtw f)
  | 0x75 => .ok (.cbdec f)
  | 0x76 => .ok (.bscale f)
  | 0x80 => .ok (.ld f)
  | 0x81 => .ok (.st f)
  | 0x82 => .ok (.spld f)
  | 0x83 => .ok (.spst f)
  | 0x84 => .ok (.ldp f)
  | 0x85 => .ok (.atom f)
  | 0x86 => .ok (.red f)
  | 0x87 => .ok (.cas f)
  | 0x88 => .ok (.atoms f)
  | 0x89 => .ok (.cass f)
  | 0x8A => .ok (.fence f)
  | 0x8B => .ok (.rel f)
  | 0x8C => .ok (.acq f)
  | 0x8D => .ok (.sigclr f)
  | 0x8E =>
    match f.mod.toNat with
    | 0 => .ok (.marmArm f)
    | 1 => .ok (.marmArmB64 f)
    | 2 => .ok (.marmTest f)
    | 3 => .ok (.marmClr f)
    | _ => .error .illegalEncoding
  | 0x8F => .ok (.pref f)
  | 0x90 =>
    match f.mod.toNat with
    | 0 => .ok (.cctlWb f)
    | 1 => .ok (.cctlInv f)
    | 2 => .ok (.cctlInvall f)
    | 3 => .ok (.cctlIinv f)
    | _ => .error .illegalEncoding
  | 0x91 => .ok (.pzero f)
  | 0xA0 => .ok (.mma f)
  | 0xA1 => .ok (.mmas f)
  | 0xA2 => .ok (.mmacb f)
  | 0xA3 => .ok (.mmad f)
  | 0xA4 => .ok (.mbmap f)
  | 0xA5 => .ok (.mzero f)
  | 0xA6 => .ok (.mscale f)
  | 0xA7 => .ok (.mldf f)
  | 0xA8 => .ok (.mstf f)
  | 0xB0 => .ok (.amov f)
  | 0xB1 => .ok (.anew f)
  | 0xB2 => .ok (.ald f)
  | 0xB3 => .ok (.ast f)
  | 0xB4 => .ok (.aadd f)
  | 0xB5 => .ok (.asub f)
  | 0xB6 => .ok (.aneg f)
  | 0xB7 => .ok (.ascl f)
  | 0xB8 => .ok (.amul f)
  | 0xB9 => .ok (.afma f)
  | 0xBA => .ok (.arcp f)
  | 0xBB => .ok (.asqrt f)
  | 0xBC => .ok (.afold f)
  | 0xBD => .ok (.acen f)
  | 0xBE => .ok (.arad f)
  | 0xBF => .ok (.aterm f)
  | 0xC0 => .ok (.cpyl f)
  | 0xC1 => .ok (.cpys f)
  | 0xC2 => .ok (.cpyg f)
  | 0xC3 => .ok (.cpyr f)
  | 0xC4 => .ok (.cpyp f)
  | 0xC5 =>
    match f.srcc.toNat with
    | 0 => .ok (.collAllred f)
    | 1 => .ok (.collAllgath f)
    | 2 => .ok (.collRedscat f)
    | 3 => .ok (.collSend f)
    | 4 => .ok (.collRecv f)
    | _ => .error .illegalEncoding
  | 0xE0 => .ok (.asmk f)
  | 0xE1 => .ok (.asdrop f)
  | 0xE2 => .ok (.asqry f)
  | 0xE3 => .ok (.launch f)
  | 0xE4 => .ok (.ckpt f)
  | 0xE5 =>
    match f.mod.toNat with
    | 0 => .ok (.adeckRead f)
    | 1 => .ok (.adeckAdd f)
    | 2 => .ok (.adeckSet f)
    | _ => .error .illegalEncoding
  | _ => .ok (.unassignedOpcode (BitVec.ofNat 8 op) f)

/-- A header's fields, where its MBZ fields are zero (R60). -/
def Header.ofWord? (w : DWord) : Option Header :=
  if w.extractLsb' 48 8 == 0 && w.extractLsb' 20 12 == 0 && w.extractLsb' 4 12 == 0 then
    let h : Header :=
      { cclass := w.extractLsb' 46 2, cthresh := w.extractLsb' 40 6, cwen := w.extractLsb' 39 1
        sbmask := w.extractLsb' 32 7, yield := w.extractLsb' 19 1, engine := w.extractLsb' 16 3
        count := w.extractLsb' 0 4 }
    if h.ok then some h else none
  else none

/-- The word of a header (R60). -/
def Header.word (h : Header) : DWord :=
  0xCA#8 ++ 0#8 ++ h.cclass ++ h.cthresh ++ h.cwen ++ h.sbmask ++ 0#12 ++ h.yield ++ h.engine ++ 0#12 ++ h.count

/-- The instruction of a word. -/
def decodeWord (w : DWord) : Except DecodeError Instr :=
  let op := w.extractLsb' 56 8
  if op == 0xCA then
    match Header.ofWord? w with
    | some h => .ok (.clauseHeader h)
    | none => .error .illegalHeader
  else if op == 0xCB then .error .illegalHeader
  else
    match ofOpcode op.toNat (Fields.ofWord w) with
    | .ok i => if i.wf then .ok i else .error .illegalEncoding
    | .error e => .error e

/-- The little-endian 64-bit value of eight bytes (R1). -/
def dwordOfBytes (b0 b1 b2 b3 b4 b5 b6 b7 : Byte) : DWord :=
  b7 ++ b6 ++ b5 ++ b4 ++ b3 ++ b2 ++ b1 ++ b0

/-- The instruction at the head of a list of bytes, and the rest. -/
def decode : List Byte → Except DecodeError (Instr × List Byte)
  | b0 :: b1 :: b2 :: b3 :: b4 :: b5 :: b6 :: b7 :: rest =>
    match decodeWord (dwordOfBytes b0 b1 b2 b3 b4 b5 b6 b7) with
    | .ok i => .ok (i, rest)
    | .error e => .error e
  | _ => .error .truncated

/-- The word of an instruction; an event of the part has none. -/
def encode (i : Instr) : Option DWord :=
  match i with
  | .clauseHeader h => some h.word
  | i =>
    match i.opcode?, i.fields? with
    | some op, some f => some (f.word op)
    | _, _ => none

/-- The eight bytes of a word, lowest address first (R1). -/
def bytesOfDword (w : DWord) : List Byte :=
  (List.range 8).map fun k => w.extractLsb' (8 * k) 8

/-- The instruction the decoder reads from a table row's bits: every instruction is one 64-bit word. -/
def decodeTableWord (nbits w : Nat) : Option Instr :=
  if nbits > 64 then none
  else
    match decode (bytesOfDword (BitVec.ofNat 64 w)) with
    | .ok (i, []) => some i
    | _ => none

end Sys2Proof
end

