-- ==== Sys2Proof/Config.lean ====
section
/-!
DEFINITION. What the part fixes and the spec leaves free: capacities the spec states, and the free
values that no rule gives (uninterpreted: nothing can evaluate them).
-/
namespace Sys2Proof.Config

/-- Free value (DESIGN CHOICE, log 10): the mantissa that a NaN keeps below its quiet bit when f64 is narrowed to f16
or bf16;
R182 gives no row for it. -/
opaque narrowNanPayload : BitVec 64 → Nat

/-- Free value (DESIGN CHOICE, log 11): whether an issued, not completed write of an ended context is performed
(R448), one draw each. -/
opaque writeSurvives : Nat → Bool

/-- Free value (DESIGN CHOICE, log 12): which valid CONT leaf of a mismatched contiguous block translates a page
(R383), one draw each. -/
opaque contiguousChoice : Nat → Nat

/-- Free value (DESIGN CHOICE, log 13): the order in which a CPYS writes elements that share an address (R293), one
draw each:
true when a later element of the tile is written over an earlier one. -/
opaque overlapLater : Nat → Bool

/-- Free value (DESIGN CHOICE, log 30): which link that is up starts the shortest path to a position that no link
reaches directly
(R470), one draw each. -/
opaque pathLink : Nat → Nat

/-- Free value (DESIGN CHOICE, log 30): whether a position of the pod that no link reaches directly holds a module that
can be reached over others (R19). -/
opaque peerThere : Nat → Bool

/-- Free value (DESIGN CHOICE, log 35): the size of a context's saved image, whose layout is the part's own (R439, R466),
by ASID. -/
opaque saveBytes : Nat → Nat

/-- Free value (DESIGN CHOICE, log 2): which of the things that can happen next does, one draw each; beyond the keys
of R431 the spec
gives no order. -/
opaque order : Nat → Nat

/-- Free value (DESIGN CHOICE, log 7): which single-copy atomic piece of an access or of a copy is made apart from the
rest (R319), one draw each. -/
opaque piece : Nat → Nat

/-- Free value (DESIGN CHOICE, log 2): the cluster that placement chooses for work among those that can hold it
(R429), by the work's
identifier and its wait. -/
opaque cluster : Nat → Nat → Nat

/-- Free value (DESIGN CHOICE, log 29): the frames that a context's saved image takes beside its pages (R12, R421), by
ASID; the spec gives no size. -/
opaque saveFrames : Nat → Nat

/-- Free value (DESIGN CHOICE, log 6): the line that a full set of a cache gives up (R301), one draw each. -/
opaque victim : Nat → Nat

/-- CUs of the package (R14). -/
def cus : Nat := 256
/-- CUs of one die (R14). -/
def cusPerDie : Nat := 64
/-- Tags of a CU (R22). -/
def tags : Nat := 64
/-- Registry slots (R397). -/
def slots : Nat := 4096
/-- Watch entries (R400). -/
def watchEntries : Nat := 65536
/-- Image cache entries (R153). -/
def imageEntries : Nat := 4096
/-- Entries of a trump table (R372). -/
def trumpEntries : Nat := 64
/-- Tokens of a line (R369). -/
def tokens : Nat := 32
/-- Spawn bins of a die (R45) and its queue of pending groups (R46). -/
def bins : Nat := 64
def pendingGroups : Nat := 256
/-- Records that fill a bin (R47). -/
def binRecords : Nat := 32
/-- Ticks in a millisecond and in a microsecond (R2). -/
def ticksPerMs : Nat := 700000
def ticksPerUs : Nat := 700

end Sys2Proof.Config
end

