-- ==== Sys2Proof/Machine/Float.lean ====
section
/-!
DEFINITION. Number formats and rounding (08, R170 to R190), the arithmetic of row 2 on codes (09, R193 to R201), and the
correctly rounded special functions (R202 to R205). Codes are Nat; values are exact: sign, magnitude and a power of two.
-/
namespace Sys2Proof.Machine

/-- A floating-point format (R170). `inf`: it has infinities; `ieeeNan`: its NaNs are the codes above infinity. -/
structure Fmt where
  w    : Nat
  m    : Nat
  bias : Nat
  inf  : Bool
  ieeeNan : Bool
  deriving DecidableEq, Repr

def f64 : Fmt := ⟨11, 52, 1023, true, true⟩
def f32 : Fmt := ⟨8, 23, 127, true, true⟩
def f16 : Fmt := ⟨5, 10, 15, true, true⟩
def bf16 : Fmt := ⟨8, 7, 127, true, true⟩
def e4m3 : Fmt := ⟨4, 3, 7, false, false⟩
def e5m2 : Fmt := ⟨5, 2, 15, true, true⟩
def e2m1 : Fmt := ⟨2, 1, 1, false, false⟩

/-- The width of a code. -/
def Fmt.width (F : Fmt) : Nat := 1 + F.w + F.m
/-- The code of +infinity of a format that has it; one above its largest exponent otherwise. -/
def Fmt.top (F : Fmt) : Nat := (2 ^ F.w - 1) * 2 ^ F.m
/-- The largest finite magnitude code (R170). -/
def Fmt.maxCode (F : Fmt) : Nat :=
  if F.inf then F.top - 1 else if F.m = 3 then 2 ^ (F.w + F.m) - 2 else 2 ^ (F.w + F.m) - 1
/-- The magnitude code of the canonical quiet NaN (R172). -/
def Fmt.nanCode (F : Fmt) : Nat :=
  if F.ieeeNan then F.top + 2 ^ (F.m - 1) else 2 ^ (F.w + F.m) - 1
/-- The exponent of the least quantum. -/
def Fmt.qmin (F : Fmt) : Int := 1 - (F.bias : Int) - F.m
/-- A code with a sign. -/
def Fmt.signed (F : Fmt) (s : Bool) (mag : Nat) : Nat := (if s then 2 ^ (F.w + F.m) else 0) + mag

/-- What a code stands for (R171, R172): `fin s n e` is (−1)^s × n × 2^e. -/
inductive Num where
  | nan (s : Bool) (mant : Nat)
  | inf (s : Bool)
  | fin (s : Bool) (n : Nat) (e : Int)
  deriving DecidableEq, Repr

/-- Reading a code (R171, R172). -/
def Fmt.read (F : Fmt) (code : Nat) : Num :=
  let s := code.testBit (F.w + F.m)
  let mag := code % 2 ^ (F.w + F.m)
  let E := mag / 2 ^ F.m
  let M := mag % 2 ^ F.m
  if F.inf && E = 2 ^ F.w - 1 then (if M = 0 then .inf s else .nan s M)
  else if F.m = 3 && !F.inf && mag = 2 ^ (F.w + F.m) - 1 then .nan s M
  else if E = 0 then .fin s M F.qmin
  else .fin s (M + 2 ^ F.m) (F.qmin + (E - 1 : Int))

/-- Is a code a NaN. -/
def Num.isNan : Num → Bool
  | .nan _ _ => true
  | _ => false

/-- The rounding modes (R82): 0 RNE, 1 RTZ, 2 RDN, 3 RUP. -/
abbrev Mode := Nat

/-- Does a magnitude with a remainder round up: `rem` of `2^shift`, and more below it where `sticky` (R179). -/
def roundsUp (mode : Mode) (s : Bool) (mant rem shift : Nat) (sticky : Bool) : Bool :=
  let inexact := rem != 0 || sticky
  match mode with
  | 0 =>
    let half := 2 ^ (shift - 1)
    if shift = 0 then false else half < rem || (rem == half && (sticky || mant % 2 == 1))
  | 1 => false
  | 2 => s && inexact
  | _ => !s && inexact

/-- Rounding n × 2^e, and a little more where `sticky`, to the multiple of 2^q that the mode takes: the multiple. -/
def roundAt (mode : Mode) (s : Bool) (n : Nat) (e q : Int) (sticky : Bool) : Nat :=
  if q ≤ e then n * 2 ^ (e - q).toNat
  else
    let shift := (q - e).toNat
    let mant := n / 2 ^ shift
    let rem := n % 2 ^ shift
    if roundsUp mode s mant rem shift sticky then mant + 1 else mant

/-- The code of an overflow (R180). -/
def Fmt.overflow (F : Fmt) (mode : Mode) (sat s : Bool) : Nat :=
  let toMax := sat || mode = 1 || (mode = 2 && !s) || (mode = 3 && s) || (!F.inf && F.m != 3)
  F.signed s (if toMax then F.maxCode else if F.inf then F.top else F.nanCode)

/-- Rounding a magnitude into a format (R179 to R181): the code. -/
def Fmt.roundTo (F : Fmt) (mode : Mode) (sat flush s : Bool) (n : Nat) (e : Int) (sticky : Bool) : Nat :=
  if n = 0 && !sticky then F.signed s 0
  else
    let q := max F.qmin (if n = 0 then F.qmin else (Nat.log2 n : Int) + e - F.m)
    let mag := roundAt mode s n e q sticky + (q - F.qmin).toNat * 2 ^ F.m
    if F.maxCode < mag then F.overflow mode sat s
    else if flush && mag < 2 ^ F.m then F.signed s 0
    else F.signed s mag

/-- Rounding without saturation or flush, as arithmetic does (R193). -/
def Fmt.round (F : Fmt) (mode : Mode) (s : Bool) (n : Nat) (e : Int) : Nat := F.roundTo mode false false s n e false

/-! ### Arithmetic (R193 to R198) -/

/-- A NaN code with its quiet bit set (R193). -/
def Fmt.quiet (F : Fmt) (code : Nat) : Nat :=
  if code.testBit (F.m - 1) then code else code + 2 ^ (F.m - 1)

/-- The canonical quiet NaN. -/
def Fmt.nan (F : Fmt) : Nat := F.nanCode

/-- The first NaN among operands, quieted (R193 step 1). -/
def Fmt.firstNan (F : Fmt) (codes : List Nat) : Option Nat :=
  (codes.find? fun c => (F.read c).isNan).map F.quiet

/-- A signed magnitude at a common exponent. -/
def alignTo (s : Bool) (n : Nat) (e q : Int) : Int :=
  let v : Int := ((n * 2 ^ (e - q).toNat : Nat) : Int)
  if s then -v else v

/-- The sum of two finite values, rounded (R194). -/
def Fmt.sum (F : Fmt) (mode : Mode) (s1 : Bool) (n1 : Nat) (e1 : Int) (s2 : Bool) (n2 : Nat) (e2 : Int) : Nat :=
  let q := min e1 e2
  let v := alignTo s1 n1 e1 q + alignTo s2 n2 e2 q
  if v = 0 then
    if n1 = 0 && n2 = 0 && s1 == s2 then F.signed s1 0 else F.signed (mode == 2) 0
  else F.round mode (v < 0) v.natAbs q

/-- a + b (R196). -/
def Fmt.add (F : Fmt) (mode : Mode) (a b : Nat) : Nat :=
  match F.firstNan [a, b] with
  | some c => c
  | none =>
    match F.read a, F.read b with
    | .inf s, .inf t => if s == t then a else F.nan
    | .inf _, _ => a
    | _, .inf _ => b
    | .fin s n e, .fin t k d => F.sum mode s n e t k d
    | _, _ => F.nan

/-- The code with its sign reversed. -/
def Fmt.neg (F : Fmt) (a : Nat) : Nat :=
  if a.testBit (F.w + F.m) then a - 2 ^ (F.w + F.m) else a + 2 ^ (F.w + F.m)

/-- a − b: the sign of a NaN in b is not changed (R193, R196). -/
def Fmt.sub (F : Fmt) (mode : Mode) (a b : Nat) : Nat :=
  match F.firstNan [a, b] with
  | some c => c
  | none => F.add mode a (F.neg b)

/-- a × b + c with one rounding (R193, R194, R196). -/
def Fmt.fma (F : Fmt) (mode : Mode) (a b c : Nat) : Nat :=
  match F.firstNan [a, b, c] with
  | some x => x
  | none =>
    let prod : Num :=
      match F.read a, F.read b with
      | .inf s, .inf t => .inf (s != t)
      | .inf s, .fin t n _ => if n = 0 then .nan false 1 else .inf (s != t)
      | .fin s n _, .inf t => if n = 0 then .nan false 1 else .inf (s != t)
      | .fin s n e, .fin t k d => .fin (s != t) (n * k) (e + d)
      | _, _ => .nan false 1
    match prod, F.read c with
    | .nan _ _, _ => F.nan
    | .inf s, .inf t => if s == t then c else F.nan
    | .inf s, _ => F.signed s F.top
    | _, .inf _ => c
    | .fin s n e, .fin t k d => F.sum mode s n e t k d
    | _, _ => F.nan

/-- a × b (R193, R194, R196). -/
def Fmt.mul (F : Fmt) (mode : Mode) (a b : Nat) : Nat :=
  match F.firstNan [a, b] with
  | some x => x
  | none =>
    match F.read a, F.read b with
    | .fin s n e, .fin t k d => if n * k = 0 then F.signed (s != t) 0 else F.round mode (s != t) (n * k) (e + d)
    | .inf s, .inf t => F.signed (s != t) F.top
    | .inf s, .fin t n _ => if n = 0 then F.nan else F.signed (s != t) F.top
    | .fin s n _, .inf t => if n = 0 then F.nan else F.signed (s != t) F.top
    | _, _ => F.nan

/-- The order of codes that are no NaN, with −0 below +0 (R198). -/
def Fmt.key (F : Fmt) (a : Nat) : Int :=
  let mag : Int := ((a % 2 ^ (F.w + F.m) : Nat) : Int)
  if a.testBit (F.w + F.m) then -mag - 1 else mag

/-- The order of values, in which the zeros are equal (R199). -/
def Fmt.value (F : Fmt) (a : Nat) : Int :=
  let mag : Int := ((a % 2 ^ (F.w + F.m) : Nat) : Int)
  if a.testBit (F.w + F.m) then -mag else mag

/-- FMIN and FMAX (R198): `nanMode` is `.nan`. -/
def Fmt.minmax (F : Fmt) (isMax nanMode : Bool) (a b : Nat) : Nat :=
  let na := (F.read a).isNan
  let nb := (F.read b).isNan
  if na && nb || ((na || nb) && nanMode) then (F.firstNan [a, b]).getD F.nan
  else if na then b
  else if nb then a
  else if (F.key a ≤ F.key b) != isMax then a else b

/-- The conditions of FSET (R199). -/
def Fmt.cmp (F : Fmt) (m : Nat) (a b : Nat) : Bool :=
  let un := (F.read a).isNan || (F.read b).isNan
  let x := F.value a
  let y := F.value b
  match m with
  | 0 => !un && x == y
  | 1 => un || x != y
  | 2 => !un && x < y
  | 3 => !un && x ≤ y
  | 4 => !un && y < x
  | 5 => !un && y ≤ x
  | 6 => !un
  | _ => un

/-- FCLASS's bit (R200). -/
def Fmt.classBit (F : Fmt) (a : Nat) : Nat :=
  let mag := a % 2 ^ (F.w + F.m)
  match F.read a with
  | .nan _ mant => if mant.testBit (F.m - 1) then 9 else 8
  | .inf s => if s then 0 else 7
  | .fin s n _ =>
    if n = 0 then (if s then 3 else 4)
    else if mag < 2 ^ F.m then (if s then 2 else 5)
    else if s then 1 else 6

/-- FRND (R201). -/
def Fmt.integral (F : Fmt) (mode : Mode) (a : Nat) : Nat :=
  match F.read a with
  | .nan _ _ => F.quiet a
  | .inf _ => a
  | .fin s n e => if n = 0 || 0 ≤ e then a else F.round mode s (roundAt mode s n e 0 false) 0

/-! ### Conversions (R179 to R183) -/

/-- The mantissa field that a NaN's becomes, `d` bits narrower or wider; a field that would be zero is the canonical quiet
mantissa (R182). -/
def movePayload (mant srcM dstM : Nat) : Nat :=
  let x := if srcM ≤ dstM then mant * 2 ^ (dstM - srcM) else mant / 2 ^ (srcM - dstM)
  if x = 0 then 2 ^ (dstM - 1) else x

/-- A NaN of a sign and mantissa field in a format (R182). -/
def Fmt.nanOf (F : Fmt) (s : Bool) (mant : Nat) : Nat :=
  if F.ieeeNan then F.signed s (F.top + mant) else if F.m = 3 then F.signed s F.nanCode else 0

/-- An f32 NaN's mantissa from a narrower format's (R182). -/
def toF32Payload (src : Fmt) (mant : Nat) : Nat := if src.m = 3 then 0x400000 else movePayload mant src.m 23

/-- A NaN moved between formats (R182). Of f64 to f16 or bf16 the quiet bit stays, and the bits below it are a free value
(DESIGN CHOICE, log 10). From f16 or bf16 to f64 the payload goes through f32 (DEDUCED, log 10: no row is for the pair). -/
def moveNan (src dst : Fmt) (s : Bool) (mant : Nat) : Nat :=
  if src.m = 52 then
    if dst.m = 23 then dst.nanOf s (movePayload mant 52 23)
    else
      let free := Config.narrowNanPayload (BitVec.ofNat 64 (src.signed s (src.top + mant))) % 2 ^ (dst.m - 1)
      let x := mant / 2 ^ 51 * 2 ^ (dst.m - 1) + free
      dst.nanOf s (if x = 0 then 2 ^ (dst.m - 1) else x)
  else if dst.m = 52 then dst.nanOf s (movePayload (toF32Payload' src mant) 23 52)
  else dst.nanOf s (movePayload (toF32Payload' src mant) 23 dst.m)
where
  /-- The f32 mantissa of a NaN of f32 or of a narrower format. -/
  toF32Payload' (src : Fmt) (mant : Nat) : Nat := if src.m = 23 then mant else toF32Payload src mant

/-- A conversion between floating-point formats: R179 to R182. -/
def convert (src dst : Fmt) (mode : Mode) (sat flush : Bool) (code : Nat) : Nat :=
  match src.read code with
  | .nan s mant => moveNan src dst s mant
  | .inf s =>
    if src.m < dst.m && src.w ≤ dst.w then dst.signed s dst.top
    else if sat || (!dst.inf && dst.m != 3) then dst.signed s dst.maxCode
    else if dst.inf then dst.signed s dst.top
    else dst.signed s dst.nanCode
  | .fin s n e => dst.roundTo mode sat flush s n e false

/-- A number rounded to an integer and clamped (R183). -/
def toInteger (mode : Mode) (lo hi : Int) : Num → Int
  | .nan _ _ => 0
  | .inf s => if s then lo else hi
  | .fin s n e =>
    let v : Int := ((roundAt mode s n e 0 false : Nat) : Int)
    max lo (min hi (if s then -v else v))

/-- An integer rounded into a format (R183). -/
def Fmt.ofInteger (F : Fmt) (mode : Mode) (x : Int) : Nat := F.round mode (x < 0) x.natAbs 0

/-- The format of an element code (R55); none for the integer formats, cb2 and the codes that name none. -/
def fmtOf : Nat → Option Fmt
  | 1 => some f32
  | 2 => some f16
  | 3 => some bf16
  | 4 => some e4m3
  | 5 => some e5m2
  | 6 => some e2m1
  | 9 => some f64
  | _ => none

/-! ### Algebraic special functions -/

/-- Integer square root by bits, from bit `k` down. -/
def isqrtFrom (n : Nat) : Nat → Nat → Nat
  | 0, r => r
  | k + 1, r =>
    let c := r + 2 ^ k
    isqrtFrom n k (if c * c ≤ n then c else r)

/-- floor(√n). -/
def isqrt (n : Nat) : Nat := isqrtFrom n (Nat.log2 n / 2 + 1) 0

/-- 1/a (R202, R205). -/
def Fmt.rcp (F : Fmt) (mode : Mode) (a : Nat) : Nat :=
  match F.read a with
  | .nan _ _ => F.quiet a
  | .inf s => F.signed s 0
  | .fin s n e =>
    if n = 0 then F.signed s F.top
    else
      let k := 2 * F.m + 8
      F.roundTo mode false false s (2 ^ k / n) (-e - k) (2 ^ k % n != 0)

/-- √a (R202, R205). -/
def Fmt.sqrt (F : Fmt) (mode : Mode) (a : Nat) : Nat :=
  match F.read a with
  | .nan _ _ => F.quiet a
  | .inf s => if s then F.nan else a
  | .fin s n e =>
    if n = 0 then a
    else if s then F.nan
    else
      let k := 2 * F.m + 8 + (e % 2).toNat
      let x := n * 2 ^ k
      let r := isqrt x
      F.roundTo mode false false false r ((e - k) / 2) (r * r != x)

/-- 1/√a (R202, R205). -/
def Fmt.rsq (F : Fmt) (mode : Mode) (a : Nat) : Nat :=
  match F.read a with
  | .nan _ _ => F.quiet a
  | .inf s => if s then F.nan else F.signed false 0
  | .fin s n e =>
    if n = 0 then F.signed s F.top
    else if s then F.nan
    else
      let k := 4 * F.m + 16 + (e % 2).toNat
      let r := isqrt (2 ^ k / n)
      F.roundTo mode false false false r ((-e - k) / 2) (r * r * n != 2 ^ k)

/-! ### Transcendental functions, by intervals of fixed-point numbers

A pair `(lo, hi)` at precision `P` encloses a number between lo / 2^P and hi / 2^P. -/

/-- An interval of naturals at a precision. -/
abbrev Ivl := Nat × Nat

/-- The product of two intervals. -/
def imulP (P : Nat) (a b : Ivl) : Ivl := (a.1 * b.1 / 2 ^ P, a.2 * b.2 / 2 ^ P + 1)
/-- The quotient of two intervals. -/
def idivP (P : Nat) (a b : Ivl) : Ivl := (a.1 * 2 ^ P / b.2, a.2 * 2 ^ P / b.1 + 1)

/-- The sum of t / (2k+1) over the powers of z² of a term t, for `n` terms: atanh by its series. -/
def atanhSum (P : Nat) (z2 : Ivl) : Nat → Nat → Ivl → Ivl → Ivl
  | 0, _, t, acc => (acc.1, acc.2 + 2 * t.2 + 2)
  | n + 1, k, t, acc =>
    atanhSum P z2 n (k + 1) (imulP P t z2) (acc.1 + t.1 / (2 * k + 1), acc.2 + t.2 / (2 * k + 1) + 1)

/-- atanh of an interval within [0, 1/3]. -/
def iatanh (P : Nat) (z : Ivl) : Ivl := atanhSum P (imulP P z z) (P / 3 + 4) 0 z (0, 0)

/-- ln 2 = 2 atanh(1/3). -/
def iln2 (P : Nat) : Ivl :=
  let z := iatanh P (2 ^ P / 3, 2 ^ P / 3 + 1)
  (2 * z.1, 2 * z.2)

/-- The Taylor sum of exp, for `n` terms from the k-th. -/
def expSum (P : Nat) (y : Ivl) : Nat → Nat → Ivl → Ivl → Ivl
  | 0, _, t, acc => (acc.1, acc.2 + 2 * t.2 + 2)
  | n + 1, k, t, acc =>
    let t' := imulP P t y
    expSum P y n (k + 1) (t'.1 / k, t'.2 / k + 1) (acc.1 + t.1, acc.2 + t.2)

/-- exp of an interval within [0, 1]. -/
def iexp (P : Nat) (y : Ivl) : Ivl := expSum P y (P / 4 + 20) 1 (2 ^ P, 2 ^ P) (0, 0)

/-- The alternating arctangent sum of 1/d, for `n` terms: even terms, odd terms. -/
def atanInvSum (d2 : Nat) : Nat → Nat → Ivl → Ivl → Ivl → Ivl × Ivl
  | 0, _, t, e, o => ((e.1, e.2 + t.2 + 1), (o.1, o.2 + t.2 + 1))
  | n + 1, k, t, e, o =>
    let x := (t.1 / (2 * k + 1), t.2 / (2 * k + 1) + 1)
    let t' := (t.1 / d2, t.2 / d2 + 1)
    if k % 2 = 0 then atanInvSum d2 n (k + 1) t' (e.1 + x.1, e.2 + x.2) o
    else atanInvSum d2 n (k + 1) t' e (o.1 + x.1, o.2 + x.2)

/-- arctan(1/d), d at least 5. -/
def iatanInv (P d : Nat) : Ivl :=
  let r := atanInvSum (d * d) (P / 4 + 4) 0 (2 ^ P / d, 2 ^ P / d + 1) (0, 0) (0, 0)
  (r.1.1 - r.2.2, r.1.2 - r.2.1)

/-- π = 16 arctan(1/5) − 4 arctan(1/239). -/
def ipi (P : Nat) : Ivl :=
  let a := iatanInv P 5
  let b := iatanInv P 239
  (16 * a.1 - 4 * b.2, 16 * a.2 - 4 * b.1)

/-- The alternating Taylor sums of sin (k from 1, first term y) and cos (k from 0, first term 1): even and odd terms. -/
def trigSum (P : Nat) (y2 : Ivl) : Nat → Nat → Ivl → Bool → Ivl → Ivl → Ivl × Ivl
  | 0, _, t, _, e, o => ((e.1, e.2 + t.2 + 1), (o.1, o.2 + t.2 + 1))
  | n + 1, k, t, odd, e, o =>
    let u := imulP P t y2
    let d := (k + 1) * (k + 2)
    let t' := (u.1 / d, u.2 / d + 1)
    if odd then trigSum P y2 n (k + 2) t' false e (o.1 + t.1, o.2 + t.2)
    else trigSum P y2 n (k + 2) t' true (e.1 + t.1, e.2 + t.2) o

/-- sin of an interval within [0, π/2]. -/
def isin (P : Nat) (y : Ivl) : Ivl :=
  let r := trigSum P (imulP P y y) (P / 6 + 16) 1 y false (0, 0) (0, 0)
  (r.1.1 - r.2.2, r.1.2 - r.2.1)

/-- cos of an interval within [0, π/2]. -/
def icos (P : Nat) (y : Ivl) : Ivl :=
  let r := trigSum P (imulP P y y) (P / 6 + 16) 0 (2 ^ P, 2 ^ P) false (0, 0) (0, 0)
  (r.1.1 - r.2.2, r.1.2 - r.2.1)

/-- n × 2^e at a precision, as an interval. -/
def ifix (P n : Nat) (e : Int) : Ivl :=
  let k := e + P
  if 0 ≤ k then (n * 2 ^ k.toNat, n * 2 ^ k.toNat)
  else (n / 2 ^ (-k).toNat, n / 2 ^ (-k).toNat + 1)

/-- Rounding of a number that is no dyadic fraction, from enclosures of its magnitude at rising precision: the first
enclosure whose ends round alike decides (DESIGN CHOICE, log 13). `scale` is the power of two by which the enclosed
number is to be
multiplied. -/
def ziv (F : Fmt) (mode : Mode) (s : Bool) (scale : Int) (f : Nat → Ivl) : List Nat → Nat
  | [] => F.nan
  | P :: Ps =>
    let v := f P
    let lo := F.roundTo mode false false s v.1 (scale - P) true
    let hi := F.roundTo mode false false s (v.2 - 1) (scale - P) true
    if lo = hi && v.1 < v.2 && (2 ^ 60 ≤ v.1 || 256 ≤ P) then lo else ziv F mode s scale f Ps

/-- The precisions that are tried. -/
def precisions : List Nat := [96, 288, 640, 1200]

/-- 2^a (R202, R205). -/
def ex2 (mode : Mode) (a : Nat) : Nat :=
  match f32.read a with
  | .nan _ _ => f32.quiet a
  | .inf s => if s then 0 else f32.top
  | .fin s n e =>
    let v := if s then -(n : Int) else n
    if n = 0 then f32.round mode false 1 0
    else if 0 ≤ e then
      let i := v * 2 ^ e.toNat
      f32.round mode false 1 (max (-400) (min i 400))
    else
      let k := (-e).toNat
      let i := v / 2 ^ k
      let r := (v % 2 ^ k).toNat
      if r = 0 then f32.round mode false 1 (max (-400) (min i 400))
      else if 300 < i then f32.round mode false 1 400
      else if i < -300 then f32.roundTo mode false false false 1 (-400) true
      else ziv f32 mode false i (fun P => iexp P (imulP P (ifix P r (-k)) (iln2 P))) precisions

/-- log2 a (R202, R205). -/
def lg2 (mode : Mode) (a : Nat) : Nat :=
  match f32.read a with
  | .nan _ _ => f32.quiet a
  | .inf s => if s then f32.nan else a
  | .fin s n e =>
    if n = 0 then f32.signed true f32.top
    else if s then f32.nan
    else
      let k := Nat.log2 n
      let E : Int := e + k
      if n = 2 ^ k then f32.round mode (E < 0) E.natAbs 0
      else
        let frac := fun P : Nat =>
          let z := idivP P (ifix P (n - 2 ^ k) 0) (ifix P (n + 2 ^ k) 0)
          let l := iatanh P z
          idivP P (2 * l.1, 2 * l.2) (iln2 P)
        if 0 ≤ E then
          ziv f32 mode false 0 (fun P => let x := frac P; (x.1 + E.toNat * 2 ^ P, x.2 + E.toNat * 2 ^ P)) precisions
        else
          ziv f32 mode true 0 (fun P => let x := frac P; ((-E).toNat * 2 ^ P - x.2, (-E).toNat * 2 ^ P - x.1)) precisions

/-- 2πr at a precision, for the fraction r = n / 2^k. -/
def iangle (P n k : Nat) : Ivl :=
  let p := ipi P
  imulP P (ifix P n (-k)) (2 * p.1, 2 * p.2)

/-- sin(2πa) (R202, R205). -/
def sin2pi (mode : Mode) (a : Nat) : Nat :=
  match f32.read a with
  | .nan _ _ => f32.quiet a
  | .inf _ => f32.nan
  | .fin s n e =>
    let k := (-e).toNat
    let r := if 0 ≤ e then 0 else n % 2 ^ k
    -- quarter turns of |a|, and the rest of a quarter
    let q := 4 * r / 2 ^ k
    let t := 4 * r % 2 ^ k
    if r = 0 || (q = 2 && t = 0) then f32.signed s 0
    else if t = 0 then f32.round mode (s != (q == 3)) 1 0
    else
      let u := if q % 2 = 0 then t else 2 ^ k - t
      ziv f32 mode (s != decide (2 ≤ q)) 0 (fun P => isin P (iangle P u (k + 2))) precisions

/-- cos(2πa) (R202, R205). -/
def cos2pi (mode : Mode) (a : Nat) : Nat :=
  match f32.read a with
  | .nan _ _ => f32.quiet a
  | .inf _ => f32.nan
  | .fin _ n e =>
    let k := (-e).toNat
    let r := if 0 ≤ e then 0 else n % 2 ^ k
    let q := 4 * r / 2 ^ k
    let t := 4 * r % 2 ^ k
    if t = 0 then (if q % 2 = 1 then 0 else f32.round mode (q == 2) 1 0)
    else
      let u := if q % 2 = 0 then t else 2 ^ k - t
      -- a tiny angle's cosine is just below 1
      if q = 0 && u * 2 ^ 40 < 2 ^ k then f32.roundTo mode false false false (2 ^ 60 - 1) (-60) true
      else ziv f32 mode (q == 1 || q == 2) 0 (fun P => icos P (iangle P u (k + 2))) precisions

/-- tanh a (R202, R205). -/
def tanh32 (mode : Mode) (a : Nat) : Nat :=
  match f32.read a with
  | .nan _ _ => f32.quiet a
  | .inf s => f32.round mode s 1 0
  | .fin s n e =>
    if n = 0 then a
    else
      let mag : Int := (Nat.log2 n : Int) + e
      if mag < -40 then f32.roundTo mode false false s (n * 2 ^ 64 - 1) (e - 64) true
      else if 6 ≤ mag then f32.roundTo mode false false s (2 ^ 60 - 1) (-60) true
      else
        -- with y = |a| / 64 in [0, 1), E = exp(y)^128 = exp(2 |a|)
        ziv f32 mode s 0 (fun P =>
          let x := (List.range 7).foldl (fun x _ => imulP P x x) (iexp P (ifix P n (e - 6)))
          let one := 2 ^ P
          idivP P (x.1 - one, x.2 - one) (x.1 + one, x.2 + one)) precisions

/-! ### Block scales and codebooks (R175 to R177, R186 to R189) -/

/-- floor(log2 A) of a finite non-zero value. -/
def floorLog2 (n : Nat) (e : Int) : Int := (Nat.log2 n : Int) + e

/-- The exponent of the largest finite value of a scaled element format (R189). -/
def topExp (element : Nat) : Int :=
  match element with
  | 4 => 8
  | 5 => 15
  | 6 => 2
  | _ => 3

/-- The block scale code of f32 codes (R189). -/
def blockScale (element : Nat) (codes : List Nat) : Nat :=
  let vs := codes.map f32.read
  if vs.any (fun v => match v with | .fin _ _ _ => false | _ => true) then 0xFF
  else
    let logs := vs.filterMap fun v => match v with | .fin _ n e => if n = 0 then none else some (floorLog2 n e) | _ => none
    match logs with
    | [] => 0
    | x :: xs => (max 0 (min 254 (xs.foldl max x - topExp element + 127))).toNat

/-- The eight weights of a CB2 index under an entry, without their scale: sign and twice the magnitude (R177). -/
def cb2Weights (index entry : Nat) : List (Bool × Nat) :=
  let signs := (List.range 7).map fun k => index.testBit (k + 1)
  let last := signs.foldl (fun a b => a != b) false
  (List.range 8).map fun k =>
    (signs.getD k last, 2 * (entry / 16 ^ k % 16) + index % 2)

end Sys2Proof.Machine
end

