-- ==== Sys2Proof/Machine/Sparse.lean ====
section
/-!
DEFINITION. Finite maps from Nat as sorted lists, in one canonical form: keys strictly rising and no entry equal to what
an unlisted key reads as. Memory, register files and the tables of the state are such maps.
-/
namespace Sys2Proof.Machine

/-- Reading a key; `d` is what an unlisted key reads as. -/
def sget {α : Type} (d : α) : List (Nat × α) → Nat → α
  | [], _ => d
  | (k, v) :: m, i => if k = i then v else sget d m i

/-- Removing a key. -/
def sdel {α : Type} : List (Nat × α) → Nat → List (Nat × α)
  | [], _ => []
  | (k, v) :: m, i => if k = i then sdel m i else (k, v) :: sdel m i

/-- Putting a key in its place. -/
def sput {α : Type} (x : α) : List (Nat × α) → Nat → List (Nat × α)
  | [], i => [(i, x)]
  | (k, v) :: m, i =>
    if k = i then (i, x) :: m else if i < k then (i, x) :: (k, v) :: m else (k, v) :: sput x m i

/-- Writing a key; writing what an unlisted key reads as removes the entry. -/
def sset {α : Type} [DecidableEq α] (d : α) (m : List (Nat × α)) (i : Nat) (x : α) : List (Nat × α) :=
  if x = d then sdel m i else sput x m i

/-- Changing a key's value by a function. -/
def supd {α : Type} [DecidableEq α] (d : α) (m : List (Nat × α)) (i : Nat) (f : α → α) : List (Nat × α) :=
  sset d m i (f (sget d m i))

/-- The canonical form: every key is above the bound, keys rise and no value is the default. -/
def swfFrom {α : Type} [DecidableEq α] (d : α) : Nat → List (Nat × α) → Bool
  | _, [] => true
  | lo, (k, v) :: m => decide (lo ≤ k) && decide (v ≠ d) && swfFrom d (k + 1) m

/-- The canonical form. -/
def swf {α : Type} [DecidableEq α] (d : α) (m : List (Nat × α)) : Bool := swfFrom d 0 m

/-- Finding the record of an identifier in a list of records. -/
def findId {α : Type} (key : α → Nat) : List α → Nat → Option α
  | [], _ => none
  | x :: xs, i => if key x = i then some x else findId key xs i

/-- Changing the record of an identifier. -/
def updId {α : Type} (key : α → Nat) (f : α → α) : List α → Nat → List α
  | [], _ => []
  | x :: xs, i => if key x = i then f x :: xs else x :: updId key f xs i

/-- Removing the record of an identifier. -/
def delId {α : Type} (key : α → Nat) : List α → Nat → List α
  | [], _ => []
  | x :: xs, i => if key x = i then xs else x :: delId key xs i

/-- A list in order of `le`, its equals in their own order. -/
def insertBy {α : Type} (le : α → α → Bool) (x : α) : List α → List α
  | [] => [x]
  | y :: ys => if le x y then x :: y :: ys else y :: insertBy le x ys
def sortBy {α : Type} (le : α → α → Bool) (xs : List α) : List α := xs.foldr (insertBy le) []

end Sys2Proof.Machine
end

