-- ==== Sys2Proof/Machine/State.lean ====
section
/-!
DEFINITION. The state of the package, as plain data, and the state after reset. Each structure's docstring names the
rules that give it. Fields marked MODEL'S OWN are not the spec's: they say what the outside world presents, which issue
the step has selected, and how many free values have been drawn.
-/
namespace Sys2Proof.Machine

/-- How a model's step stops by a fault of its own. -/
inductive Fault where
  /-- An encoded instruction was executed while no group issues: raised by every encoded meaning. Safe: the step selects
  a group before it executes an instruction. -/
  | noIssue
  deriving DecidableEq, Repr

/-- How a model's step stops by a refusal. -/
inductive Refusal where
  /-- An instruction without a meaning yet: raised by its arm alone. Safe. -/
  | notModelled (mnemonic : String)
  deriving DecidableEq, Repr

/-- Bytes of the physical address space (R19), by address; an unlisted byte reads 0 (DESIGN CHOICE, log 3). -/
abbrev Memory := List Host.Cell

/-- The canonical form of a memory. -/
def Memory.wf (m : Memory) : Bool := swf (0#8) m

/-! ### Groups -/

/-- A lane's park state (R37, R41, R42): a lane held at a multiply keeps it. An exited lane is one whose PC is all ones
(R36). -/
inductive Park where
  | running
  | join (j : Nat)
  | mma (j : Nat) (i : Instr)
  deriving DecidableEq, Repr

/-- How a lane came to its PC (R62, R64, R65, R140): inside a clause whose header is known, by falling past a clause's
last word or from a kernel header, by a control transfer from an address, by an entry to a handler, or past a clause's header
whose word has still to be read (R141). -/
inductive Arrival where
  | inClause
  | past
  | fall
  | transfer (src : DWord)
  | entry
  deriving DecidableEq, Repr

/-- Where a lane stands: its PC, how it came there, and the clause that holds it, with the header word that the issue
unit read (R62), where it came inside one. -/
structure Pos where
  pc      : DWord
  hdr     : DWord
  word    : DWord
  arrival : Arrival
  deriving DecidableEq, Repr

/-- A lane of a group (R36, R37, R126, R141). -/
structure Lane where
  pos     : Pos
  park    : Park
  /-- `sr.savepc` and the clause position saved with it (R140). -/
  save    : Pos
  /-- SETSR has written `sr.savepc` since the last handler entry (R126). -/
  setsr   : Bool
  /-- The lane entered the handler (R141). -/
  entered : Bool
  deriving DecidableEq, Repr

/-- A lane's PC. -/
def Lane.pc (l : Lane) : DWord := l.pos.pc
/-- A lane's `sr.savepc`. -/
def Lane.savepc (l : Lane) : DWord := l.save.pc

/-- A term of an affine form (R215). -/
structure Term where
  id   : BitVec 24
  coef : BitVec 32
  deriving DecidableEq, Repr

/-- An affine form (R215). -/
structure Form where
  centre  : BitVec 64
  residue : BitVec 32
  terms   : List Term
  void    : Bool
  deriving DecidableEq, Repr

/-- The form an affine register starts with (R34). -/
def Form.empty : Form := ⟨0#64, 0#32, [], false⟩

/-- The record of a fault: `sr.fcode`, `sr.flane`, `sr.finfo`, `sr.fpc`, `sr.faddr` (R139). -/
structure FaultRecord where
  code  : BitVec 32
  lanes : Mask
  info  : BitVec 32
  pc    : DWord
  addr  : BitVec 64
  deriving DecidableEq, Repr

/-- A join register (R40). -/
structure Join where
  declared : Mask
  signed   : Mask
  deriving DecidableEq, Repr

/-- A wait of a group or half (R117 to R121). -/
inductive Wait where
  | none
  | slots (mask : Nat)
  | counter (cls threshold : Nat)
  | allTags (mask : BitVec 64)
  | someTag (mask : BitVec 64)
  | ring (r slot : Nat) (phase : Bool)
  /-- BARW has arrived and waits for the phase bit to change (R119). -/
  | barrier (b : Nat)
  /-- A phase has flipped and released the wait: the instruction ends when it is reached again (R119, R292). -/
  | released
  /-- MWAIT sleeps since `start`: its fields, its issuing lanes and its word (R121). -/
  | mwait (start : BitVec 64) (f : Fields) (lanes : Mask) (word : DWord)
  deriving DecidableEq, Repr

/-- A monitor (R332). -/
structure Monitor where
  armed  : Bool
  fired  : Bool
  wide   : Bool
  scope  : Nat
  va     : DWord
  expect : BitVec 64
  deriving DecidableEq, Repr

/-- A byte's place: physical memory, or a team scratchpad's logical CU and offset (R302). -/
inductive Place where
  | mem (pa : Nat)
  | scratch (team index off : Nat)
  /-- The launch's parameter block copy (R321). -/
  | param (off : Nat)
  deriving DecidableEq, Repr

/-- What an access does at its place (R237, R294, R317 to R335). -/
inductive AccessOp where
  | load (size : Nat) (signed : Bool)
  | store (bytes : List Byte)
  | atom (op : Nat) (wide : Bool) (b : BitVec 64)
  | cas (wide : Bool) (b c : BitVec 64)
  /-- REL: the new VALUE or what is added to it, and the signature to merge where the scope is TEAM or wider (R328). -/
  | rel (add : Bool) (value : BitVec 64) (merge : Option (BitVec 512))
  /-- PZERO's store of zero to a line (R335). -/
  | zeroLine
  /-- SIGCLR: bytes 8 to 127 of a synchronisation line become zero (R330). -/
  | sigClear
  /-- An element added by CPYR (R294). -/
  | addTo (element : Nat) (bytes : List Byte)
  /-- DONE of a queue entry: its line's VALUE falls by one and SAT is set (R426). -/
  | signal
  /-- A store of `n` bytes that a higher lane's store of the same instruction covers (R318): it writes nothing of its own,
  and keeps the lane's later accesses behind the store that does (R78). -/
  | covered (n : Nat)
  deriving DecidableEq, Repr

/-- One lane's access, translated at issue (R315, R316). -/
structure Access where
  lane  : Nat
  va    : DWord
  place : Place
  op    : AccessOp
  /-- The access keeps no L1 copy: `.nol1` or a leaf's ATTR (R317, R381). -/
  noL1  : Bool
  /-- Every access is served at the home store (ATTR 10, R381). -/
  atHome : Bool
  /-- The access counter that a fill raises (R389). -/
  count : Option Nat
  /-- The registers that receive the result. -/
  rets  : List Nat
  /-- Lines that the access fills are the first to be replaced: `.stream` (R317, R318). -/
  stream : Bool
  deriving DecidableEq, Repr

/-- A register result: register, lane, value. -/
structure RegWrite where
  reg   : Nat
  lane  : Nat
  value : Word
  deriving DecidableEq, Repr

/-- An affine result (R231). -/
structure FormWrite where
  reg   : Nat
  lane  : Nat
  value : Form
  deriving DecidableEq, Repr

/-- A thread record (R45). -/
structure ThreadRecord where
  lane  : Nat
  entry : DWord
  args  : List Word
  deriving DecidableEq, Repr

/-- A copy's completion target (R281, R291, R292). -/
inductive Target where
  | none
  | tag (k : Nat)
  | ring (r slot : Nat)
  | counter (va : DWord) (pa : Nat)
  deriving DecidableEq, Repr

/-- A run of bytes that a copy moves: where it comes from and goes to (R283 to R295). -/
structure Move where
  n    : Nat
  src  : Place
  dst  : Place
  size : Nat
  /-- Memory is reached at the home store (ATTR 10, R381), and the access counters that fills raise (R389). -/
  srcHome  : Bool
  dstHome  : Bool
  srcCount : Option Nat
  dstCount : Option Nat
  deriving DecidableEq, Repr

/-- What a copy does with each run (R293 to R295). -/
inductive MoveOp where
  /-- Elements of some bytes each. -/
  | copy (grain : Nat)
  | add (element : Nat)
  /-- CPYP: the lines come to L2. -/
  | fetch
  deriving DecidableEq, Repr

/-- A collective (R296, R297): its operation, identifier, format, ranks, the image of its source with the bytes of it
that are poisoned, the peer of a `.send` or `.recv`, and the runs of its destination. -/
structure CollState where
  kind   : Nat
  collId : Nat
  element : Nat
  ranks  : Nat
  rank   : Nat
  peer   : Nat
  sent   : List Byte
  bad    : List Nat
  /-- The runs of the source that are still to be read into its image. -/
  src    : List Move
  size   : Nat
  dst    : List Move
  /-- The pods to which it sends over Ethernet once its source is read (R58). -/
  pods   : List Nat
  /-- The result, once every rank's data is there. -/
  image  : Option (List Byte)
  /-- The lines written so far, which enter the signature at landing (R290). -/
  lines  : List Nat
  deriving DecidableEq, Repr

/-- What a peer has sent of a collective (R297): its operation, its byte count, its data and the bytes of them that are
poisoned. A `.recv` that a peer has issued sends no data. -/
structure PeerData where
  asid : Nat
  coll : Nat
  rank : Nat
  kind : Nat
  size : Nat
  data : List Byte
  bad  : List Nat
  deriving DecidableEq, Repr

/-- An 8-byte word of a lane's record that a load has read, with its offset in the record (R237). -/
structure RecordRead where
  lane  : Nat
  off   : Nat
  bytes : List Byte
  deriving DecidableEq, Repr

/-- What an outstanding operation does when it is performed. -/
inductive OpKind where
  /-- Results known at issue, written when they land (R73). -/
  | result (regs : List RegWrite) (forms : List FormWrite)
  /-- Accesses still to be performed, and the lines that enter the signature at completion (R326). -/
  | access (accs : List Access) (lines : List Nat)
  /-- An affine record's load (R237): what each lane has still to read, and what it has read. -/
  | formLoad (accs : List Access) (read : List RecordRead)
  /-- ACQ: the line it reads, its scope and register, and the line's bytes once it has read them (R329). -/
  | acquire (pa scope : Nat) (dst : Nat) (read : Option (List Byte))
  | fence (flags scope : Nat)
  | cacheWb (pas : List Nat)
  | cacheInv (pas : List Nat)
  | cacheInvAll
  | codeInv (vas : List DWord)
  /-- A matrix instruction's results, or the words of its scratchpad image that MLDF reads or MSTF writes, and whether the
  engine has started it (R267). -/
  | matrix (regs : List RegWrite) (image : List Access) (started : Bool)
  /-- A copy: its runs still to move, the lines it has written, and its target. -/
  | copy (moves : List Move) (op : MoveOp) (lines : List Nat) (target : Target)
  | coll (c : CollState) (target : Target)
  | spawn (records : List ThreadRecord) (dst : Nat)
  | drop (slot : Nat)
  /-- ADECK: its operation, its operand and its register, with its effect on the Deck still to come (R247, R248). -/
  | deck (mod b dst : Nat)
  deriving DecidableEq, Repr

/-- An outstanding operation of a group (R22, R73, R77). -/
structure Op where
  id    : Nat
  pc    : DWord
  /-- Counter class: 0 `oc.mem`, 1 `oc.copy`, 2 `oc.mat`, 3 `oc.coll` (R60). -/
  cls   : Option Nat
  /-- SBSET; 0 names no slot. -/
  slot  : Nat
  look  : Nat
  /-- Issues of half 0 and of half 1 since (R73, R164). -/
  since0 : Nat
  since1 : Nat
  /-- The issuing lanes, whose half or halves the window holds. -/
  lanes : Mask
  /-- Pending registers: 0 to 254 for `v`, 256 + n for `a`n (R76). -/
  dsts  : List Nat
  /-- Lanes in which they are pending. -/
  pend  : Mask
  kind  : OpKind
  /-- Issues it counts for toward its counter and its slot: two for a merged issue (R162). -/
  weight : Nat
  /-- Results that are there and not yet written to their registers (R74). -/
  late  : List RegWrite
  /-- Pending registers that a later instruction has written, as keys of register and lane, and those of them that
  have been read since and so keep what was read (R74). -/
  shadow : List Nat
  fixed : List Nat
  /-- Completed; its counter is lowered when every earlier operation of its class is completed too (R22). -/
  done  : Bool
  deriving DecidableEq, Repr

/-- A revocation that has reached a group (R26, R409): the handler, the CAUSE register and the cause word, and whether
the lanes have been moved and only the cause is still to be written. -/
structure Redirect where
  handler : DWord
  reg     : Nat
  cause   : BitVec 32
  moved   : Bool
  deriving DecidableEq, Repr

/-- A group (R29, R34, R139, R326, R332, R227, R256). -/
structure Group where
  id     : Nat
  team   : Nat
  /-- Its number within the team (R31). -/
  index  : Nat
  role   : Nat
  nregs  : Nat
  fwd    : Bool
  cu     : Nat
  quad   : Nat
  lanes  : List Lane
  /-- `v` registers by 32 × register + lane; unlisted read zero (R34). -/
  regs   : List (Nat × Word)
  aregs  : List (Nat × Form)
  joins  : List Join
  ops    : List Op
  wait0  : Wait
  wait1  : Wait
  /-- The slots that the waiting instructions hold (R112); 0 for none. -/
  waitSlot0 : Nat
  waitSlot1 : Nat
  /-- The waits that a handler entry set aside (R140, R169). -/
  saveWait0 : Wait
  saveWait1 : Wait
  saveSlot0 : Nat
  saveSlot1 : Nat
  sig    : BitVec 512
  monitors : List Monitor
  /-- The next symbol of the hand and how many remain (R227). -/
  handNext : Nat
  handLeft : Nat
  /-- Scale latches SA and SB by 32 × k + lane (with SB above 2^16); unlisted read 0x7F (R256). -/
  scales : List (Nat × Byte)
  handler : Bool
  record : FaultRecord
  /-- Residency in a region: the region's index (R407). -/
  region : Option Nat
  /-- A fault that waits for pending registers before handler entry (R140). -/
  trapWait : Option FaultRecord
  /-- A fault on which the group is parked (R151). -/
  parked : Option FaultRecord
  /-- The last parked fault answered Success, and the consecutive count (R152). -/
  replays : Nat
  lastFault : Option FaultRecord
  /-- A revocation has stopped the group (R409), or waits for its TRAPRET (R26). -/
  redirect : Option Redirect
  /-- The destination and lanes of a CKPT whose checkpoint is still to be taken (R444). -/
  ckpt : Option (Nat × Mask)
  /-- The last issue: 0 half 0, 1 half 1, 2 merged (R161), and when (R431). -/
  lastHalf : Nat
  lastIssue : Nat
  deriving DecidableEq, Repr

/-- A hardware barrier (R119). `form` none: no phase is open; true: the counted form. -/
structure Barrier where
  count    : Nat
  expected : Nat
  form     : Option Bool
  phase    : Bool
  deriving DecidableEq, Repr

/-- A stage-ring slot (R292). -/
structure RingSlot where
  count  : Nat
  /-- The role whose groups the phase expects: that of its first arrival. -/
  role   : Option Nat
  phase  : Bool
  deriving DecidableEq, Repr

/-- Where a team's state is (R429, R435 to R443). -/
inductive Residency where
  | waiting
  | resident
  | waste
  | frozen
  deriving DecidableEq, Repr

/-- A team (R29, R302, R303, R118 to R120, R440). -/
structure Team where
  id      : Nat
  launch  : Nat
  asid    : Nat
  number  : Nat
  spawn   : Bool
  /-- The CU of each logical index. -/
  cus     : List Nat
  /-- Its scratchpad position (R440). -/
  spos    : List Nat
  scratchKib : Nat
  /-- Scratchpad bytes by 2^20 × index + offset; unlisted read zero (R303). -/
  scratch : List (Nat × Byte)
  poison  : List Nat
  tags    : List (BitVec 64)
  barriers : List (Nat × Barrier)
  rings   : List (Nat × RingSlot)
  residency : Residency
  waitStart : Nat
  placedAt  : Nat
  /-- Since when it has been blocked (R432). -/
  blockedAt : Option Nat
  deriving DecidableEq, Repr

/-! ### Launches, queues and contexts -/

/-- A region descriptor (R405). -/
structure Region where
  start   : DWord
  stop    : DWord
  handler : DWord
  cause   : Nat
  idx     : List Nat
  deriving DecidableEq, Repr

/-- A role entry (R51). -/
structure RoleEntry where
  groups : Nat
  regs   : Nat
  deriving DecidableEq, Repr

/-- The fields of a launch record that outlive acceptance (R50). -/
structure Record where
  kernel  : DWord
  teams   : Nat
  teamCus : Nat
  prio    : Nat
  sclass  : Nat
  debug   : Bool
  ckpt    : Bool
  /-- GENERAL, COPY, MATRIX, VECTOR (R32). -/
  roles   : List RoleEntry
  slots   : List (BitVec 64)
  trap    : DWord
  tags    : Nat
  rings   : Nat
  barriers : Nat
  scratchKib : Nat
  spawnTimer : Nat
  affinePool : Nat
  paramSize  : Nat
  pgt     : DWord
  pgtRanks : Nat
  deriving DecidableEq, Repr

/-- A running launch (R50, R58, R321, R405, R427). -/
structure Launch where
  id     : Nat
  asid   : Nat
  queue  : Nat
  entry  : Nat
  done   : DWord
  /-- The graph run it belongs to, 0 where none, its node number and its predecessors (R427). -/
  graph  : Nat
  node   : Nat
  preds  : BitVec 64
  info   : Record
  fwd    : Bool
  param  : List (Nat × Byte)
  regions : List Region
  handles : List (BitVec 64)
  rank   : Nat
  firstTeam : Nat
  share  : Nat
  /-- Teams of the share placed for the first time, and retired. -/
  placed : Nat
  retired : Nat
  /-- The links of its routes (R470) and the pods it reaches over Ethernet. -/
  links  : List Nat
  pods   : List Nat
  accepted : Nat
  started : Bool
  /-- Its groups have all retired and its completion waits for steps 2 and 3 of R426. -/
  complete : Bool
  deriving DecidableEq, Repr

/-- A running graph (R427). -/
structure Graph where
  id     : Nat
  asid   : Nat
  queue  : Nat
  entry  : Nat
  done   : DWord
  header : DWord
  serial : Bool
  count  : Nat
  /-- Nodes that have completed. -/
  ended  : BitVec 64
  deriving DecidableEq, Repr

/-- A spawn bin (R45, R47). -/
structure Bin where
  id      : Nat
  die     : Nat
  asid    : Nat
  launch  : Nat
  entry   : DWord
  /-- The kernel header word that was checked when the bin opened (R45). -/
  word    : Nat
  records : List ThreadRecord
  /-- Ticks left; the timer stands still while the context is switched out (R47). -/
  left    : Nat
  deriving DecidableEq, Repr

/-- A pending spawn group of a die's queue (R46, R49). -/
structure Pending where
  id      : Nat
  die     : Nat
  asid    : Nat
  launch  : Nat
  entry   : DWord
  word    : Nat
  records : List ThreadRecord
  closed  : Nat
  deriving DecidableEq, Repr

/-- A context's state (R442, R448, R466). -/
inductive CtxState where
  | running
  | frozen
  | ending
  deriving DecidableEq, Repr

/-- A registry slot (R396, R397, R398, R414, R416). -/
inductive SlotState where
  | free
  | live
  | broken
  deriving DecidableEq, Repr

/-- One leaf's watched bytes (R400). -/
structure Watch where
  va   : DWord
  ipa  : Nat
  pa   : Nat
  size : Nat
  deriving DecidableEq, Repr

/-- A revocation under way (R409). -/
structure Revocation where
  reason  : Nat
  /-- Dependants to which it has not been delivered, with the position k of the assumption in their region. -/
  toSend  : List (Nat × Nat)
  /-- Dependants delivered to and not acknowledged. -/
  waiting : List (Nat × Nat)
  deriving DecidableEq, Repr

/-- A registry slot. -/
structure Slot where
  gen    : BitVec 32
  issued : BitVec 32
  asid   : Nat
  kind   : Nat
  state  : SlotState
  reason : Nat
  /-- ADDR, LENGTH, VALUE and the cells of the descriptor (R398). -/
  addr   : BitVec 64
  length : BitVec 64
  value  : BitVec 64
  cells  : List (BitVec 64 × BitVec 64)
  shape  : List Nat
  watches : List Watch
  /-- Watch entries that it uses: the leaves its watched bytes touch (R400). -/
  entries : Nat
  revocation : Option Revocation
  /-- ASDROP has been made of it (R403). -/
  dropping : Bool
  /-- A checkpoint keeps the slot reserved to its context (R417). -/
  reserved : Bool
  deriving DecidableEq, Repr

/-- A slot that no use has taken (R397). -/
def Slot.empty : Slot :=
  ⟨0, 0, 0, 0, .free, 0, 0, 0, 0, [], [], [], 0, none, false, false⟩

/-- What is kept of a group that an end has released from a wait or a park, for SUMMARY (R448, R466): team, group, CU,
state, lowest live PC and fault record. -/
structure Stuck where
  team   : Nat
  index  : Nat
  cu     : Nat
  state  : Nat
  pc     : DWord
  record : FaultRecord
  deriving DecidableEq, Repr

/-- A checkpoint (R446): the objects of R439 and the covered pages with their copies on first write. -/
structure Checkpoint where
  clock   : Nat
  groups  : List Group
  teams   : List Team
  launches : List Launch
  graphs  : List Graph
  bins    : List Bin
  pending : List Pending
  slots   : List (Nat × Slot)
  /-- What peers had sent for the collectives that had not landed (R439). -/
  peerData : List PeerData
  covered : List Nat
  /-- Covered pages written since, with their bytes and poison before. -/
  backing : List (Nat × List Byte × List Nat)
  deriving DecidableEq, Repr

/-- A context (R421, R380, R226, R277, R309). -/
structure Context where
  asid    : Nat
  func    : Nat
  pasid   : Nat
  root    : Nat
  prq     : Bool
  hosttab : Bool
  acbase  : Nat
  aclog2  : Nat
  qtable  : DWord
  quota   : Nat
  priv    : Bool
  /-- The Deck (R226): H and A. -/
  deckH   : Nat
  deckA   : Nat
  /-- The object table by index (R277). -/
  objects : List (Nat × BitVec 512)
  bw      : BitVec 32
  state   : CtxState
  /-- The fault that ended the context (R139). -/
  ended   : Option FaultRecord
  /-- Its groups that the end released. -/
  stuck   : List Stuck
  rollbacks : Nat
  checkpoint : Option Checkpoint
  /-- The runs of frames that back its checkpoint and its image, the system's from their reservation on (R445): first frame and
  count. -/
  ckptFrames : List (Nat × Nat)
  ckptReserved : Bool
  /-- A checkpoint has been asked for: by CKPT, by a launch, or by a completion (R444, R446). -/
  ckptWanted : Bool
  /-- Queue entries that a rollback has made pending again: queue and index (R447). -/
  again : List (Nat × Nat)
  /-- Runs of frames reserved to it as backing for its pages and its saved image (R12, R421): first frame and count. -/
  reserved : List (Nat × Nat)
  /-- Second-tier frames to which a freeze has moved pages (R442, R421). -/
  moved : List Nat
  lastProgress : Nat
  frozenAt : Nat
  deriving DecidableEq, Repr

/-! ### The memory engine -/

/-- A cached translation (R386). -/
structure Tlb where
  asid   : Nat
  func   : Nat
  global : Bool
  va     : Nat
  /-- log2 of its size: 12, 16, 21 or 30. -/
  size   : Nat
  ipa    : Nat
  pa     : Nat
  r      : Bool
  w      : Bool
  x      : Bool
  attr   : Nat
  ac     : Bool
  deriving DecidableEq, Repr

/-- A cached non-leaf entry (R386). -/
structure WalkEntry where
  asid  : Nat
  func  : Nat
  level : Nat
  va    : Nat
  table : Nat
  deriving DecidableEq, Repr

/-- A word state in L1 (R367). `sent`: bytes of the word, by a mask, have been stored on a shared page, and the
registration has been sent and not yet accepted (R318, R368); `rest`: the word's other bytes are valid too (R367); `count`:
the access counter that the fill of its line raises (R389). -/
inductive L1State where
  | valid
  | dirty
  | registered
  | sent (bytes : Nat) (rest : Bool) (count : Option Nat)
  deriving DecidableEq, Repr

/-- A word in L1. -/
structure L1Word where
  state : L1State
  value : Word
  deriving DecidableEq, Repr

/-- A line of an instruction cache (R144). -/
structure CodeLine where
  asid  : Nat
  va    : Nat
  frame : Nat
  words : List DWord
  /-- Its words of eight bytes that were poisoned when it was filled (R150). -/
  bad   : List Nat
  used  : Nat
  deriving DecidableEq, Repr

/-- An instruction line in flight (R146, R147). -/
structure Fetching where
  asid  : Nat
  va    : Nat
  pa    : Nat
  /-- The access counter that its fill raises (R389). -/
  count : Option Nat
  prefetched : Bool
  deriving DecidableEq, Repr

/-- A compute unit's own state (R144, R145, R263, R304, R386, R430). -/
structure Cu where
  /-- L1 words by PA / 4. -/
  l1       : List (Nat × L1Word)
  /-- The lines of L1, the one used last first (R301). -/
  recent   : List Nat
  lines    : List CodeLine
  fetching : List Fetching
  itlb     : List Tlb
  dtlb     : List Tlb
  ctlb     : List Tlb
  /-- Codebooks read: launch, slot and words (R178). -/
  books    : List (Nat × Nat × List Word)
  /-- The matrix engine's queue: group and operation, in arrival order (R263). -/
  matrixQueue : List (Nat × Nat)
  /-- SRAM blocks in use as scratchpad (R304); the others are L1 ways. -/
  scratchBlocks : Nat
  hot      : Bool
  /-- Times of the last droop events and the end of a bar (R430). -/
  droops   : List Nat
  barUntil : Nat
  lastIssue : Nat
  /-- The quadrant that each shared engine served last, by its pipe (R431). -/
  served : List (Nat × Nat)
  /-- The group whose clause holds an engine (R63): by 8 × quadrant + engine class, and group. -/
  clauses : List (Nat × Nat)
  deriving DecidableEq, Repr

/-- An empty CU. -/
def Cu.empty : Cu := ⟨[], [], [], [], [], [], [], [], [], 0, false, [], 0, 0, [], []⟩

/-- A die's own state (R386). -/
structure Die where
  tlb   : List Tlb
  walks : List WalkEntry
  deriving DecidableEq, Repr

/-- A trump entry (R372), with its place in the order of arrival. -/
structure Trump where
  active    : Bool
  write     : Bool
  requester : Holder
  line      : Nat
  deriving DecidableEq, Repr

/-- Failed attempts of a request (R370). -/
structure Attempt where
  who   : Holder
  line  : Nat
  write : Bool
  count : Nat
  first : Nat
  /-- The access counter that a fill which it gathers raises (R389). -/
  counter : Option Nat
  deriving DecidableEq, Repr

/-- A line's holders (R364, R368, R369). Data that no cache holds modified is the byte memory's. -/
structure Line where
  home  : Nat
  die0  : Nat
  die1  : Nat
  die2  : Nat
  die3  : Nat
  host  : Nat
  link  : Nat
  owner : Holder
  /-- Dirty words of the line, at the owner token's holder, by word number. -/
  dirty : List (Nat × Word)
  /-- Registrations: word number to package CU. -/
  regs  : List (Nat × Nat)
  /-- CUs whose L1 may hold words of the line. -/
  presence : List Nat
  /-- A BISnpInv awaits its BIRsp; a die's D2H request, for a write or not, awaits its completion (R374), with the access
  counter that its fill raises. -/
  snooped : Bool
  asked   : List (Nat × Bool × Option Nat)
  deriving DecidableEq, Repr

/-- A line right after reset (R369). -/
def Line.reset : Line := ⟨32, 0, 0, 0, 0, 0, 0, .home, [], [], [], false, []⟩

/-- A page's class (R365). -/
inductive PageClass where
  | untouched
  | priv (cu : Nat)
  /-- The owner's dirty words have still to be written (R366). -/
  | transit (cu : Nat)
  | shared
  deriving DecidableEq, Repr

/-- A frame's state (R457). -/
inductive FrameState where
  | freeDirty
  | zeroing
  | clean
  | owned (owner : Nat)
  deriving DecidableEq, Repr

/-- Who wrote a held write (R401, R402). -/
inductive Writer where
  | group (g op lane : Nat)
  | host
  | peer
  /-- The scheduler, for DONE (R426). -/
  | scheduler
  deriving DecidableEq, Repr

/-- A write in a hold buffer (R402). -/
structure Held where
  id     : Nat
  writer : Writer
  place  : Nat
  op     : AccessOp
  /-- Later lanes of the same atomic instruction at the same place, applied with it, one after another (R323). -/
  more   : List (Nat × AccessOp)
  noL1   : Bool
  /-- Bytes of it that poison their words (R289). -/
  bad    : List Nat
  evaluated : Bool
  /-- The revocations it started or joined. -/
  slots  : List Nat
  /-- The 8-byte units of memory in which the end of its writer's context has dropped it (R448). -/
  lost   : List Nat
  deriving DecidableEq, Repr

/-- A page request (R150 to R152). -/
structure PageRequest where
  id    : Nat
  asid  : Nat
  func  : Nat
  /-- The PASID of its context (R454). -/
  pasid : Nat
  va    : Nat
  write : Bool
  fetch : Bool
  sent  : Bool
  groups : List Nat
  deriving DecidableEq, Repr

/-- A shaped context's bucket at an L2 slice port, in 1,024ths of a token (R310). -/
structure Bucket where
  port : Nat
  asid : Nat
  tokens : Nat
  /-- Tokens of the context in the port's idle pool. -/
  pool : Nat
  /-- When the context last borrowed at the port. -/
  borrowed : Nat
  /-- What it has added to the pool in each of the last fabric cycles, newest first (R310). -/
  lent : List Nat
  deriving DecidableEq, Repr

/-- A request waiting at a port (R311), or one that a port has admitted. -/
structure PortRequest where
  port : Nat
  asid : Nat
  /-- A token-free kind (R310). -/
  free : Bool
  /-- The group and operation whose access it is; none where an agent outside the groups sent it. -/
  work : Option (Nat × Nat)
  deriving DecidableEq, Repr

/-! ### Host, fabric and management -/

/-- The data of a read from outside the part (R364, R374): its bytes, and which of its words are poisoned, as CXL says it of a
poisoned word (R308). -/
structure ReadData where
  who    : Holder
  pa     : Nat
  bytes  : List Byte
  poison : List Nat
  deriving DecidableEq, Repr

/-- An image cache entry (R153). -/
structure Image where
  digest : BitVec 256
  length : Nat
  base   : Nat
  mask   : BitVec 64
  deriving DecidableEq, Repr

/-- A mailbox and summary port of a function (R463, R465). -/
structure Mailbox where
  cmd  : Nat
  oper : List (BitVec 64)
  res  : List (BitVec 64)
  sumAddr : BitVec 64
  sumLen  : BitVec 64
  sumRes  : BitVec 64
  deriving DecidableEq, Repr

/-- A mailbox after reset: DONE is 1, status 0 (R463, R465). -/
def Mailbox.reset : Mailbox :=
  ⟨0, List.replicate 8 0, 0x8000000000000000#64 :: List.replicate 7 0, 0, 0, 0x8000000000000000#64⟩

/-- A partition (R451). -/
structure Partition where
  clusters : BitVec 32
  memports : BitVec 24
  deriving DecidableEq, Repr

/-- A function (R454, R385, R150, R151). -/
structure Func where
  bound  : Option Nat
  s2root : Nat
  alloc  : Nat
  failed : Bool
  deriving DecidableEq, Repr

/-- A Huader link (R470). -/
structure Link where
  up      : Bool
  pod     : Nat
  pos     : Nat
  retrain : Nat
  retries : Nat
  deriving DecidableEq, Repr

/-- A packet outstanding to a peer on an Ethernet port (R471). -/
structure Packet where
  peer : Nat
  port : Nat
  seq  : Nat
  sent : Nat
  first : Nat
  /-- The context whose collective sent it. -/
  asid : Nat
  deriving DecidableEq, Repr

/-- What something outside the part presents with an event: MODEL'S OWN. -/
structure Input where
  fn     : Nat
  offset : Nat
  value  : BitVec 64
  nums   : List Nat
  bytes  : List Byte
  deriving DecidableEq, Repr

/-- No input. -/
def Input.none : Input := ⟨0, 0, 0, [], []⟩

/-- The issue that the step has selected: MODEL'S OWN. -/
structure Cur where
  group   : Nat
  lanes   : Mask
  addr    : DWord
  hdr     : DWord
  hdrWord : DWord
  word    : DWord
  deriving DecidableEq, Repr

/-- What is fused, strapped or fitted (R20, R27, R461, R462, R469). -/
structure Fitting where
  x4l     : Bool
  serial  : BitVec 32
  t2P     : Nat
  t2K     : Nat
  expGib  : List Nat
  portCfg : BitVec 4
  deriving DecidableEq, Repr

/-- The management registers (R461). -/
structure Regs where
  coarse    : Bool
  ilvSet    : Bool
  podId     : BitVec 24
  podSet    : Bool
  biasBase  : BitVec 64
  biasSet   : Bool
  netBase   : BitVec 64
  netSet    : Bool
  frameBase : BitVec 64
  log2n     : Nat
  hangMs    : Nat
  limitW    : Nat
  avgW      : Nat
  clockMhz  : Nat
  capped    : Bool
  ready     : Bool
  cause     : Nat
  ctxEver   : Bool
  deriving DecidableEq, Repr

/-- A freeze under way (R442). -/
structure FreezeRun where
  fn   : Nat
  pod  : Bool
  asids : List Nat
  /-- 1 stopping, 2 stopped and reported, 3 complete. -/
  phase : Nat
  reported : BitVec 256
  deriving DecidableEq, Repr

/-- An event with what comes with it. -/
structure Event where
  event : Instr
  input : Input
  deriving DecidableEq, Repr

/-- The package. -/
structure State where
  clock    : BitVec 64
  mem      : Memory
  /-- Poisoned words by PA / 4 (R307). -/
  poison   : List Nat
  lines    : List (Nat × Line)
  classes  : List (Nat × PageClass)
  /-- Frame entries that differ from what reset and the zero engine leave (R457, R467). -/
  frames   : List (Nat × Option FrameState)
  trumps   : List Trump
  /-- Trump requests that found their table full, in the order of their arrival (R372). -/
  trumpQueue : List Trump
  attempts : List Attempt
  images   : List (Option Image)
  errors   : List (Nat × Nat)
  powered  : Bool
  fitting  : Fitting
  regs     : Regs
  links    : List Link
  mail     : List (Nat × Mailbox)
  msix     : List (Nat × Nat)
  parts    : List Partition
  loans    : List (Nat × Nat)
  funcs    : List (Nat × Func)
  pageReqs : List PageRequest
  buckets  : List Bucket
  ports    : List PortRequest
  /-- Requests that a port has admitted and whose access is still to be made (R311). -/
  grants   : List PortRequest
  /-- Additions to access counters, by their addresses, that are still to be performed (R389). -/
  counts   : List Nat
  contexts : List Context
  launches : List Launch
  graphs   : List Graph
  teams    : List Team
  groups   : List Group
  bins     : List Bin
  pending  : List Pending
  cus      : List (Nat × Cu)
  dies     : List (Nat × Die)
  slots    : List (Nat × Slot)
  held     : List Held
  peerData : List PeerData
  packets  : List Packet
  ecn      : List Nat
  freeze   : Option FreezeRun
  nextId   : Nat
  /-- MODEL'S OWN: what comes from outside, step by step (DESIGN CHOICE, log 2), the input of the event at hand, the
selected issue, free
  values drawn. -/
  agenda   : List Event
  /-- Accesses of the host, of peers and of agents that wait to be performed (R372, R375, R402), in the order of their
  arrival. -/
  waiting  : List Event
  /-- What the last read of the host or of a peer has returned. -/
  returned : Option ReadData
  input    : Input
  cur      : Option Cur
  draws    : Nat
  deriving DecidableEq, Repr

/-- A function that is bound to nothing (R451, DESIGN CHOICE, log 4). -/
def Func.unbound : Func := ⟨none, 0, 512, false⟩

/-- The fitting that the model names (DESIGN CHOICE, log 4). -/
def Fitting.named : Fitting := ⟨false, 0, 16, 64, [0, 0, 0, 0], 0⟩

/-- The management registers after a power-on reset (R461, R467, R468; DESIGN CHOICE, log 4). -/
def Regs.reset : Regs :=
  ⟨false, false, 0, false, 0, false, 0, false, 0x3E00000000, 16, 10000, 3000, 0, 700, false, true, 0, false⟩

/-- A link after reset (R470). -/
def Link.reset : Link := ⟨false, 0, 0, 0, 0⟩

/-- A partition without ports. -/
def Partition.none : Partition := ⟨0, 0⟩

/-- A package of a fitting right after step 4 of a power-on reset (R467): READY has just become 1. -/
def State.resetOf (fit : Fitting) : State where
  clock := 0
  mem := []
  poison := []
  lines := []
  classes := []
  frames := []
  trumps := []
  trumpQueue := []
  attempts := []
  images := []
  errors := []
  powered := true
  fitting := fit
  regs := Regs.reset
  links := List.replicate 18 Link.reset
  mail := []
  msix := []
  parts := ⟨0xFFFFFFFF, 0xFFFFFF⟩ :: List.replicate 7 Partition.none
  loans := []
  funcs := [(0, ⟨some 0, 0, 512, false⟩)]
  pageReqs := []
  buckets := []
  ports := []
  grants := []
  counts := []
  contexts := []
  launches := []
  graphs := []
  teams := []
  groups := []
  bins := []
  pending := []
  cus := []
  dies := []
  slots := []
  held := []
  peerData := []
  packets := []
  ecn := []
  freeze := none
  nextId := 1
  agenda := []
  waiting := []
  returned := none
  input := Input.none
  cur := none
  draws := 0

/-- The package after reset. -/
def State.reset : State := State.resetOf Fitting.named

end Sys2Proof.Machine
end

