-- ==== Sys2Proof/Machine/Ops.lean ====
section
/-!
DEFINITION. The named operations over the state: masks, lanes, registers, the records of the state by number, bytes of
memory, error counts, and the write signature.
-/
namespace Sys2Proof.Machine

/-! ### Masks and lists -/

/-- The mask of the lanes that satisfy a test. -/
def maskOf (p : Nat → Bool) : Mask :=
  (List.range 32).foldl (fun m i => if p i then m ||| (1#32 <<< i) else m) 0#32

/-- The lanes of a mask, ascending. -/
def lanesOf (m : Mask) : List Nat := (List.range 32).filter fun i => m.has i

/-- The lanes of half `h` (R160). -/
def halfMask (h : Nat) : Mask := if h = 0 then 0x0000FFFF#32 else 0xFFFF0000#32

/-- The lowest lane of a mask. -/
def lowest (m : Mask) : Option Nat := (lanesOf m).head?

/-- Adding a number to a list that holds no number twice. -/
def insertNew (x : Nat) (l : List Nat) : List Nat := if l.contains x then l else l ++ [x]

/-- Adding the numbers of a list. -/
def insertAll (l xs : List Nat) : List Nat := xs.foldl (fun l x => insertNew x l) l

/-- `f` applied over a list, each time to the state the last left. -/
def foldState {α : Type} (l : List α) (f : State → α → State) (s : State) : State := l.foldl f s

/-! ### Lanes and registers -/

/-- The low `n` bits of a word as a number. -/
def fieldOf' {w : Nat} (x : BitVec w) (n : Nat) : Nat := x.toNat % 2 ^ n

/-- A lane that has exited (R36). -/
def Lane.exited (l : Lane) : Bool := l.pc == exitedPc

/-- A position that must hold a clause header: R65. -/
def Pos.fall (pc : DWord) : Pos := ⟨pc, 0, 0, .fall⟩
/-- The position of a control transfer's target: R64. -/
def Pos.target (pc src : DWord) : Pos := ⟨pc, 0, 0, .transfer src⟩
/-- The position of a handler's first word: R65, R140. -/
def Pos.entry (pc : DWord) : Pos := ⟨pc, 0, 0, .entry⟩

/-- The number of instructions of a clause, less one (R60). -/
def Pos.count (p : Pos) : Nat := fieldOf' p.word 4
/-- The position after an instruction: the next word of the clause, or the word after the clause (R38, R65); behind a header
that has still to be read, the next word. -/
def Pos.next (p : Pos) : Pos :=
  if p.arrival == .past || (p.arrival == .inClause && p.pc.toNat + 8 ≤ p.hdr.toNat + 8 * (p.count + 1)) then
    { p with pc := p.pc + 8 }
  else Pos.fall (p.pc + 8)

/-- The position past a word that faulted (R141): behind a header that could not be read, its clause's first instruction,
which that header holds (R62). -/
def Pos.skip (p : Pos) : Pos :=
  if p.arrival == .inClause || p.arrival == .past then p.next else ⟨p.pc + 8, p.pc, 0, .past⟩

/-- A lane that started exited. -/
def Lane.gone : Lane := ⟨Pos.fall exitedPc, .running, Pos.fall 0, false, false⟩

/-- A lane that starts at a PC that must hold a clause header (R48, R65). -/
def Lane.start (pc : DWord) : Lane := ⟨Pos.fall pc, .running, Pos.fall 0, false, false⟩

/-- A lane that has executed EXIT (R36). -/
def Lane.exit (l : Lane) : Lane := { l with pos := Pos.fall exitedPc, park := .running }

/-- A lane of a group. -/
def Group.lane (g : Group) (i : Nat) : Lane := g.lanes.getD i Lane.gone

/-- Changing a lane. -/
def Group.modLane (g : Group) (i : Nat) (f : Lane → Lane) : Group :=
  { g with lanes := g.lanes.set i (f (g.lane i)) }

/-- Changing every lane of a mask. -/
def Group.modLanes (g : Group) (m : Mask) (f : Lane → Lane) : Group :=
  { g with lanes := (List.range 32).map fun i => if m.has i then f (g.lane i) else g.lane i }

/-- The lanes that have not exited. -/
def Group.live (g : Group) : Mask := maskOf fun i => !(g.lane i).exited

/-- The lanes that are neither parked nor exited (R37). -/
def Group.active (g : Group) : Mask := maskOf fun i => !(g.lane i).exited && (g.lane i).park == .running

/-- The lowest PC of the lanes of a mask. -/
def Group.minPc (g : Group) (m : Mask) : Option DWord :=
  (lanesOf m).foldl (fun a i =>
    let p := (g.lane i).pc
    match a with
    | none => some p
    | some q => if p.toNat < q.toNat then some p else some q) none

/-- The key of register `r` of lane `i`. -/
def regKey (r i : Nat) : Nat := 32 * r + i

/-- Reading `v`r of a lane; `v255` reads zero (R67). -/
def Group.reg (g : Group) (r i : Nat) : Word := if r = 255 then 0#32 else sget 0#32 g.regs (regKey r i)

/-- Writing `v`r of a lane; a write of `v255` is discarded (R67). -/
def Group.setReg (g : Group) (r i : Nat) (x : Word) : Group :=
  if r = 255 then g else { g with regs := sset 0#32 g.regs (regKey r i) x }

/-- A 64-bit operand, lowest register least significant (R67). -/
def Group.reg64 (g : Group) (r i : Nat) : DWord := g.reg (r + 1) i ++ g.reg r i

/-- Writing a 64-bit operand. -/
def Group.setReg64 (g : Group) (r i : Nat) (x : DWord) : Group :=
  (g.setReg r i (x.extractLsb' 0 32)).setReg (r + 1) i (x.extractLsb' 32 32)

/-- Operations among `ops` for which registers, as keys, are pending have them overwritten by a later instruction
(R74). -/
def overwritten (keys : List Nat) (ops : List Op) : List Op :=
  ops.map fun o =>
    { o with shadow := o.shadow ++ keys.filter fun k =>
        o.dsts.contains (k / 32) && o.pend.has (k % 32) && !o.shadow.contains k }

/-- Registers are read that later instructions have overwritten: they keep what is read, and the results of the
operations for which they are pending will not reach them (R74). -/
def readAgain (keys : List Nat) (ops : List Op) : List Op :=
  ops.map fun o => { o with fixed := o.fixed ++ keys.filter fun k => o.shadow.contains k && !o.fixed.contains k }

/-- Writing results. -/
def Group.writeRegs (g : Group) (ws : List RegWrite) : Group :=
  ws.foldl (fun g w => g.setReg w.reg w.lane w.value) g

/-- Reading an affine register of a lane. -/
def Group.areg (g : Group) (r i : Nat) : Form := sget Form.empty g.aregs (regKey r i)

/-- Writing an affine register of a lane. -/
def Group.setAreg (g : Group) (r i : Nat) (x : Form) : Group :=
  { g with aregs := sset Form.empty g.aregs (regKey r i) x }

/-- Writing affine results. -/
def Group.writeForms (g : Group) (ws : List FormWrite) : Group :=
  ws.foldl (fun g w => g.setAreg w.reg w.lane w.value) g

/-- A join register. -/
def Group.join (g : Group) (j : Nat) : Join := g.joins.getD j ⟨0, 0⟩

/-- Setting a join register. -/
def Group.setJoin (g : Group) (j : Nat) (x : Join) : Group := { g with joins := g.joins.set j x }

/-- The wait of a half; outside forerunner mode the group's wait is half 0's. -/
def Group.wait (g : Group) (h : Nat) : Wait := if h = 0 then g.wait0 else g.wait1

/-- The slot that a half's waiting instruction holds (R112). -/
def Group.waitSlot (g : Group) (h : Nat) : Nat := if h = 0 then g.waitSlot0 else g.waitSlot1

/-- Setting the wait of a half, and the slot that the waiting instruction holds. -/
def Group.setWait (g : Group) (h : Nat) (w : Wait) (slot : Nat := 0) : Group :=
  if h = 0 then { g with wait0 := w, waitSlot0 := slot } else { g with wait1 := w, waitSlot1 := slot }

/-- The issues for which a list of operations counts (R162). -/
def issuesOf (ops : List Op) : Nat := (ops.map Op.weight).sum

/-- Outstanding operations of a counter class (R22). -/
def Group.counter (g : Group) (cls : Nat) : Nat := issuesOf (g.ops.filter fun o => o.cls == some cls)

/-- Instructions that hold a slot (R77). -/
def Group.slotCount (g : Group) (sb : Nat) : Nat := issuesOf (g.ops.filter fun o => o.slot == sb && !o.done)

/-- A slot is complete (R77, R79). -/
def Group.slotDone (g : Group) (sb : Nat) : Bool := g.ops.all fun o => o.slot != sb || o.done

/-- Every slot of a mask is complete, as a wait of a half sees it; bit s − 1 names `sb`s. A wait of the other half holds
its slot (R112, R162). The waiting instruction's own slot does not keep it (DESIGN CHOICE, log 51): it would wait for
itself. -/
def Group.slotsDone (g : Group) (half mask : Nat) : Bool :=
  (List.range 7).all fun k => !mask.testBit k || (g.slotDone (k + 1) && !(g.fwd && g.waitSlot (1 - half) == k + 1))

/-- Every slot is complete and every counter is zero (R59). -/
def Group.drained (g : Group) : Bool := g.ops.isEmpty

/-- No register of the group is pending (R75). -/
def Group.noPending (g : Group) : Bool := g.ops.all fun o => o.dsts.isEmpty || o.pend == 0

/-- A group with nothing in it but its place (R34). -/
def Group.fresh (id team index role nregs : Nat) (fwd : Bool) (cu quad : Nat) (lanes : List Lane) : Group where
  id := id
  team := team
  index := index
  role := role
  nregs := nregs
  fwd := fwd
  cu := cu
  quad := quad
  lanes := lanes
  regs := []
  aregs := []
  joins := List.replicate 16 ⟨0, 0⟩
  ops := []
  wait0 := .none
  wait1 := .none
  waitSlot0 := 0
  waitSlot1 := 0
  saveWait0 := .none
  saveWait1 := .none
  saveSlot0 := 0
  saveSlot1 := 0
  sig := 0
  monitors := List.replicate 4 ⟨false, false, false, 0, 0, 0⟩
  handNext := 0
  handLeft := 0
  scales := []
  handler := false
  record := ⟨0, 0, 0, 0, 0⟩
  region := none
  trapWait := none
  parked := none
  replays := 0
  lastFault := none
  redirect := none
  ckpt := none
  lastHalf := 2
  lastIssue := 0

/-! ### The records of the state -/

/-- A group by number. -/
def State.group? (s : State) (id : Nat) : Option Group := findId Group.id s.groups id
/-- Changing a group. -/
def State.modGroup (s : State) (id : Nat) (f : Group → Group) : State :=
  { s with groups := updId Group.id f s.groups id }
/-- Putting a changed group back. -/
def State.putGroup (s : State) (g : Group) : State := s.modGroup g.id fun _ => g
/-- A team by number. -/
def State.team? (s : State) (id : Nat) : Option Team := findId Team.id s.teams id
/-- Changing a team. -/
def State.modTeam (s : State) (id : Nat) (f : Team → Team) : State :=
  { s with teams := updId Team.id f s.teams id }
/-- A launch by number. -/
def State.launch? (s : State) (id : Nat) : Option Launch := findId Launch.id s.launches id
/-- Changing a launch. -/
def State.modLaunch (s : State) (id : Nat) (f : Launch → Launch) : State :=
  { s with launches := updId Launch.id f s.launches id }
/-- A context by ASID. -/
def State.context? (s : State) (asid : Nat) : Option Context := findId Context.asid s.contexts asid
/-- Changing a context. -/
def State.modContext (s : State) (asid : Nat) (f : Context → Context) : State :=
  { s with contexts := updId Context.asid f s.contexts asid }
/-- A CU by package number. -/
def State.cu (s : State) (c : Nat) : Cu := sget Cu.empty s.cus c
/-- Changing a CU. -/
def State.modCu (s : State) (c : Nat) (f : Cu → Cu) : State := { s with cus := supd Cu.empty s.cus c f }
/-- A die's walker complex. -/
def State.die (s : State) (d : Nat) : Die := sget ⟨[], []⟩ s.dies d
/-- Changing a die. -/
def State.modDie (s : State) (d : Nat) (f : Die → Die) : State := { s with dies := supd ⟨[], []⟩ s.dies d f }
/-- A registry slot. -/
def State.slot (s : State) (k : Nat) : Slot := sget Slot.empty s.slots k
/-- Changing a registry slot. -/
def State.modSlot (s : State) (k : Nat) (f : Slot → Slot) : State := { s with slots := supd Slot.empty s.slots k f }
/-- A line by PA / 128. -/
def State.line (s : State) (l : Nat) : Line := sget Line.reset s.lines l
/-- Changing a line. -/
def State.modLine (s : State) (l : Nat) (f : Line → Line) : State := { s with lines := supd Line.reset s.lines l f }
/-- A function. -/
def State.func (s : State) (v : Nat) : Func := sget Func.unbound s.funcs v
/-- Changing a function. -/
def State.modFunc (s : State) (v : Nat) (f : Func → Func) : State := { s with funcs := supd Func.unbound s.funcs v f }
/-- A function's mailbox; 64 is the physical function. -/
def State.mailbox (s : State) (v : Nat) : Mailbox := sget Mailbox.reset s.mail v
/-- Changing a mailbox. -/
def State.modMailbox (s : State) (v : Nat) (f : Mailbox → Mailbox) : State :=
  { s with mail := supd Mailbox.reset s.mail v f }
/-- Counting an event by its identifier (R466). -/
def State.countError (s : State) (id : Nat) : State := { s with errors := supd 0 s.errors id (· + 1) }
/-- The time in ticks (R2). -/
def State.now (s : State) : Nat := s.clock.toNat
/-- A new number. -/
def State.fresh (s : State) : Nat × State := (s.nextId, { s with nextId := s.nextId + 1 })

/-- The launch of a team. -/
def State.launchOfTeam? (s : State) (t : Nat) : Option Launch := (s.team? t).bind fun t => s.launch? t.launch
/-- The launch of a group. -/
def State.launchOf? (s : State) (g : Group) : Option Launch := s.launchOfTeam? g.team
/-- The ASID of a group's context. -/
def State.asidOf (s : State) (g : Group) : Nat := ((s.team? g.team).map Team.asid).getD 0
/-- The context of a group. -/
def State.contextOf? (s : State) (g : Group) : Option Context := s.context? (s.asidOf g)
/-- A team is on its CUs (R30). -/
def State.resident (s : State) (t : Nat) : Bool := ((s.team? t).map fun t => t.residency == .resident).getD false
/-- The logical CU index of a group (R440). -/
def Team.cuIndex (t : Team) (g : Group) : Nat := if t.cus.isEmpty then 0 else g.index % t.cus.length

/-! ### The address map (R15, R19, R20) -/

/-- The capacity of the on-package second tier in bytes (R20). -/
def State.t2Bytes (s : State) : Nat := s.fitting.t2P * s.fitting.t2K * 2 ^ 30

/-- First tier (R19). -/
def inT1 (pa : Nat) : Bool := pa < 2 ^ 38
/-- On-package second tier, populated (R20). -/
def State.inT2 (s : State) (pa : Nat) : Bool :=
  2 ^ 44 ≤ pa && pa < 2 ^ 45 &&
    (if s.regs.coarse then
      (pa - 2 ^ 44) / 2 ^ 40 < s.fitting.t2P && pa % 2 ^ 40 < s.fitting.t2K * 2 ^ 30
    else pa - 2 ^ 44 < s.t2Bytes)
/-- The expander of an address. -/
def expanderOf (pa : Nat) : Nat := (pa - 2 ^ 45) / 2 ^ 42
/-- CXL memory expanders, populated (R19). -/
def State.inExp (s : State) (pa : Nat) : Bool :=
  2 ^ 45 ≤ pa && pa < 2 ^ 45 + 2 ^ 44 && pa % 2 ^ 42 < s.fitting.expGib.getD (expanderOf pa) 0 * 2 ^ 30
/-- Host memory (R19). -/
def inHost (pa : Nat) : Bool := 2 ^ 48 ≤ pa && pa < 2 ^ 52
/-- The populated part of a peer window (R19): what stands there is bytes of the model's own memory (DESIGN CHOICE, log 17). -/
def inPeer (pa : Nat) : Bool := 2 ^ 52 ≤ pa && pa < 2 ^ 53 && pa % 2 ^ 44 < 2 ^ 38
/-- The position in the pod of a peer window's module (R19). -/
def peerPos (pa : Nat) : Nat := pa / 2 ^ 44 % 256
/-- Memory homed on this module's own devices. -/
def State.inDevice (s : State) (pa : Nat) : Bool := inT1 pa || s.inT2 pa || s.inExp pa
/-- A populated address (R19). -/
def State.populated (s : State) (pa : Nat) : Bool := s.inDevice pa || inHost pa || inPeer pa

/-- The home die of a first-tier address (R20). -/
def State.homeDie (s : State) (pa : Nat) : Nat :=
  if s.regs.coarse then pa / 2 ^ 36 % 4 else pa / 2 ^ 12 % 4
/-- The channel of a second-tier address (R20). -/
def State.channelOf (s : State) (pa : Nat) : Nat :=
  if s.regs.coarse then pa / 2 ^ 40 % 16 else pa / 2 ^ 12 % 16 % s.fitting.t2P
/-- The memory-side port that homes an address, where one does (R15, R453). -/
def State.memPort (s : State) (pa : Nat) : Option Nat :=
  if inT1 pa then some (s.homeDie pa)
  else if s.inT2 pa then some (4 + s.channelOf pa)
  else if s.inExp pa then some (20 + expanderOf pa)
  else none

/-- The die of a CU, and its cluster port (R14, R15). -/
def dieOfCu (c : Nat) : Nat := c / 64
def portOfCu (c : Nat) : Nat := c / 8

/-! ### Frame entries (R457) -/

/-- Frames that have an entry: those of the first tier, of the second tier and of the expanders (R457). -/
def State.frameCount' (s : State) : Nat := 2 ^ 26 + s.t2Bytes / 4096 + s.fitting.expGib.sum * 2 ^ 18
/-- The frame-entry table holds an address (R457): it takes two bytes for each frame, from FRAME_BASE on. -/
def State.inTable (s : State) (pa : Nat) : Bool :=
  s.regs.frameBase.toNat ≤ pa && pa < s.regs.frameBase.toNat + 2 * s.frameCount'
/-- The frame-entry table's own frames. -/
def State.inFrameTable (s : State) (f : Nat) : Bool :=
  s.regs.frameBase.toNat / 4096 ≤ f && f < s.regs.frameBase.toNat / 4096 + (2 * s.frameCount' + 4095) / 4096
/-- A frame's entry by PA / 4096 (R457, R467): after reset the table's own frames are the system's, the first tier is
CLEAN, and the frames of the other tiers are FREE-DIRTY until the zero engine reaches them. -/
def State.frame (s : State) (f : Nat) : FrameState :=
  match sget none s.frames f with
  | some x => x
  | none =>
    if s.inFrameTable f then .owned 64
    else if inT1 (4096 * f) then .clean
    else .freeDirty
/-- Setting a frame's entry. -/
def State.setFrame (s : State) (f : Nat) (x : FrameState) : State := { s with frames := sset none s.frames f (some x) }
/-- The expander frame of a place in the table: expanders one after another. -/
def expFrame (i : Nat) : List Nat → Nat → Nat
  | [], e => 2 ^ 33 + 2 ^ 30 * e + i
  | g :: gs, e => if i < g * 2 ^ 18 then 2 ^ 33 + 2 ^ 30 * e + i else expFrame (i - g * 2 ^ 18) gs (e + 1)
/-- The frame whose entry stands at a place of the table: first tier, second tier, expanders, each in order of address
(DESIGN CHOICE, log 4: the spec does not lay the table out). -/
def State.frameAt (s : State) (i : Nat) : Nat :=
  let t2 := s.t2Bytes / 4096
  let k := s.fitting.t2K * 2 ^ 18
  let j := i - 2 ^ 26
  if i < 2 ^ 26 then i
  else if j < t2 then (if s.regs.coarse then 2 ^ 32 + j / k * 2 ^ 28 + j % k else 2 ^ 32 + j)
  else expFrame (j - t2) s.fitting.expGib 0
/-- A frame entry's bits (R457). -/
def FrameState.bits : FrameState → BitVec 16
  | .freeDirty => 0x000#16
  | .zeroing => 0x100#16
  | .clean => 0x200#16
  | .owned k => 0x300#16 ||| BitVec.ofNat 16 (k % 256)
/-- A word of the frame-entry table: the entries of two frames. -/
def State.tableWord (s : State) (w : Nat) : Word :=
  let i := (4 * w - s.regs.frameBase.toNat) / 2
  (s.frame (s.frameAt (i + 1))).bits ++ (s.frame (s.frameAt i)).bits

/-! ### Bytes -/

/-- A byte of memory at its home. -/
def State.byte (s : State) (pa : Nat) : Byte := sget (0#8) s.mem pa
/-- Writing a byte of memory at its home. -/
def State.setByte (s : State) (pa : Nat) (b : Byte) : State := { s with mem := sset (0#8) s.mem pa b }

/-- The little-endian number of a list of bytes (R1). -/
def natOfBytes : List Byte → Nat
  | [] => 0
  | b :: bs => b.toNat + 256 * natOfBytes bs

/-- The `n` low bytes of a number, least significant first (R1). -/
def bytesOfNat : Nat → Nat → List Byte
  | 0, _ => []
  | n + 1, x => BitVec.ofNat 8 x :: bytesOfNat n (x / 256)

/-- Bytes of memory at their home. -/
def State.bytes (s : State) (pa n : Nat) : List Byte := (List.range n).map fun k => s.byte (pa + k)
/-- Writing bytes of memory at their home. -/
def State.setBytes (s : State) (pa : Nat) : List Byte → State
  | [] => s
  | b :: bs => (s.setByte pa b).setBytes (pa + 1) bs
/-- A word of memory at its home, by PA / 4: the frame-entry table reads as the frames' entries (R457). -/
def State.homeWord (s : State) (w : Nat) : Word :=
  if s.inTable (4 * w) then s.tableWord w else BitVec.ofNat 32 (natOfBytes (s.bytes (4 * w) 4))
/-- Writing a word of memory at its home: the frame-entry table is read only (R457). -/
def State.setHomeWord (s : State) (w : Nat) (x : Word) : State :=
  if s.inTable (4 * w) then s else s.setBytes (4 * w) (bytesOfNat 4 x.toNat)
/-- A word is poisoned (R307). -/
def State.poisoned (s : State) (w : Nat) : Bool := s.poison.contains w
/-- Poisoning a word. -/
def State.poisonWord (s : State) (w : Nat) : State := { s with poison := insertNew w s.poison }
/-- Clearing a word's poison (DEDUCED, log 40). -/
def State.cureWord (s : State) (w : Nat) : State := { s with poison := s.poison.filter (· != w) }

/-- Clearing a word's poison where a test holds. -/
def State.cureIf (s : State) (w : Nat) (b : Bool) : State := if b then s.cureWord w else s

/-- A field of a wide bit vector read from bytes: bits `hi:lo`. -/
def fieldOf {w : Nat} (x : BitVec w) (lo n : Nat) : Nat := (x.toNat >>> lo) % 2 ^ n

/-! ### Capability and identity (R27, R462) -/

/-- DEV_CAP (R27). -/
def State.devCap (s : State) : BitVec 64 :=
  if s.fitting.x4l then 0x0000000008440100#64 else 0x0000000012440103#64
/-- The number of Huader links present. -/
def State.linkCount (s : State) : Nat := fieldOf s.devCap 24 8
/-- The links that are up (R470). -/
def State.linksUp (s : State) : List Nat := (List.range s.linkCount).filter fun k => (s.links.getD k Link.reset).up
/-- The link that is up to a position of this module's pod (R470). -/
def State.directLink? (s : State) (pos : Nat) : Option Nat :=
  s.linksUp.find? fun k =>
    let l := s.links.getD k Link.reset
    l.pod == fieldOf s.regs.podId 0 16 && l.pos == pos
/-- The route to a rank of the same pod: the direct link where one is up, else the link that starts the shortest path;
none where no link is up (R470, DESIGN CHOICE, log 30). -/
def State.linkTo (s : State) (pos : Nat) : Option Nat :=
  match s.directLink? pos with
  | some k => some k
  | none => s.linksUp[Config.pathLink s.draws % s.linksUp.length]?

/-- A position of the pod holds a module that can be reached: over a direct link that is up, or over other modules, where
whether there is one is a free value (R19, R470) (DESIGN CHOICE, log 30). -/
def State.posUp (s : State) (pos : Nat) : Bool :=
  (s.directLink? pos).isSome || (!s.linksUp.isEmpty && Config.peerThere pos)
/-- An address in the window of a position that holds no module that can be reached (R19). -/
def State.peerGone (s : State) (pa : Nat) : Bool := inPeer pa && !s.posUp (peerPos pa)
/-- DEV_ID (R462). -/
def State.devId (s : State) : BitVec 64 :=
  0#16 ++ (if s.fitting.x4l then 0x0A12#16 else 0x0A11#16) ++ s.fitting.serial

/-! ### The write signature (R327) -/

/-- A hash of the line address `l`. -/
def sigHash (l c : Nat) : Nat :=
  (List.range 49).foldl (fun h t =>
    if l.testBit t then h ^^^ (1 <<< ((t % 9 + c * (t / 9)) % 9)) else h) 0

/-- The four signature bits of a line (R327). -/
def sigBits (l : Nat) : BitVec 512 :=
  [0, 1, 2, 4].foldl (fun x c => x ||| (1#512 <<< sigHash l c)) 0#512

/-- A line hits a signature (R327). -/
def sigHit (x : BitVec 512) (l : Nat) : Bool := x &&& sigBits l == sigBits l

/-- The number of set bits. -/
def popcount {w : Nat} (x : BitVec w) : Nat := ((List.range w).filter x.getLsbD).length

/-- A line enters a group's signature (R326). -/
def State.enterSig (s : State) (g pa : Nat) : State :=
  s.modGroup g fun g => { g with sig := g.sig ||| sigBits (pa / 128) }

/-! ### Functions, partitions and frames (R453, R457) -/

/-- The partition that uses a cluster port now (R453): its borrower's during a loan. -/
def State.portPart (s : State) (p : Nat) : Option Nat :=
  match s.loans.find? (fun l => l.1 == p) with
  | some l => some l.2
  | none => (List.range 8).find? fun k => (s.parts.getD k Partition.none).clusters.getLsbD p
/-- The partition that owns a cluster port. -/
def State.portOwner (s : State) (p : Nat) : Option Nat :=
  (List.range 8).find? fun k => (s.parts.getD k Partition.none).clusters.getLsbD p
/-- The memory-side ports a cluster port is admitted to (R453). -/
def State.connRow (s : State) (p : Nat) : BitVec 24 :=
  match s.portPart p with
  | some k => (s.parts.getD k Partition.none).memports
  | none => 0
/-- An image frame: the entry of the image cache whose frames hold the address (R153). -/
def State.imageAt? (s : State) (pa : Nat) : Option Image :=
  (s.images.find? fun e =>
    match e with
    | some i => i.base ≤ pa && pa < i.base + (i.length + 4095) / 4096 * 4096
    | none => false).join

end Sys2Proof.Machine
end

