-- ==== Sys2Proof/Machine/Coherence.lean ====
section
/-!
DEFINITION. Coherence (21): tokens of a line, registrations, words in L1, page classes, and the reads and writes that the
agents make through them. Addresses of words are PA / 4, of lines PA / 128, of frames PA / 4096.
-/
namespace Sys2Proof.Machine

/-! ### Tokens (R369, R370) -/

/-- The tokens a holder has. -/
def Line.tokens (l : Line) : Holder → Nat
  | .home => l.home
  | .die 0 => l.die0
  | .die 1 => l.die1
  | .die 2 => l.die2
  | .die 3 => l.die3
  | .die _ => 0
  | .host => l.host
  | .link => l.link

/-- Setting the tokens a holder has; there is no die above 3. -/
def Line.setTokens (l : Line) (h : Holder) (n : Nat) : Line :=
  match h with
  | .home => { l with home := n }
  | .die 0 => { l with die0 := n }
  | .die 1 => { l with die1 := n }
  | .die 2 => { l with die2 := n }
  | .die 3 => { l with die3 := n }
  | .die _ => l
  | .host => { l with host := n }
  | .link => { l with link := n }

/-- The holders there are (R364). -/
def holders : List Holder := [.home, .die 0, .die 1, .die 2, .die 3, .host, .link]

/-- A holder that exists. -/
def known : Holder → Bool
  | .die d => d < 4
  | _ => true

/-- All the tokens of a line. -/
def Line.total (l : Line) : Nat := l.home + l.die0 + l.die1 + l.die2 + l.die3 + l.host + l.link

/-- `n` tokens move from one holder to another, where the first has them and both exist. -/
def Line.move (l : Line) (src dst : Holder) (n : Nat) : Line :=
  if known src && known dst && src != dst && n ≤ l.tokens src then
    let l' := l.setTokens src (l.tokens src - n)
    l'.setTokens dst (l'.tokens dst + n)
  else l

/-- All the tokens of `src` move to `dst`, the owner token among them where `src` has it. -/
def Line.moveAll (l : Line) (src dst : Holder) : Line :=
  if src != dst && l.owner == src && known dst then { (l.move src dst (l.tokens src)) with owner := dst }
  else l.move src dst (l.tokens src)

/-- Every token moves to one holder. -/
def Line.gather (l : Line) (dst : Holder) : Line := holders.foldl (fun l h => l.moveAll h dst) l

/-- A holder's answer to a transient request (R370). -/
def Line.answer (l : Line) (h who : Holder) (write : Bool) : Line :=
  if l.tokens h = 0 then l
  else if write then l.moveAll h who
  else if l.owner == h then (if 2 ≤ l.tokens h then l.move h who 1 else l.moveAll h who)
  else l

/-! ### Words (R367, R368) -/

/-- An L1 word of a CU. -/
def State.l1? (s : State) (c w : Nat) : Option L1Word := (s.cu c).l1.lookup w
/-- Setting an L1 word of a CU. -/
def State.setL1 (s : State) (c w : Nat) (x : L1Word) : State :=
  s.modCu c fun k => { k with l1 := sput x k.l1 w }
/-- An L1 word of a CU becomes invalid. -/
def State.dropL1 (s : State) (c w : Nat) : State := s.modCu c fun k => { k with l1 := sdel k.l1 w }

/-- The words of a line. -/
def wordsOfLine (l : Nat) : List Nat := (List.range 32).map (32 * l + ·)
/-- The lines of a frame. -/
def linesOfFrame (f : Nat) : List Nat := (List.range 32).map (32 * f + ·)

/-- The CU that holds a word registered (R368). -/
def State.registered? (s : State) (w : Nat) : Option Nat := (s.line (w / 32)).regs.lookup (w % 32)

/-- The CU to which a page is private, until its reclassification is done (R365, R366). -/
def PageClass.owner? : PageClass → Option Nat
  | .priv c => some c
  | .transit c => some c
  | _ => none

/-- The CU in whose L1 a private page's word is dirty (R367). -/
def State.dirtyAt? (s : State) (w : Nat) : Option Nat :=
  (sget PageClass.untouched s.classes (w / 1024)).owner?.filter fun c => (s.l1? c w).any fun x => x.state == .dirty

/-- The dirty word of a private page's owner (R367). -/
def State.privateDirty? (s : State) (w : Nat) : Option Word :=
  (s.dirtyAt? w).bind fun c => (s.l1? c w).map L1Word.value

/-- A word's newest value (R339): at its registered owner, at a private page's owner, in the owner token's dirty words,
or in memory. -/
def State.word (s : State) (w : Nat) : Word :=
  match (s.registered? w).bind (fun c => s.l1? c w) with
  | some x => x.value
  | none =>
    match s.privateDirty? w with
    | some v => v
    | none => ((s.line (w / 32)).dirty.lookup (w % 32)).getD (s.homeWord w)

/-- A recall of a registration: the value is merged into line data and the L1 word stays valid (R368). -/
def State.recallWord (s : State) (w : Nat) : State :=
  match s.registered? w with
  | none => s
  | some c =>
    let v := s.word w
    let s := s.modLine (w / 32) fun l =>
      { l with regs := sdel l.regs (w % 32), dirty := sput v l.dirty (w % 32) }
    if (s.l1? c w).isSome then s.setL1 c w ⟨.valid, v⟩ else s

/-- The value of a private page's owner's dirty word becomes dirty line data at its die slice, which holds all the tokens, and
the word stays valid (R366, R367). -/
def State.cleanWord (s : State) (w : Nat) : State :=
  match s.dirtyAt? w with
  | none => s
  | some c =>
    let v := s.word w
    (s.modLine (w / 32) fun l => { l with dirty := sput v l.dirty (w % 32) }).setL1 c w ⟨.valid, v⟩

/-- Recalls of every registration of a line, and of the words of it that are dirty in a private page's owner's L1. -/
def State.recallLine (s : State) (l : Nat) : State :=
  let s := ((s.line l).regs.map Prod.fst).foldl (fun s w => s.recallWord (32 * l + w)) s
  match (sget PageClass.untouched s.classes (l / 32)).owner? with
  | none => s
  | some _ => (wordsOfLine l).foldl (fun (s : State) w => s.cleanWord w) s

/-- Dirty words at the home store are written to memory (R371). -/
def State.flushHome (s : State) (l : Nat) : State :=
  if (s.line l).owner == .home then
    let d := (s.line l).dirty
    let s := d.foldl (fun s x => s.setHomeWord (32 * l + x.1) x.2) s
    s.modLine l fun k => { k with dirty := [] }
  else s

/-- The words of a CU's L1 that are not what memory holds: a word goes from an L1 to its die slice where it is dirty there or
registered, and stays valid (R366, R367). -/
def State.cleanL1 (s : State) (c w : Nat) : State :=
  match (s.l1? c w).map L1Word.state with
  | some .dirty => s.cleanWord w
  | some .registered => s.recallWord w
  | _ => s

/-! ### Page classes (R365, R366) -/

/-- Frames that are always SHARED: host memory, image frames and frames with watched bytes (R365). -/
def State.alwaysShared (s : State) (f : Nat) : Bool :=
  inHost (4096 * f) || (s.imageAt? (4096 * f)).isSome ||
    s.slots.any fun x => x.2.watches.any fun w => w.pa / 4096 ≤ f && f ≤ (w.pa + w.size - 1) / 4096

/-- A frame's class, which the TLB entries into it carry (R365) (DEDUCED, log 60). -/
def State.pageClass (s : State) (f : Nat) : PageClass :=
  if s.alwaysShared f then .shared else sget PageClass.untouched s.classes f

/-- Setting a frame's class entry (R365). -/
def State.setClass (s : State) (f : Nat) (c : PageClass) : State :=
  { s with classes := sset PageClass.untouched s.classes f c }

/-- Reclassification: the owner's dirty words are written to its die slice, and the entry becomes SHARED (R366). -/
def State.reclassify (s : State) (f : Nat) : State :=
  match (sget PageClass.untouched s.classes f).owner? with
  | some c =>
    let s := s.setClass f (.transit c)
    let s := ((s.cu c).l1.filter fun x => x.1 / 1024 == f && x.2.state == .dirty).foldl
      (fun s x => s.cleanWord x.1) s
    s.setClass f .shared
  | none => s

/-- A frame becomes SHARED, whatever it was. -/
def State.share (s : State) (f : Nat) : State :=
  if sget PageClass.untouched s.classes f == .shared then s else (s.reclassify f).setClass f .shared

/-- A CU's translation reaches a frame (R365); where another CU owns it, reclassification begins (R366, step 1). -/
def State.reach' (s : State) (c f : Nat) : State :=
  match s.pageClass f with
  | .untouched => s.setClass f (.priv c)
  | .priv d => if d = c then s else s.setClass f (.transit d)
  | .transit _ => s
  | .shared => s.share f

/-- A CU's access to a frame that its translation has reached; no other CU's access passes reclassification (R366). -/
def State.touch (s : State) (c f : Nat) : State :=
  match s.pageClass f with
  | .untouched => s.setClass f (.priv c)
  | .priv d => if d = c then s else s.reclassify f
  | .transit d => if d = c then s else s.reclassify f
  | .shared => s.share f

/-- The frame is private to the CU. -/
def State.isPrivate (s : State) (c f : Nat) : Bool := (s.pageClass f).owner? == some c

/-! ### Bias (R374) -/

/-- The bit of a page in the bias table: first-tier pages, then second-tier pages (R374, DEDUCED, log 20). -/
def biasIndex (pa : Nat) : Nat := if inT1 pa then pa / 4096 else 2 ^ 26 + (pa - 2 ^ 44) / 4096
/-- A page is in host bias (R374). -/
def State.hostBias (s : State) (pa : Nat) : Bool :=
  s.regs.biasSet && (inT1 pa || s.inT2 pa) &&
    (s.byte (s.regs.biasBase.toNat + biasIndex pa / 8)).getLsbD (biasIndex pa % 8)


/-! ### Requests for tokens (R370 to R375) -/

/-- Lines that the host's coherence serves: host memory, and pages in host bias (R374). -/
def State.hostServes (s : State) (line : Nat) : Bool := inHost (128 * line) || s.hostBias (128 * line)

/-- The active entry of a line. -/
def State.activeTrump (s : State) (line : Nat) : Option Trump := s.trumps.find? fun t => t.active && t.line == line

/-- The tokens a requester needs. -/
def needs (write : Bool) : Nat := if write then 32 else 1

/-- The holder is the host agent, for which a token may stand at the host (R374). -/
def hostHolds (l : Line) (who : Holder) : Bool := who != .host && 0 < l.host

/-- A page is flipping: its BIAS_HOST or BIAS_DEVICE is under way (R375). -/
def State.flipping (s : State) (pa : Nat) : Bool :=
  s.mail.any fun m =>
    let first := (m.2.oper.getD 0 0).toNat
    (m.2.cmd == 0x48 || m.2.cmd == 0x49) && !(m.2.res.getD 0 0).getLsbD 63 && first ≤ pa
      && pa < first + 4096 * (m.2.oper.getD 1 0).toNat

/-- A CLUSTER_RECLAIM of a cluster is under way; during a freeze it waits (R456). -/
def State.reclaiming (s : State) (cluster : Nat) : Bool :=
  s.freeze.isNone && s.mail.any fun m =>
    m.2.cmd == 0x6D && !(m.2.res.getD 0 0).getLsbD 63 && (m.2.oper.getD 0 0).toNat == cluster && s.loans.any fun l => l.1 == cluster

/-- A request waits: the page is flipping (R375), or its requester lacks tokens that it cannot gather at once, as another
request's entry is served (R373), or the host has to give them up or to grant them (R374). -/
def State.mustWait (s : State) (who : Holder) (line : Nat) (write : Bool) : Bool :=
  let l := s.line line
  s.flipping (128 * line) || (l.tokens who < needs write &&
    ((s.activeTrump line).any (fun t => t.requester != who)
      || (hostHolds l who && (write || l.owner == .host))
      || (s.hostServes line && match who with | .die _ => true | _ => false)))

/-- A request's attempts. -/
def Attempt.of (who : Holder) (line : Nat) (write : Bool) (a : Attempt) : Bool := a.who == who && a.line == line && a.write == write

/-- An attempt begins, at the first one with its time. -/
def State.beginAttempt (s : State) (who : Holder) (line : Nat) (write : Bool) (counter : Option Nat) : State :=
  if s.attempts.any (Attempt.of who line write) then s
  else { s with attempts := s.attempts ++ [⟨who, line, write, 0, s.now, counter⟩] }

/-- A request that has to wait is made known: its attempts begin, but for the home store's own, and the host is asked for
what a die needs (D2H), or told to give up what it holds (BISnp) (R370, R374). A fill that it brings raises an access
counter. -/
def State.demand (s : State) (who : Holder) (line : Nat) (write : Bool) (counter : Option Nat) : State :=
  let s := if who == .home then s else s.beginAttempt who line write counter
  s.modLine line fun l =>
    let snoop := { l with snooped := l.snooped || (hostHolds l who && (write || l.owner == .host)) }
    match who with
    | .die d =>
      if s.hostServes line then
        { l with asked := if l.asked.any fun x => x.1 == d && x.2.1 == write then l.asked else l.asked ++ [(d, write, counter)] }
      else snoop
    | _ => snoop

/-- After a write at the home store, a line of a page in host bias has its tokens with the host agent (R374). -/
def State.backToHost (s : State) (line : Nat) : State :=
  if s.hostBias (128 * line) && (s.line line).dirty.isEmpty then s.modLine line fun l => l.moveAll .home .host else s

/-- Every token of a line comes to the home store, with its registrations recalled and its data in memory. -/
def State.gatherHome (s : State) (l : Nat) : State :=
  ((s.recallLine l).modLine l fun k => k.gather .home).flushHome l

/-! ### Bytes at home -/

/-- The words that bytes touch. -/
def wordsOf (pa n : Nat) : List Nat := (List.range ((pa + n + 3) / 4 - pa / 4)).map (pa / 4 + ·)

/-- The newest bytes of memory, as a reader at home sees them. -/
def State.peek (s : State) (pa n : Nat) : List Byte :=
  let ws := (wordsOf pa n).flatMap fun w => bytesOfNat 4 (s.word w).toNat
  (ws.drop (pa % 4)).take n

/-- The first write of a page that a checkpoint covers copies it to its backing frame (R446). -/
def State.cover (s : State) (pa n : Nat) : State :=
  let pages := (List.range ((pa + n + 4095) / 4096 - pa / 4096)).map (pa / 4096 + ·)
  { s with contexts := s.contexts.map fun c =>
      match c.checkpoint with
      | none => c
      | some k =>
        let new := pages.filter fun p => k.covered.contains p && !(k.backing.any fun b => b.1 == p)
        if new.isEmpty then c
        else
          { c with checkpoint := some { k with backing := k.backing ++ new.map fun p =>
              (p, s.peek (4096 * p) 4096, s.poison.filter fun w => w / 1024 == p) } } }

/-- A write reaches a frame that is being zeroed, and is dropped (R377). -/
def State.zeroingFrame (s : State) (pa : Nat) : Bool :=
  !inHost pa && !inPeer pa && s.frame (pa / 4096) == .zeroing

/-- The identifier of the counter of writes that reached a ZEROING frame (R466, DESIGN CHOICE, log 21). -/
def eZeroing : Nat := 6

/-! ### Access counters (R389) -/

/-- One is added to an access counter at its home, atomically, saturating (R389). -/
def State.addCount (s : State) (pa : Nat) : State :=
  if s.zeroingFrame pa then s.countError eZeroing
  else
    let s := ((s.cover pa 4).reclassify (pa / 4096)).gatherHome (pa / 128)
    let v := (s.homeWord (pa / 4)).toNat
    (if v = 2 ^ 32 - 1 then s else s.setHomeWord (pa / 4) (BitVec.ofNat 32 (v + 1))).backToHost (pa / 128)

/-- A fill is counted (R389): its addition is performed, or waits for the counter's line. -/
def State.countFill (s : State) (counter : Option Nat) : State :=
  match counter with
  | none => s
  | some pa =>
    if s.mustWait .home (pa / 128) true then
      { s.demand .home (pa / 128) true none with counts := s.counts ++ [pa] }
    else s.addCount pa

/-- The additions that waited are performed, where they can be. -/
def State.settleCounts (s : State) : State :=
  s.counts.foldl (fun (s : State) pa => s.countFill (some pa)) { s with counts := [] }

/-! ### Gathering tokens (R368 to R370) -/

/-- A requester that comes to have a line's data gets it from its home store: a fill of a die slice (R389). -/
def Line.filledFromHome (l : Line) (who : Holder) : Bool :=
  l.owner == .home && l.tokens who == 0 && (match who with | .die _ => true | _ => false)

/-- A requester gathers one token (R370). A holder that gives a token away first recalls the line's registrations
(R368). -/
def State.gatherRead (s : State) (l : Nat) (who : Holder) (counter : Option Nat) : State :=
  if 0 < (s.line l).tokens who then s
  else
    let fill := (s.line l).filledFromHome who
    let s := s.recallLine l
    let s := s.modLine l fun k => k.answer k.owner who false
    if fill then s.countFill counter else s

/-- A requester gathers all 32 tokens (R369, R370). A die that has them all keeps its registrations. -/
def State.gatherWrite (s : State) (l : Nat) (who : Holder) (counter : Option Nat) : State :=
  if (s.line l).tokens who = 32 then s.flushHome l
  else
    let fill := (s.line l).filledFromHome who
    let s := s.recallLine l
    let s := s.modLine l fun k => k.gather who
    (if fill then s.countFill counter else s).flushHome l

/-- A die slice notes that a CU's L1 may hold words of the line (R364). -/
def State.present (s : State) (l c : Nat) : State :=
  s.modLine l fun k => { k with presence := insertNew c k.presence }

/-! ### Capacity (R301, R304, R364) -/

/-- The words of a CU for which a registration has been sent. -/
def Cu.sentWords (k : Cu) : List Nat :=
  (k.l1.filter fun x => match x.2.state with | .sent _ _ _ => true | _ => false).map Prod.fst

/-- An L1 word leaves its L1, its value going to the die slice first where it is the newest; one whose registration has been
sent stays. -/
def State.evict (s : State) (c w : Nat) : State :=
  if (s.cu c).sentWords.contains w then s else (s.cleanL1 c w).dropL1 c w

/-- Every L1 word of a CU that satisfies a test leaves it. -/
def State.evictAll (s : State) (c : Nat) (p : Nat → Bool) : State :=
  ((s.cu c).l1.filter fun x => p x.1).foldl (fun s x => s.evict c x.1) s

/-- The ways of a CU's L1: blocks that are not scratchpad (R304). -/
def Cu.ways (k : Cu) : Nat := 16 - k.scratchBlocks

/-- Where a line's tokens go that a slice gives up: to the requester of its active entry, else home (R371, R373). -/
def State.tokenDest (s : State) (line : Nat) : Holder := ((s.activeTrump line).map Trump.requester).getD .home

/-- A line replaced in a die slice (R371, R364): the words of its die's L1s go first, then, with the recalls that R368 asks
of a holder, the tokens. -/
def State.replaceLine (s : State) (die line : Nat) : State :=
  let here := (s.line line).presence.filter fun c => dieOfCu c == die
  let s := here.foldl (fun (s : State) c => s.evictAll c fun w => w / 32 == line) s
  let s := if (s.line line).tokens (.die die) = 0 then s else s.recallLine line
  let s := s.modLine line fun l =>
    { (l.moveAll (.die die) (s.tokenDest line)) with presence := l.presence.filter fun c => !here.contains c }
  (s.flushHome line).backToHost line

/-- The lines of an L1 set of 512, chosen by PA[15:7] (17, "The SRAM split"). -/
def Cu.linesOfSet (k : Cu) (l : Nat) : List Nat := ((k.l1.map fun x => x.1 / 32).filter fun j => j % 512 == l % 512).eraseDups

/-- The line of a full L1 set that was used least recently (17, "The SRAM split"), among those without a word whose
registration is in flight. -/
def Cu.victim? (k : Cu) (l : Nat) : Option Nat :=
  let held := k.sentWords.map (· / 32)
  let free := (k.linesOfSet l).filter fun j => !held.contains j
  match free.find? fun j => !k.recent.contains j with
  | some j => some j
  | none => (k.recent.filter free.contains).getLast?

/-- The L1 holds the line, or has room for it. -/
def Cu.fits (k : Cu) (l : Nat) : Bool := (k.linesOfSet l).contains l || (k.linesOfSet l).length < k.ways

/-- Room for a line in a CU's L1: a full set gives up the line used least recently. -/
def State.roomL1 (s : State) (c l : Nat) : State :=
  if (s.cu c).fits l then s
  else
    match (s.cu c).victim? l with
    | some v => s.evictAll c fun w => w / 32 == v
    | none => s

/-- The lines with a tag in the set of a die's slice PA[11:7], of 2,048 sets chosen by PA[22:12]: those of which the slice
holds tokens, and those of which an L1 of the die may hold words (R301, R364). -/
def State.linesOfSlice (s : State) (die l : Nat) : List Nat :=
  (s.lines.filter fun x => x.1 % 65536 == l % 65536 &&
    (x.2.tokens (.die die) != 0 || x.2.presence.any fun c => dieOfCu c == die)).map Prod.fst

/-- The slice holds the line, or one of its 12 ways is free (R301). -/
def State.fitsL2 (s : State) (die l : Nat) : Bool := (s.linesOfSlice die l).contains l || (s.linesOfSlice die l).length < 12

/-- The lines of a full set that can be given up: no L1 of the die has sent a registration for a word of them. -/
def State.victims (s : State) (die l : Nat) : List Nat :=
  let held := s.cus.flatMap fun x => if dieOfCu x.1 == die then x.2.sentWords.map (· / 32) else []
  (s.linesOfSlice die l).filter fun j => !held.contains j

/-- Room for a line in a die's slice: a full set gives up one of its lines, which a free value names (R301) (DESIGN CHOICE,
log 6). -/
def State.roomL2 (s : State) (die l : Nat) : State :=
  if s.fitsL2 die l then s
  else
    let vs := s.victims die l
    match vs[Config.victim s.draws % vs.length]? with
    | some v => s.replaceLine die v
    | none => s

/-- Room for the line of a requester's tokens, where it is a die slice. -/
def State.roomFor' (s : State) (l : Nat) (who : Holder) : State :=
  match who with
  | .die d => s.roomL2 d l
  | _ => s

/-- A requester has room for a line, or can make it. -/
def State.hasRoom (s : State) (l : Nat) (who : Holder) : Bool :=
  match who with
  | .die d => s.fitsL2 d l || !(s.victims d l).isEmpty
  | _ => true

/-- A CU's L1 has room for a line, or can make it. -/
def State.hasRoomL1 (s : State) (c l : Nat) : Bool := (s.cu c).fits l || ((s.cu c).victim? l).isSome

/-- A requester that has room for the line gathers one token. -/
def State.acquireRead (s : State) (l : Nat) (who : Holder) (counter : Option Nat) : State :=
  (s.roomFor' l who).gatherRead l who counter

/-- A requester that has room for the line gathers all 32 tokens. -/
def State.acquireWrite (s : State) (l : Nat) (who : Holder) (counter : Option Nat) : State :=
  (s.roomFor' l who).gatherWrite l who counter

/-- A CU's L1 comes to hold words of a line, in its own place and under a tag of its die's slice (R301, R364). -/
def State.roomLine (s : State) (c l : Nat) : State := ((s.roomL1 c l).roomL2 (dieOfCu c) l).present l c

/-- A CU uses a line of its L1, which becomes the one used last; `.stream` leaves a line where it is, and puts one that is
filled first in the order of replacement (R301, R317). -/
def State.useLine (s : State) (c l : Nat) (stream fill : Bool) : State :=
  s.modCu c fun k => { k with recent :=
    if !stream then l :: k.recent.filter (· != l) else if fill then k.recent.filter (· != l) ++ [l] else k.recent }

/-- Every L1 of the package invalidates a line's words, whatever their state (R377). -/
def State.killLine (s : State) (l : Nat) : State :=
  { s with cus := s.cus.map fun x => (x.1, { x.2 with l1 := x.2.l1.filter fun y => y.1 / 32 != l }) }

/-- Words of an L1 that a test selects are invalidated, where they are valid; of a word whose registration is in flight, the
bytes that have not been stored (R367). -/
def invalidWords (p : Nat → Bool) (l1 : List (Nat × L1Word)) : List (Nat × L1Word) :=
  l1.filterMap fun x =>
    match x.2.state with
    | .valid => if p x.1 then none else some x
    | .sent m _ k => if p x.1 then some (x.1, ⟨.sent m false k, x.2.value⟩) else some x
    | _ => some x

/-- The valid words of a line leave an L1. -/
def State.dropLine (s : State) (c l : Nat) : State :=
  s.modCu c fun k => { k with l1 := invalidWords (fun w => w / 32 == l) k.l1 }

/-- A full invalidation of a CU's L1: every valid word of a shared page that is not registered to it (R329, R331). -/
def State.invalidateL1 (s : State) (c : Nat) (hit : Nat → Bool) : State :=
  s.modCu c fun k => { k with l1 := invalidWords (fun w => hit (w / 32) && !s.isPrivate c (w / 1024)) k.l1 }

/-! ### Registrations that have been sent (R318, R368) -/

/-- The bytes of a mask taken from one word, the others from another. -/
def mergeMask (old new : Word) (mask : Nat) : Word :=
  BitVec.ofNat 32 (natOfBytes (((bytesOfNat 4 old.toNat).zip (bytesOfNat 4 new.toNat)).zipIdx.map fun x =>
    if mask.testBit x.2 then x.1.2 else x.1.1))

/-- The other word of an 8-byte unit takes, in an L1 that holds it, what it has at its newest, so that no load of the unit
sees a part of a store (R319). -/
def State.freshen (s : State) (c w : Nat) : State :=
  match s.l1? c w with
  | some ⟨.valid, _⟩ => s.setL1 c w ⟨.valid, s.word w⟩
  | some ⟨.sent m true k, v⟩ => s.setL1 c w ⟨.sent m true k, mergeMask (s.word w) v m⟩
  | _ => s

/-- The other word of a word's 8-byte unit. -/
def sibling (w : Nat) : Nat := w / 2 * 4 + 1 - w

/-- The slice that holds all tokens accepts the registration of a word, whose stored bytes enter its coherence order: an
earlier registration is recalled and merged first (R368). The word's poison goes where the store covers it (R308). A store
to a frame that is being zeroed is dropped (R377). -/
def State.acceptWord (s : State) (c w : Nat) : State :=
  match s.l1? c w with
  | some ⟨.sent m _ k, v⟩ =>
    if s.zeroingFrame (4 * w) then (s.countError eZeroing).dropL1 c w
    else
      let s := s.acquireWrite (w / 32) (.die (dieOfCu c)) k
      let s := s.recallWord w
      let x := mergeMask (s.word w) v m
      let s := if m = 15 then s.cureWord w else s
      (if sget PageClass.untouched s.classes (w / 1024) == .shared then
        (s.modLine (w / 32) fun l => { l with regs := sput c l.regs (w % 32), presence := insertNew c l.presence }).setL1 c w
          ⟨.registered, x⟩
      else (s.modLine (w / 32) fun l => { l with dirty := sput x l.dirty (w % 32) }).setL1 c w ⟨.valid, x⟩).freshen c (sibling w)
  | _ => s

/-- The registrations that a CU has sent for the words of one 8-byte unit are accepted together, so that no one sees a
part of a store (R319). -/
def State.acceptUnit (s : State) (c w : Nat) : State := (s.acceptWord c (w / 2 * 2)).acceptWord c (w / 2 * 2 + 1)

/-- Every registration that a CU has sent is accepted. -/
def State.acceptCu (s : State) (c : Nat) : State := (s.cu c).sentWords.foldl (fun s w => s.acceptUnit c w) s

/-- Every registration that any CU has sent is accepted. -/
def State.acceptAll (s : State) : State := (s.cus.map Prod.fst).foldl State.acceptCu s

/-- A word of an L1 goes to its die slice, becoming dirty line data, and stays valid (R366, R367). -/
def State.writeBack (s : State) (c w : Nat) : State := (s.acceptUnit c w).cleanL1 c w

/-- The L1 words of a line whose value is newer than the line's data go to their die slices: those dirty on a private page,
registered, or sent. -/
def State.settleLine (s : State) (l : Nat) : State :=
  let cus := insertAll (s.line l).presence (match (sget PageClass.untouched s.classes (l / 32)).owner? with
    | some c => [c]
    | none => [])
  (cus.foldl (fun (s : State) c => (wordsOfLine l).foldl (fun (s : State) w => s.writeBack c w) s) s).recallLine l

/-! ### Accesses of a CU to words -/

/-- A line that this module caches: not in a peer window (R364). -/
def State.cached (_ : State) (w : Nat) : Bool := !inPeer (4 * w)

/-- A word's newest value fills an L1 that has room for it, and with it the other word of its 8-byte unit where that was older
(R319). -/
def State.fillL1 (s : State) (c w : Nat) : State := (s.setL1 c w ⟨.valid, s.word w⟩).freshen c (sibling w)

/-- The token and the room that a fill of an L1 word takes. -/
def State.fetchL1 (s : State) (c w : Nat) (counter : Option Nat) (stream : Bool) : State :=
  let l := w / 32
  ((s.roomLine c l).acquireRead l (.die (dieOfCu c)) counter).useLine c l stream true

/-- A CU reads a word through its L1, filling it, or the bytes of it that an invalidation took (R317, R367, R368). -/
def State.loadL1 (s : State) (c w : Nat) (counter : Option Nat) (stream : Bool) : Word × State :=
  if s.cached w then
    let s := s.touch c (w / 1024)
    match s.l1? c w with
    | some ⟨.sent m rest k, v⟩ =>
      if rest || m = 15 then (v, s.useLine c (w / 32) stream false)
      else
        let s := s.fetchL1 c w counter stream
        let x := mergeMask (s.word w) v m
        (x, (s.setL1 c w ⟨.sent m true k, x⟩).freshen c (sibling w))
    | some x => (x.value, s.useLine c (w / 32) stream false)
    | none =>
      let s := (s.fetchL1 c w counter stream).fillL1 c w
      (s.word w, s)
  else (s.homeWord w, s)

/-- A CU's read at its die slice, or at the home store, leaving its L1 as it is (R317, R343, R381), once what it has itself
sent of the word is accepted. -/
def State.loadHome (s : State) (c w : Nat) (atHome : Bool) (counter : Option Nat) : Word × State :=
  if s.cached w then
    let s := (s.touch c (w / 1024)).acceptUnit c w
    let s := if atHome then (s.recallLine (w / 32)).acquireWrite (w / 32) .home counter
      else s.acquireRead (w / 32) (.die (dieOfCu c)) counter
    (s.word w, s)
  else (s.homeWord w, s)

/-- Merging bytes into a word from the byte `k` on. -/
def mergeBytes (x : Word) (k : Nat) (bs : List Byte) : Word :=
  let old := bytesOfNat 4 x.toNat
  BitVec.ofNat 32 (natOfBytes (old.take k ++ bs ++ old.drop (k + bs.length)))

/-- The mask of `n` bytes of a word from the byte `k` on. -/
def byteMask (k n : Nat) : Nat := (2 ^ n - 1) * 2 ^ k % 16

/-- A CU's store of bytes of a word through its L1 (R318, R367, R368). A store of a part of a word fills the word first
where L1 does not hold it; on a private page the word becomes dirty, for which its die holds every token (R369); on a shared
one its registration is sent, unless it is registered already. -/
def State.storeL1 (s : State) (c w k : Nat) (bs : List Byte) (counter : Option Nat) (stream : Bool) : State :=
  if s.cached w then
    let s := s.touch c (w / 1024)
    let l := w / 32
    let s := if bs.length = 4 || (s.l1? c w).isSome then s else (s.loadL1 c w counter stream).2
    let v := mergeBytes (((s.l1? c w).map L1Word.value).getD 0) k bs
    let miss := (s.l1? c w).isNone
    match s.l1? c w with
    | some ⟨.sent m rest n, _⟩ => (s.setL1 c w ⟨.sent (m ||| byteMask k bs.length) rest n, v⟩).useLine c l stream false
    | some ⟨.registered, _⟩ => ((s.cureIf w (bs.length = 4)).setL1 c w ⟨.registered, v⟩).useLine c l stream false
    | _ =>
      let s := (s.roomLine c l).useLine c l stream miss
      if s.isPrivate c (w / 1024) then
        ((s.acquireWrite l (.die (dieOfCu c)) counter).cureIf w (bs.length = 4)).setL1 c w ⟨.dirty, v⟩
      else s.setL1 c w ⟨.sent (byteMask k bs.length) true counter, v⟩
  else
    (s.setHomeWord w (mergeBytes (s.homeWord w) k bs)).cureIf w (bs.length = 4)

/-- Every token of a line comes to a CU's die slice, or to the home store, with its registrations recalled (R368, R381). -/
def State.ownLine (s : State) (c l : Nat) (atHome : Bool) (counter : Option Nat) : State :=
  if atHome then (s.recallLine l).acquireWrite l .home counter
  else (s.acquireWrite l (.die (dieOfCu c)) counter).recallLine l

/-- A CU's write at its die slice with all the tokens, or at the home store (R318, R323, R381). The CU's own L1 word
becomes invalid (R367) (DEDUCED, log 37). -/
def State.storeHome (s : State) (c w : Nat) (v : Word) (atHome : Bool) (counter : Option Nat) : State :=
  if s.cached w then
    let s := (s.touch c (w / 1024)).acceptUnit c w
    let s := s.evict c w
    let s := s.ownLine c (w / 32) atHome counter
    if atHome then s.setHomeWord w v
    else s.modLine (w / 32) fun l => { l with dirty := sput v l.dirty (w % 32) }
  else s.setHomeWord w v

/-- Every copy of a line goes home: newer words written back, registrations recalled, tokens returned. -/
def State.lineHome (s : State) (l : Nat) : State := (s.settleLine l).gatherHome l

/-- A write of the part itself (the scheduler, the context engine) at the home store: other CUs' L1 words stay as they
are (R367). -/
def State.storeEngine (s : State) (w : Nat) (v : Word) : State :=
  ((s.reclassify (w / 1024)).gatherHome (w / 32)).setHomeWord w v

/-- A write of the host or a peer at the home store: every token is gathered, the line's words are invalidated in the L1s
named by the presence mask and in that of a private page's owner, and the tokens return home (R373, R374). -/
def State.storeExternal (s : State) (w : Nat) (v : Word) : State :=
  let l := w / 32
  let owner := (sget PageClass.untouched s.classes (w / 1024)).owner?
  let s := (s.gatherHome l).setHomeWord w v
  (insertAll (s.line l).presence owner.toList).foldl (fun s c => s.dropLine c l) s

/-! ### Bytes through the caches -/

/-- Splitting bytes at word bounds: word, first byte, bytes. -/
def splitWords (pa : Nat) : List Byte → Nat → List (Nat × Nat × List Byte)
  | _, 0 => []
  | bs, fuel + 1 =>
    if bs.isEmpty then []
    else
      let k := pa % 4
      let n := 4 - k
      (pa / 4, k, bs.take n) :: splitWords (pa + (bs.take n).length) (bs.drop n) fuel

/-- Bytes written by a function that writes one word. -/
def State.pokeWith (s : State) (pa : Nat) (bs : List Byte) (wr : State → Nat → Word → State) : State :=
  (splitWords pa bs (bs.length + 1)).foldl (fun s x =>
    let s := wr s x.1 (mergeBytes (s.word x.1) x.2.1 x.2.2)
    if x.2.2.length = 4 then s.cureWord x.1 else s) s

/-- The lines that bytes touch. -/
def linesOf (pa n : Nat) : List Nat := if n = 0 then [] else (List.range ((pa + n - 1) / 128 + 1 - pa / 128)).map (pa / 128 + ·)

/-- What the part itself writes to a page enters the copy that a checkpoint keeps of it too: a rollback undoes none of it
(R446) (DEDUCED, log 43). -/
def State.writeBacking (s : State) (pa : Nat) (bs : List Byte) : State :=
  let put := fun b : Nat × List Byte × List Nat =>
    if b.1 = pa / 4096 then
      let k := pa % 4096
      (b.1, b.2.1.take k ++ bs ++ b.2.1.drop (k + bs.length), b.2.2.filter fun w => !(pa ≤ 4 * w && 4 * w + 4 ≤ pa + bs.length))
    else b
  { s with contexts := s.contexts.map fun c =>
      { c with checkpoint := c.checkpoint.map fun k => { k with backing := k.backing.map put } } }

/-- A write of the part itself (the scheduler, the context engine) at the home store; one that reaches a ZEROING frame is
dropped (R377). -/
def State.poke (s : State) (pa : Nat) (bs : List Byte) : State :=
  if s.zeroingFrame pa then s.countError eZeroing
  else
    let s := ((s.cover pa bs.length).pokeWith pa bs State.storeEngine).writeBacking pa bs
    (linesOf pa bs.length).foldl (fun (s : State) l => s.backToHost l) s

/-- A read or write of the part itself at the home store waits for no token (R369, R373, R374). -/
def State.engineFree (s : State) (pa n : Nat) (write : Bool) : Bool :=
  inPeer pa || (linesOf pa n).all fun l => !s.mustWait .home l write

/-- What a read or write of the part itself waits for is asked for. -/
def State.engineDemand (s : State) (pa n : Nat) (write : Bool) : State :=
  (linesOf pa n).foldl (fun (s : State) l => if s.mustWait .home l write then s.demand .home l write none else s) s

/-! ### Answers and entries (R370 to R373) -/

/-- Every token of a line goes to a requester; the host's await its BIRsp (R373, R374). -/
def State.gatherTo (s : State) (line : Nat) (who : Holder) : State :=
  let s := s.roomFor' line who
  let s := if (s.line line).tokens who = 32 then s else s.recallLine line
  let s := s.modLine line fun l =>
    let l' := (holders.filter (· != .host)).foldl (fun l h => l.moveAll h who) l
    { (if who == .host then l.gather who else l') with snooped := l.snooped || hostHolds l who }
  s.flushHome line

/-- The holders whose answer a transient request can still get, the host apart: its tokens await its BIRsp (R370, R374). -/
def Line.answerers (l : Line) (who : Holder) (write : Bool) : List Holder :=
  holders.filter fun h => h != who && h != .host && l.tokens h != 0 && (write || l.owner == h)

/-- The access counter that a request's fill raises, where its attempts name one (R389). -/
def State.attemptCounter (s : State) (who : Holder) (line : Nat) (write : Bool) : Option Nat :=
  (s.attempts.find? (Attempt.of who line write)).bind Attempt.counter

/-- One holder, which a free value names, answers a transient request (R370). -/
def State.askTokens (s : State) (who : Holder) (line : Nat) (write : Bool) : State :=
  let s := (s.roomFor' line who).recallLine line
  let l := s.line line
  let fill := l.filledFromHome who
  let hs := l.answerers who write
  let s := s.modLine line fun l =>
    { (match hs[Config.order s.draws % hs.length]? with
        | some h => l.answer h who write
        | none => l) with snooped := l.snooped || (hostHolds l who && (write || l.owner == .host)) }
  let s := s.flushHome line
  if fill && (if write then (s.line line).owner == who else (s.line line).tokens who != 0) then s.countFill (s.attemptCounter who line write) else s

/-- An agent that sends requests for tokens: a die, the host agent, or the link agent (R370, R372). -/
def requester (who : Holder) : Bool := known who && who != .home

/-- A request whose operation has been performed has no attempts. -/
def State.dropAttempt (s : State) (who : Holder) (line : Nat) (write : Bool) : State :=
  { s with attempts := s.attempts.filter fun a => !Attempt.of who line write a }

/-- A request that has gathered what it needs has no attempts. -/
def State.endAttempt (s : State) (who : Holder) (line : Nat) (write : Bool) : State :=
  if needs write ≤ (s.line line).tokens who then s.dropAttempt who line write else s

/-- The oldest entry of a line becomes active. -/
def activateFirst (line : Nat) : List Trump → List Trump
  | [] => []
  | t :: ts => if t.line = line then { t with active := true } :: ts else t :: activateFirst line ts

/-- The next entry of a line becomes active, and every token goes to its requester (R373). -/
def State.activateNext (s : State) (line : Nat) : State :=
  let s : State := { s with trumps := activateFirst line s.trumps }
  match s.activeTrump line with
  | some t => s.gatherTo line t.requester
  | none => s

/-- The home of a line, whose trump table holds its entries (R372). -/
def State.homeOf (s : State) (line : Nat) : Nat :=
  match s.memPort (128 * line) with
  | some p => if p < 4 then 32 * p + line % 32 else 128 + p
  | none => 152

/-- The oldest request that waits for the table of a home enters it (R372). -/
def State.enterTable (s : State) (home : Nat) : State :=
  match s.trumpQueue.find? fun q => s.homeOf q.line == home with
  | none => s
  | some q =>
    let first := (s.activeTrump q.line).isNone
    let s : State := { s with trumpQueue := s.trumpQueue.erase q, trumps := s.trumps ++ [⟨first, q.write, q.requester, q.line⟩] }
    if first then s.gatherTo q.line q.requester else s

/-- An entry is freed, the next one of its line is activated, and a request that waited for the table enters it (R372,
R373). -/
def State.freeEntry (s : State) (t : Trump) : State :=
  ((({ s with trumps := s.trumps.erase t }).dropAttempt t.requester t.line t.write).activateNext t.line).enterTable (s.homeOf t.line)

/-- A requester's operation on a line for which its entry is served has been performed (R373). -/
def State.operated (s : State) (who : Holder) (line : Nat) : State :=
  match s.activeTrump line with
  | none => s
  | some t => if t.requester == who then s.freeEntry t else s

/-! ### Bandwidth of a context at a slice port (R309 to R311) -/

/-- RATE and BURST of a context, in 1,024ths of a token. -/
def State.rateOf (s : State) (asid : Nat) : Nat := ((s.context? asid).map fun c => fieldOf c.bw 0 12).getD 0
def State.burstOf (s : State) (asid : Nat) : Nat := 1024 * ((s.context? asid).map fun c => fieldOf c.bw 16 12).getD 0

/-- A context's bucket at a port; one that nothing has taken from is full. -/
def State.bucket (s : State) (port asid : Nat) : Bucket :=
  (s.buckets.find? fun b => b.port == port && b.asid == asid).getD ⟨port, asid, s.burstOf asid, 0, 0, []⟩

/-- Setting a bucket. -/
def State.setBucket (s : State) (b : Bucket) : State :=
  { s with buckets := s.buckets.filter (fun x => !(x.port == b.port && x.asid == b.asid)) ++ [b] }

/-- The shaped contexts of a port. -/
def State.shaped (s : State) : List Nat := (s.contexts.filter fun c => fieldOf c.bw 0 12 != 0).map Context.asid

/-- A context's request for a line that arrives at a port passes at once, or waits there (R310, R311): it goes where the port
has admitted it before; else only where no earlier request waits, and its context is unshaped or has a token of its own,
which it takes. -/
def State.passPort (s : State) (port asid : Nat) (work : Option (Nat × Nat)) : Option State :=
  match s.grants.find? fun q => q.port == port && q.asid == asid && q.work == work with
  | some q => some { s with grants := s.grants.erase q }
  | none =>
    if s.ports.any fun q => q.port == port then none
    else if s.rateOf asid = 0 then some s
    else
      let b := s.bucket port asid
      if 1024 ≤ b.tokens then some (s.setBucket { b with tokens := b.tokens - 1024 }) else none

/-- A request waits at a port, after those that came before it (R311). -/
def State.waitPort (s : State) (port asid : Nat) (work : Option (Nat × Nat)) : State :=
  if s.ports.any fun q => q.port == port && q.asid == asid && q.work == work then s
  else { s with ports := s.ports ++ [⟨port, asid, false, work⟩] }

/-- The state once a context's requests have passed their ports, where all of them do (R310). -/
def State.passPorts (s : State) (asid : Nat) (work : Option (Nat × Nat)) : List Nat → Option State
  | [] => some s
  | p :: ps => (s.passPort p asid work).bind fun s => s.passPorts asid work ps

/-- The first of a context's requests that does not pass waits at its port. -/
def State.waitPorts (s here : State) (asid : Nat) (work : Option (Nat × Nat)) : List Nat → State
  | [] => s
  | p :: ps =>
    match here.passPort p asid work with
    | some h => s.waitPorts h asid work ps
    | none => s.waitPort p asid work

end Sys2Proof.Machine
end

