-- ==== Sys2Proof/Machine/Translate.lean ====
section
/-!
DEFINITION. Address translation (22): table entries, the walk at one and two stages, the contiguous hint, TLBs and walk
caches, and the removal of their entries.
-/
namespace Sys2Proof.Machine

/-- Why a walk failed (R390). KIND: 1 NOT_PRESENT, 2 PERMISSION, 3 RESERVED_BIT, 4 NON_CANONICAL, 5 BAD_FRAME,
6 SCRATCH_RANGE. -/
structure WalkFault where
  kind   : Nat
  level  : Nat
  stage2 : Bool
  deriving DecidableEq, Repr

/-- A leaf that a walk reached. `size` is the log2 of the bytes it maps. -/
structure Leaf where
  out    : Nat
  size   : Nat
  attr   : Nat
  r      : Bool
  w      : Bool
  x      : Bool
  u      : Bool
  global : Bool
  ac     : Bool
  level  : Nat
  deriving DecidableEq, Repr

/-- Who walks: the context, its function's stage-2 root, the cluster port whose row of the matrix applies (R453), whether
its tables must lie in host memory (R376), and whether it is the context engine, which a leaf with U = 0 admits (R381). -/
structure Walker where
  asid : Nat
  func : Nat
  root : Nat
  s2   : Nat
  port : Option Nat
  host : Bool
  engine : Bool
  deriving DecidableEq, Repr

/-- The walker of a context's programs. -/
def State.walker (s : State) (c : Context) (port : Option Nat) : Walker :=
  ⟨c.asid, c.func, c.root, (s.func c.func).s2root, port, c.hosttab, false⟩

/-- A canonical address (R379). -/
def canonical (va : DWord) : Bool :=
  let top := va.extractLsb' 56 8
  top == 0x00 || top == 0xFF

/-- The index of a level (R379). -/
def vaIndex (va level : Nat) : Nat := va / 2 ^ (48 - 9 * level) % 512

/-- log2 of what a leaf at a level maps (R379). -/
def leafSize (level : Nat) : Nat := 12 + 9 * (4 - level)

/-- An entry that is reserved at its level (R382). -/
def entryReserved (e level : Nat) (stage2 : Bool) : Bool :=
  let leaf := e.testBit 1
  e / 2 ^ 60 % 16 != 0 || e / 2 ^ 56 % 8 != 0 || e / 4 % 4 != 0
    || (!leaf && level == 4) || (leaf && level < 2)
    || (!leaf && (e.testBit 59 || e / 16 % 256 != 0))
    || e / 512 % 4 == 3 || (e.testBit 5 && !e.testBit 4)
    || (e.testBit 11 && leaf && (level == 2 || level == 3))
    || (leaf && level == 3 && e / 2 ^ 12 % 2 ^ 9 != 0)
    || (leaf && level == 2 && e / 2 ^ 12 % 2 ^ 18 != 0)
    || (stage2 && leaf && (e.testBit 8 || e.testBit 7 || e.testBit 59))

/-- The frame address of an entry (R381). -/
def entryFrame (e : Nat) : Nat := e / 2 ^ 12 % 2 ^ 44 * 2 ^ 12

/-- The mapping of a leaf at a level for an address (R382). -/
def leafOf (e level va : Nat) : Leaf :=
  let size := leafSize level
  ⟨entryFrame e + va / 4096 * 4096 % 2 ^ size, size, e / 512 % 4, e.testBit 4, e.testBit 5, e.testBit 6, e.testBit 7,
    e.testBit 8, e.testBit 59, level⟩

/-- A word's value at its home store, with the line data of the owner token's holder: what an L1 holds newer has not
reached it (R384). -/
def State.storedWord (s : State) (w : Nat) : Word := ((s.line (w / 32)).dirty.lookup (w % 32)).getD (s.homeWord w)

/-- An 8-byte read of a table entry at its home store (R384); of a table in host memory, the value current at the host
(R376). -/
def State.readEntry (s : State) (pa : Nat) : Nat :=
  let read := if inHost pa then s.word else s.storedWord
  (read (pa / 4)).toNat + 2 ^ 32 * (read (pa / 4 + 1)).toNat

/-- The frame of a leaf may be reached by the function (R157, R453, R459). -/
def State.leafFrameOk (s : State) (k : Walker) (pa : Nat) : Bool :=
  if !s.populated pa then false
  else if inHost pa || inPeer pa then true
  else
    (match s.imageAt? pa with
      | some i => i.mask.getLsbD k.func
      | none => s.frame (pa / 4096) == .owned k.func)
    && (match k.port, s.memPort pa with
      | some p, some m => (s.connRow p).getLsbD m
      | _, _ => true)

/-- The frame of a table is the function's or the system's (R384, R459). -/
def State.tableFrameOk (s : State) (k : Walker) (pa : Nat) : Bool :=
  s.inDevice pa && (s.frame (pa / 4096) == .owned k.func || s.frame (pa / 4096) == .owned 64)

/-- A stage-1 table may be read: host memory holds those of a context with host-resident tables (R376), and frames of the
function or of the system hold the others (R459). -/
def State.tableHere (s : State) (k : Walker) (pa : Nat) : Bool := if k.host then inHost pa else s.tableFrameOk k pa

/-- The log2 of what one TLB entry holds of a leaf of `size`: all of it where every frame in it passes the checks that the
walk makes of its page alone (R157, R384, R453, R459), else the page. -/
def State.spanOf (s : State) (k : Walker) (pa size : Nat) : Nat :=
  let first := pa / 2 ^ size * 2 ^ size
  let last := first + 2 ^ size - 1
  let frames := 2 ^ (size - 12)
  let outside := (inHost first && inHost last) || (inPeer first && inPeer last)
  let owned := (s.frames.filter fun x => first / 4096 ≤ x.1 && x.1 ≤ last / 4096 && x.2 == some (.owned k.func)).length
  let clear := s.images.all fun e => e.all fun i => last < i.base || i.base + (i.length + 4095) / 4096 * 4096 ≤ first
  let inOne := s.images.any fun e => e.any fun i =>
    i.base ≤ first && last < i.base + (i.length + 4095) / 4096 * 4096 && i.mask.getLsbD k.func
  let ports := (List.range (min 16 frames)).all fun n =>
    match k.port, s.memPort (first + 4096 * n) with
    | some p, some m => (s.connRow p).getLsbD m
    | _, _ => true
  if size ≤ 12 || (ports && (outside || inOne || (owned == frames && clear))) then size else 12

/-- The rights an access needs. -/
def rightsOk (kind : AccessKind) (r w x : Bool) : Bool :=
  match kind with
  | .read => r
  | .write => w
  | .fetch => x
  | .readWrite => r && w
  | .any => true

/-- The access writes. -/
def kindWrites : AccessKind → Bool
  | .write => true
  | .readWrite => true
  | _ => false

/-- The walk's step at one table: the entry's fault, its next table, or its leaf. -/
inductive Stepped where
  | fault (kind : Nat)
  | table (pa : Nat)
  | leaf (e : Nat)
  deriving DecidableEq, Repr

/-- Reading an entry and making the checks of R384 that do not need the leaf's mapping. -/
def State.walkEntry (s : State) (table level va : Nat) (stage2 : Bool) : Stepped :=
  let e := s.readEntry (table + 8 * vaIndex va level)
  if !e.testBit 0 then .fault 1
  else if entryReserved e level stage2 then .fault 3
  else if !e.testBit 1 then .table (entryFrame e)
  else .leaf e

/-- A contiguous block of a table: its 16 entries (R383). -/
def State.contBlock (s : State) (table va : Nat) : List Nat :=
  let j := vaIndex va 4 / 16
  (List.range 16).map fun i => s.readEntry (table + 8 * (16 * j + i))

/-- An entry that is a valid leaf with CONT = 1. -/
def contLeaf (e : Nat) : Bool := e.testBit 0 && e.testBit 1 && e.testBit 11

/-- The attribute bits that a matching block shares (R383). -/
def contAttrs (e : Nat) : Nat := e / 16 % 128 + 128 * (if e.testBit 59 then 1 else 0)

/-- The block matches (R383). -/
def contMatches (b : List Nat) : Bool :=
  let e0 := b.getD 0 0
  (List.range 16).all fun i =>
    let e := b.getD i 0
    contLeaf e && contAttrs e == contAttrs e0 && e / 2 ^ 12 % 16 == i && e / 2 ^ 16 % 2 ^ 40 == e0 / 2 ^ 16 % 2 ^ 40

/-- The leaf of a level-4 entry under the contiguous hint (R383); a mismatched block's choice is a free value, and faults
where the entry it takes is reserved. -/
def State.contLeafOf (s : State) (table va e : Nat) (stage2 : Bool) : Option Leaf :=
  if !e.testBit 11 then some (leafOf e 4 va)
  else
    let b := s.contBlock table va
    if contMatches b then
      let l := leafOf e 4 va
      some { l with out := l.out / 2 ^ 16 * 2 ^ 16 + va / 4096 * 4096 % 2 ^ 16, size := 16 }
    else
      let i := vaIndex va 4 % 16
      let others := (b.filter contLeaf).map fun x =>
        if entryReserved x 4 stage2 then none
        else some { leafOf x 4 va with out := entryFrame x / 2 ^ 16 * 2 ^ 16 + i * 2 ^ 12 }
      let choices := some (leafOf e 4 va) :: others
      choices.getD (Config.contiguousChoice s.draws % choices.length) none

/-- A stage-2 walk of an IPA (R385): from its root through the levels. -/
def State.walk2From (s : State) (k : Walker) (ipa : Nat) (kind : AccessKind) :
    List Nat → Nat → Except WalkFault Leaf
  | [], _ => .error ⟨3, 4, true⟩
  | level :: rest, table =>
    match s.walkEntry table level ipa true with
    | .fault n => .error ⟨n, level, true⟩
    | .table t => if s.tableFrameOk k t then s.walk2From k ipa kind rest t else .error ⟨5, level, true⟩
    | .leaf e =>
      match (if level = 4 then s.contLeafOf table ipa e true else some (leafOf e level ipa)) with
      | none => .error ⟨3, level, true⟩
      | some l =>
        if !s.leafFrameOk k l.out then .error ⟨5, level, true⟩
        else if !rightsOk kind l.r l.w l.x then .error ⟨2, level, true⟩
        else .ok l

/-- Stage 2 of an IPA; without a stage-2 root it is the identity (R385). -/
def State.walk2 (s : State) (k : Walker) (ipa : Nat) (kind : AccessKind) : Except WalkFault Leaf :=
  if k.s2 = 0 then .ok ⟨ipa / 4096 * 4096, 64, 0, true, true, true, true, false, false, 0⟩
  else if 2 ^ 56 ≤ ipa then .error ⟨5, 0, true⟩
  else s.walk2From k ipa kind [0, 1, 2, 3, 4] k.s2

/-- The physical address of a table at stage 1 (R384, R385, R459). -/
def State.tableAt (s : State) (k : Walker) (ipa level : Nat) : Except WalkFault Nat :=
  match s.walk2 k ipa .read with
  | .error f => .error f
  | .ok l => if s.tableHere k l.out then .ok l.out else .error ⟨5, level, false⟩

/-- The leaf's own checks and its second stage (R384, R385). -/
def State.finishWalk (s : State) (k : Walker) (l : Leaf) (va level : Nat) (kind : AccessKind) :
    Except WalkFault Tlb :=
  match s.walk2 k l.out (if (l.u || k.engine) && rightsOk kind l.r l.w l.x then kind else .any) with
  | .error f => .error f
  | .ok m =>
    if !s.leafFrameOk k m.out then .error ⟨5, level, false⟩
    else
      let image := (s.imageAt? m.out).isSome
      if !(l.u || k.engine) || !rightsOk kind l.r (l.w && !image) l.x then .error ⟨2, level, false⟩
      else
        let size := s.spanOf k m.out (min l.size m.size)
        .ok { asid := k.asid, func := k.func, global := l.global, va := va / 2 ^ size * 2 ^ size, size := size
              ipa := l.out - va % 2 ^ size / 4096 * 4096, pa := m.out - va % 2 ^ size / 4096 * 4096
              r := l.r && m.r, w := l.w && m.w && !image, x := l.x && m.x, attr := max l.attr m.attr, ac := l.ac }

/-- A stage-1 walk from a table on, with the non-leaf entries it passes (R384, R386). -/
def State.walkFrom (s : State) (k : Walker) (va : Nat) (kind : AccessKind) :
    List Nat → Nat → List WalkEntry → Except WalkFault (Tlb × List WalkEntry)
  | [], _, _ => .error ⟨3, 4, false⟩
  | level :: rest, table, seen =>
    match s.walkEntry table level va false with
    | .fault n => .error ⟨n, level, false⟩
    | .table t =>
      match s.tableAt k t level with
      | .error f => .error f
      | .ok pa => s.walkFrom k va kind rest pa (⟨k.asid, k.func, level, va / 2 ^ leafSize level, pa⟩ :: seen)
    | .leaf e =>
      match (if level = 4 then s.contLeafOf table va e false else some (leafOf e level va)) with
      | none => .error ⟨3, level, false⟩
      | some l =>
        match s.finishWalk k l va level kind with
        | .error f => .error f
        | .ok t => .ok (t, seen)

/-- The deepest walk-cache hit of an address (R386). -/
def walkHit (ws : List WalkEntry) (asid va : Nat) : Option WalkEntry :=
  ((List.range 4).reverse.filterMap fun level =>
    ws.find? fun w => w.asid == asid && w.level == level && w.va == va / 2 ^ leafSize level).head?

/-- A walk by a die's walker complex (R384, R386). -/
def State.walk (s : State) (die : Nat) (k : Walker) (va : DWord) (kind : AccessKind) :
    Except WalkFault (Tlb × List WalkEntry) :=
  if !canonical va then .error ⟨4, 0, false⟩
  else
    match walkHit (s.die die).walks k.asid va.toNat with
    | some w => s.walkFrom k va.toNat kind ((List.range 5).drop (w.level + 1)) w.table []
    | none =>
      match s.tableAt k k.root 0 with
      | .error f => .error f
      | .ok t => s.walkFrom k va.toNat kind [0, 1, 2, 3, 4] t []

/-! ### Cached translations (R386) -/

/-- An entry translates an address for a context. -/
def Tlb.hits (t : Tlb) (asid func va : Nat) : Bool :=
  (if t.global then t.func == func else t.asid == asid) && va / 2 ^ t.size == t.va / 2 ^ t.size

/-- The physical address that an entry gives. -/
def Tlb.pa' (t : Tlb) (va : Nat) : Nat := t.pa + va % 2 ^ t.size

/-- Installing at the head of a structure of a size. -/
def install {α : Type} [BEq α] (n : Nat) (x : α) (l : List α) : List α := (x :: l.filter (· != x)).take n

/-- The three first-level structures of a CU. -/
inductive TlbKind where
  | data | code | ahead
  deriving DecidableEq, Repr

/-- A CU's structure. -/
def Cu.tlbs (c : Cu) : TlbKind → List Tlb
  | .data => c.dtlb
  | .code => c.itlb
  | .ahead => c.ctlb

/-- Installing in the die's TLB of 1,024 sets of 8 ways; the set is that of the entry's page (DESIGN CHOICE, log 6). -/
def installSecond (t : Tlb) (l : List Tlb) : List Tlb :=
  let near := fun x : Tlb => x.va / 4096 % 1024 == t.va / 4096 % 1024
  t :: (((l.filter fun x => near x && x != t).take 7) ++ l.filter fun x => !near x)

/-- Installing a translation in a CU's structure and its die's (R386). -/
def State.installTlb (s : State) (c : Nat) (u : TlbKind) (t : Tlb) (ws : List WalkEntry) : State :=
  let s := s.modCu c fun k =>
    match u with
    | .data => { k with dtlb := install 64 t k.dtlb }
    | .code => { k with itlb := install 16 t k.itlb }
    | .ahead => { k with ctlb := install 256 t k.ctlb }
  s.modDie (dieOfCu c) fun d => { tlb := installSecond t d.tlb, walks := (ws ++ d.walks.filter fun w => !ws.contains w).take 1024 }

/-- The row of a CU's cluster port admits it to the port that homes an address (R453). -/
def State.portOpen (s : State) (c pa : Nat) : Bool :=
  match s.memPort pa with
  | some m => (s.connRow (portOfCu c)).getLsbD m
  | none => true

/-- A translation by a CU: its own structure, its die's, then a walk; it reaches the page's frame (R365). An entry that lacks
a right, or whose frame is homed at a port to which the CU's cluster is not admitted (R453), leads to a new walk. -/
def State.translate (s : State) (c : Nat) (u : TlbKind) (ctx : Context) (va : DWord) (kind : AccessKind) :
    Except WalkFault Tlb × State :=
  let ok := fun t : Tlb => t.hits ctx.asid ctx.func va.toNat && rightsOk kind t.r t.w t.x && s.portOpen c (t.pa' va.toNat)
  let reached := fun (s : State) (t : Tlb) => s.reach' c (t.pa' va.toNat / 4096)
  match ((s.cu c).tlbs u).find? ok with
  | some t => (.ok t, reached s t)
  | none =>
    match (s.die (dieOfCu c)).tlb.find? ok with
    | some t => (.ok t, reached (s.installTlb c u t []) t)
    | none =>
      let s' := { s with draws := s.draws + 1 }
      match s.walk (dieOfCu c) (s.walker ctx (some (portOfCu c))) va kind with
      | .ok (t, ws) => (.ok t, reached (s'.installTlb c u t ws) t)
      | .error f => (.error f, s')

/-- A translation that caches nothing, under the rights of programs: the registry's, and of kernel header words. -/
def State.translateSys (s : State) (ctx : Context) (va : DWord) (kind : AccessKind) : Except WalkFault Tlb :=
  (s.walk 0 (s.walker ctx none) va kind).map Prod.fst

/-- A translation of the context engine, which caches nothing: a leaf with U = 0 admits it (R381). -/
def State.translateEngine (s : State) (ctx : Context) (va : DWord) (kind : AccessKind) : Except WalkFault Tlb :=
  (s.walk 0 { s.walker ctx none with engine := true } va kind).map Prod.fst

/-- The physical runs, as address and byte count, of bytes at a virtual address, page by page; none where a translation
fails. -/
def State.runsOf (s : State) (ctx : Context) (va : DWord) (n : Nat) (kind : AccessKind) : Option (List (Nat × Nat)) :=
  (List.range ((va.toNat % 4096 + n + 4095) / 4096)).foldl (fun acc i =>
    acc.bind fun rs =>
      let a := if i = 0 then va.toNat else (va.toNat / 4096 + i) * 4096
      let len := min (4096 - a % 4096) (n - (rs.map Prod.snd).sum)
      match s.translateEngine ctx (BitVec.ofNat 64 a) kind with
      | .error _ => none
      | .ok t => some (rs ++ [(t.pa' a, len)])) (some [])

/-- The scheduler reads bytes at a virtual address; none where a translation fails, or where a word of them is poisoned (R52,
R425). -/
def State.readVa (s : State) (ctx : Context) (va : DWord) (n : Nat) : Option (List Byte) :=
  (s.runsOf ctx va n .read).bind fun rs =>
    if rs.any fun r => (wordsOf r.1 r.2).any s.poisoned then none else some (rs.flatMap fun r => s.peek r.1 r.2)

/-- The scheduler writes bytes at a virtual address, where its page translates for writing. -/
def State.writeVa (s : State) (ctx : Context) (va : DWord) (bs : List Byte) : State :=
  match s.translateEngine ctx va .write with
  | .error _ => s
  | .ok t => s.poke (t.pa' va.toNat) bs

/-- Writes of the scheduler at some virtual addresses, of a number of bytes each, wait for no token. -/
def State.writesFree (s : State) (ctx : Context) (xs : List (DWord × Nat)) : Bool :=
  xs.all fun x => (s.runsOf ctx x.1 x.2 .write).all fun rs => rs.all fun r => s.engineFree r.1 r.2 true

/-- What such writes wait for is asked for. -/
def State.writesDemand (s : State) (ctx : Context) (xs : List (DWord × Nat)) : State :=
  xs.foldl (fun (s : State) x => ((s.runsOf ctx x.1 x.2 .write).getD []).foldl (fun (s : State) r =>
    s.engineDemand r.1 r.2 true) s) s

/-! ### Invalidation (R145, R387) -/

/-- Removing the entries that satisfy a test from every structure of every die and CU, and the walk-cache entries and
instruction-cache lines that satisfy theirs (R387). -/
def State.removeTlbs (s : State) (t : Tlb → Bool) (w : WalkEntry → Bool) (i : CodeLine → Bool) : State :=
  let keep := fun l : List Tlb => l.filter fun x => !t x
  { s with
    cus := s.cus.map fun x => (x.1, { x.2 with
      dtlb := keep x.2.dtlb, itlb := keep x.2.itlb, ctlb := keep x.2.ctlb
      lines := x.2.lines.filter fun y => !i y
      fetching := x.2.fetching.filter fun y => !i ⟨y.asid, y.va, y.pa / 4096, [], [], 0⟩ })
    dies := s.dies.map fun x => (x.1, { tlb := keep x.2.tlb, walks := x.2.walks.filter fun y => !w y }) }

end Sys2Proof.Machine
end

