-- ==== Sys2Proof/Machine/Trap.lean ====
section
/-!
DEFINITION. Faults (05, R136 to R143): their codes and records, taking a fault by its class, entering the context trap
handler, the return from it, and parking on a replayable fault (R151, R152).
-/
namespace Sys2Proof.Machine

/-! ### Codes (R137) -/

def fIllegalHeader : Nat := 0x01
def fMisalignedTarget : Nat := 0x02
def fIllegalOpcode : Nat := 0x03
def fIllegalEncoding : Nat := 0x04
def fClassMismatch : Nat := 0x05
def fRoleClass : Nat := 0x06
def fIllegalReg : Nat := 0x07
def fRegIndex : Nat := 0x08
def fHazard : Nat := 0x09
def fUnitAbsent : Nat := 0x0A
def fPrivilegedOp : Nat := 0x0B
def fFormatSlot : Nat := 0x0C
def fJoinMismatch : Nat := 0x0D
def fJoinDeadlock : Nat := 0x0E
def fTeamResource : Nat := 0x0F
def fBarrierMismatch : Nat := 0x10
def fHandlerState : Nat := 0x11
def fSoftwareTrap : Nat := 0x12
def fBreakpoint : Nat := 0x13
def fAssertFail : Nat := 0x14
def fDoubleFault : Nat := 0x15
def fPageFault : Nat := 0x20
def fMisalignedAccess : Nat := 0x21
def fMemoryPoison : Nat := 0x22
def fTensorBounds : Nat := 0x23
def fTensorRights : Nat := 0x24
def fSymbolExhausted : Nat := 0x25
def fRegionEscape : Nat := 0x26
def fUncorrectable : Nat := 0x30
def fHang : Nat := 0x31
def fLinkFailure : Nat := 0x32
def fHostError : Nat := 0x33

/-- The codes of class FA (R137). -/
def fatalCodes : List Nat :=
  [fJoinDeadlock, fAssertFail, fDoubleFault, fUncorrectable, fHang, fLinkFailure, fHostError]

/-- A record of a fault without subtype (R138, R139). -/
def recordOf (code : Nat) (lanes : Mask) (pc : DWord) (addr : BitVec 64) (info : Nat) : FaultRecord :=
  ⟨BitVec.ofNat 32 code, lanes, BitVec.ofNat 32 info, pc, addr⟩

/-- The fault code word of a page fault (R138, R390). -/
def pageCode (f : WalkFault) (write fetch : Bool) : BitVec 32 :=
  BitVec.ofNat 32 (fPageFault + 2 ^ 8 * (f.kind + if f.stage2 then 16 else 0) + 2 ^ 16 * f.level
    + (if write then 2 ^ 19 else 0) + (if fetch then 2 ^ 20 else 0))

/-- A record of a page fault. -/
def pageRecord (f : WalkFault) (write fetch : Bool) (lanes : Mask) (pc : DWord) (addr : BitVec 64) : FaultRecord :=
  ⟨pageCode f write fetch, lanes, 0, pc, addr⟩

/-- CODE, SUBTYPE's KIND, LEVEL, WRITE and FETCH of a record. -/
def FaultRecord.fcode (r : FaultRecord) : Nat := fieldOf r.code 0 8
def FaultRecord.kind (r : FaultRecord) : Nat := fieldOf r.code 8 4
def FaultRecord.write (r : FaultRecord) : Bool := r.code.getLsbD 19
def FaultRecord.fetch (r : FaultRecord) : Bool := r.code.getLsbD 20

/-- Two faults are the same (R152). -/
def FaultRecord.same (a b : FaultRecord) : Bool :=
  a.pc == b.pc && a.addr == b.addr && a.code.extractLsb' 8 11 == b.code.extractLsb' 8 11

/-! ### The end of a context, begun (R143) -/

/-- A group stops as if every lane not yet exited had executed EXIT; its waits, parks and holds end (R448). -/
def Group.stop (g : Group) : Group :=
  { g with
    lanes := g.lanes.map Lane.exit
    wait0 := .none, wait1 := .none, waitSlot0 := 0, waitSlot1 := 0, trapWait := none, parked := none, redirect := none }

/-- The lowest PC of a group's lanes that have not exited. -/
def Group.lowPc (g : Group) : DWord := (g.minPc g.live).getD exitedPc

/-- SUMMARY's state of a group: 1 blocked, 2 parked on a fault, 3 with a fault that waits for its handler, 4 in handler
mode, 0 none of these (R466, DESIGN CHOICE, log 34). -/
def Group.summaryState (g : Group) : Nat :=
  if g.parked.isSome then 2
  else if g.trapWait.isSome then 3
  else if g.handler then 4
  else if g.live != 0 && (g.active == 0 || g.wait0 != .none || g.wait1 != .none) then 1
  else 0

/-- The fault record that SUMMARY reports of a group (R151, R466). -/
def Group.summaryRecord (g : Group) : FaultRecord := (g.parked.or g.trapWait).getD g.record

/-- What SUMMARY reports of a group. -/
def State.stuckOf (s : State) (g : Group) : Stuck :=
  ⟨((s.team? g.team).map Team.number).getD 0, g.index, g.cu, g.summaryState, g.lowPc, g.summaryRecord⟩

/-- What SUMMARY reports of the group whose fault ends its context: faulted, with the fault's record (R139). -/
def State.faultedAs (s : State) (g : Group) (r : FaultRecord) : Stuck := { s.stuckOf g with state := 3, record := r }

/-- What SUMMARY reports of a fault that ends a context and is no group's: its record, with no group's numbers (R139)
(DESIGN CHOICE, log 34). -/
def noGroup (r : FaultRecord) : Stuck := ⟨0, 0, 0, 3, 0, r⟩

/-- A fault of class FA: its record is kept, with the group whose fault it is, if it is one's, and those that are blocked or
parked; and every group of the context stops. The rest of the end is the event CONTEXT_END (R139, R143, R448). The first
fault ends the context. -/
def State.beginEndOf (s : State) (asid : Nat) (g : Option Group) (r : FaultRecord) : State :=
  match s.context? asid with
  | none => s
  | some c =>
    if c.state == .ending then s
    else
      let blocked := (s.groups.filter fun h =>
        s.asidOf h == asid && (h.summaryState == 1 || h.summaryState == 2) && (g.map Group.id) != some h.id).map s.stuckOf
      let fault := (g.map fun g => s.faultedAs g r).getD (noGroup r)
      let s := s.modContext asid fun c => { c with state := .ending, ended := some r, stuck := fault :: blocked }
      { s with groups := s.groups.map fun g => if s.asidOf g == asid then g.stop else g }

/-- The end of a context by a fault that is no group's. -/
def State.beginEnd (s : State) (asid : Nat) (r : FaultRecord) : State := s.beginEndOf asid none r

/-! ### The context trap handler (R140, R141) -/

/-- A lane enters a handler. -/
def Lane.enter (l : Lane) (target : DWord) : Lane :=
  { l with save := l.pos, setsr := false, entered := true, pos := Pos.entry target }

/-- Steps 2 to 4 of R140: the record is written, each lane that is neither exited nor parked enters, and the group is in
handler mode. -/
def Group.enterHandler (g : Group) (r : FaultRecord) (trap : DWord) : Group :=
  let g' := g.modLanes g.active fun l => l.enter trap
  { g' with record := r, handler := true, trapWait := none, parked := none
            saveWait0 := g.wait0, saveWait1 := g.wait1, saveSlot0 := g.waitSlot0, saveSlot1 := g.waitSlot1
            wait0 := .none, wait1 := .none, waitSlot0 := 0, waitSlot1 := 0 }

/-- A fault of class TH (R136, R140): fatal where the launch has no handler or the group is in it; entered at once where
no register is pending, and otherwise by TRAP_HANDLER_ENTRY when none is. Successes counted before it count no more (R152).
DOUBLE_FAULT records the PC that the first fault recorded at handler entry, and the second fault's code (R137, DEDUCED, log
15). -/
def State.takeTrap (s : State) (g : Group) (r : FaultRecord) : State :=
  let g := { g with replays := 0, lastFault := none }
  let trap := ((s.launchOf? g).map fun l => l.info.trap).getD 0
  if g.handler then
    s.beginEndOf (s.asidOf g) g (recordOf fDoubleFault r.lanes r.pc g.record.pc r.fcode)
  else if trap = 0 then s.beginEndOf (s.asidOf g) g r
  else if g.noPending then s.putGroup (g.enterHandler r trap)
  else s.putGroup { g with trapWait := some r, parked := none }

/-- A page request already outstanding asks for every right that a fault needs (R152). -/
def PageRequest.covers (q : PageRequest) (asid page : Nat) (r : FaultRecord) : Bool :=
  q.asid == asid && q.va == page && (!r.write || q.write) && (!r.fetch || q.fetch)

/-- A group parks on a replayable fault, joining an outstanding request or making a new one that asks for the rights of
both (R150 to R152) (DEDUCED, log 49). -/
def State.parkOn (s : State) (g : Group) (r : FaultRecord) : State :=
  let asid := s.asidOf g
  let page := r.addr.toNat / 4096 * 4096
  let s := s.putGroup { g with parked := some r }
  let s : State := { s with pageReqs := s.pageReqs.map fun q => { q with groups := q.groups.filter (· != g.id) } }
  match s.pageReqs.find? fun q => q.covers asid page r with
  | some q =>
    { s with pageReqs := updId PageRequest.id (fun q => { q with groups := insertNew g.id q.groups }) s.pageReqs q.id }
  | none =>
    let old := s.pageReqs.filter fun q => q.asid == asid && q.va == page
    let q : PageRequest :=
      { id := s.nextId, asid := asid, func := ((s.context? asid).map Context.func).getD 0
        pasid := ((s.context? asid).map Context.pasid).getD 0, va := page
        write := r.write || old.any PageRequest.write, fetch := r.fetch || old.any PageRequest.fetch
        sent := false, groups := [g.id] }
    { s with pageReqs := s.pageReqs ++ [q], nextId := s.nextId + 1 }

/-- The fault is replayable now: a page fault NOT_PRESENT or PERMISSION of a context with page requests enabled, whose
function has met no Response Failure (R138, R151). A write to an image frame is never replayable (R156). -/
def State.replayable (s : State) (g : Group) (r : FaultRecord) (image : Bool) : Bool :=
  r.fcode == fPageFault && (r.kind == 1 || r.kind == 2) && !image &&
    match s.contextOf? g with
    | some c => c.prq && !(s.func c.func).failed
    | none => false

/-- Taking a fault, by its class (R136). At the fourth consecutive Success followed by the same fault it is delivered as
TH (R152). -/
def State.takeFault (s : State) (g : Group) (r : FaultRecord) (image : Bool := false) : State :=
  if fatalCodes.contains r.fcode then s.beginEndOf (s.asidOf g) g r
  else if s.replayable g r image then
    let again := (g.lastFault.map fun l => l.same r).getD false
    if again && 4 ≤ g.replays then s.takeTrap g r
    else s.parkOn (if again then g else { g with replays := 0, lastFault := some r }) r
  else s.takeTrap g r

/-! ### The revocation redirect (R25, R26, R409) -/

/-- Every lane that has not exited goes to the handler; parks, holds and waits end, the joins are released and the
residency ends (R25, R409). -/
def Group.moveLanes (g : Group) (handler : DWord) : Group :=
  { g with
    lanes := g.lanes.map fun l =>
      if l.exited then l else { l with pos := Pos.entry handler, park := .running, entered := false }
    joins := List.replicate 16 ⟨0, 0⟩
    wait0 := .none, wait1 := .none, waitSlot0 := 0, waitSlot1 := 0, saveWait0 := .none, saveWait1 := .none
    trapWait := none, parked := none, region := none }

/-- The cause word is written once the drains have ended, after every register result of theirs (R409). -/
def Group.writeCause (g : Group) : Group :=
  match g.redirect with
  | some r =>
    if r.moved && g.ops.isEmpty then
      { ((lanesOf g.live).foldl (fun (g : Group) i => g.setReg r.reg i r.cause) g) with redirect := none }
    else g
  | none => g

/-- A group goes to its revocation handler. -/
def Group.redirectTo (g : Group) (r : Redirect) : Group :=
  ({ (g.moveLanes r.handler) with redirect := some { r with moved := true } }).writeCause

/-- A record of faults at steps 1 to 3 of R88, past which `.skip` does not move (R141). -/
def noSkip (r : FaultRecord) : Bool := [fIllegalHeader, fMisalignedTarget, fRoleClass].contains r.fcode

/-- The position to which TRAPRET, at `here`, returns a lane (R141). -/
def Lane.returnTo (l : Lane) (skip : Bool) (r : FaultRecord) (here : DWord) : Lane :=
  let pos :=
    if l.setsr then Pos.target l.savepc here
    else if skip && l.savepc == r.pc && !noSkip r then l.save.skip
    else l.save
  { l with pos := pos, entered := false }

end Sys2Proof.Machine
end

