-- ==== Sys2Proof/Machine/Operands.lean ====
section
/-!
DEFINITION. Operands of an issuing instruction: predicates and participants (R70, R111), permutations (R80, R165), and the
values read through them.
-/
namespace Sys2Proof.Machine

/-- What an issuing instruction sees: the group before the issue, the fields, the lanes that issue, the participants, the
half it acts for (0 outside forerunner mode), its address and its word, and all the lanes of the issue. -/
structure Ictx where
  g     : Group
  f     : Fields
  lanes : Mask
  parts : Mask
  half  : Nat
  addr  : DWord
  word  : DWord
  all   : Mask

/-- The predicate of a lane (R70). -/
def predHolds (g : Group) (f : Fields) (i : Nat) : Bool :=
  f.pred == 63 || ((g.reg f.pred.toNat i != 0#32) == (f.psense == 0))

/-- The participants of a mask (R111). -/
def participants (g : Group) (f : Fields) (m : Mask) : Mask := maskOf fun i => m.has i && predHolds g f i

/-- The lowest participant, from which a group operand is read (R111). -/
def Ictx.lead (c : Ictx) : Nat := (lowest c.parts).getD 0

/-- The source lane of a permuted read (R80, R165): `h` is the lane-high bit, 0 on an instruction marked †. -/
def srcLane (fwd : Bool) (perm p : Nat) (h : Bool) (i : Nat) : Nat :=
  let n := p + (if h then 16 else 0)
  let base := i / 16 * 16
  match perm with
  | 1 => if fwd then base + (i % 16 ^^^ n % 16) else i ^^^ n
  | 2 => i / 8 * 8 + (i + p) % 8
  | 3 => if fwd && p = 5 then i ^^^ 15 else i ^^^ (2 ^ p - 1)
  | 4 => if fwd then base + n % 16 else n
  | _ => i

/-- The source lane of source B for a lane of an issuing instruction. -/
def Ictx.src (c : Ictx) (dagger : Bool) (i : Nat) : Nat :=
  srcLane c.g.fwd c.f.perm.toNat c.f.pparam.toNat (!dagger && c.f.mod.getLsbD 2) i

/-- Source A of a lane. -/
def Ictx.a (c : Ictx) (i : Nat) : Word := c.g.reg c.f.srca.toNat i
/-- Source B of a lane, through the permutation. -/
def Ictx.b (c : Ictx) (i : Nat) : Word := c.g.reg c.f.srcb.toNat (c.src false i)
/-- Source B of a lane of an instruction marked †. -/
def Ictx.bt (c : Ictx) (i : Nat) : Word := c.g.reg c.f.srcb.toNat (c.src true i)
/-- Source C of a lane. -/
def Ictx.c (c : Ictx) (i : Nat) : Word := c.g.reg c.f.srcc.toNat i
/-- The destination's value before the instruction. -/
def Ictx.d (c : Ictx) (i : Nat) : Word := c.g.reg c.f.dst.toNat i
/-- 64-bit operands. -/
def Ictx.a64 (c : Ictx) (i : Nat) : DWord := c.g.reg64 c.f.srca.toNat i
def Ictx.b64 (c : Ictx) (i : Nat) : DWord := c.g.reg64 c.f.srcb.toNat i
def Ictx.c64 (c : Ictx) (i : Nat) : DWord := c.g.reg64 c.f.srcc.toNat i

/-- A 32-bit result in each participant's destination. -/
def Ictx.each (c : Ictx) (f : Nat → Word) : List RegWrite :=
  (lanesOf c.parts).map fun i => ⟨c.f.dst.toNat, i, f i⟩

/-- A 64-bit result in each participant's destination pair. -/
def Ictx.each64 (c : Ictx) (f : Nat → DWord) : List RegWrite :=
  (lanesOf c.parts).flatMap fun i =>
    [⟨c.f.dst.toNat, i, (f i).extractLsb' 0 32⟩, ⟨c.f.dst.toNat + 1, i, (f i).extractLsb' 32 32⟩]

/-- The sign-extended immediate (R69). -/
def Ictx.simm (c : Ictx) : Int := c.f.imm.toInt

/-- The registers that an instruction's encoded fields name, in field order, with its predicate (R35, R68); `v255` is
exempt. -/
def sigRegs (sg : Sig) (f : Fields) : List Nat :=
  (sg.dst.regs f.dst.toNat ++ sg.a.regs f.srca.toNat
    ++ (if sg.imm then [] else sg.b.regs f.srcb.toNat ++ sg.c.regs f.srcc.toNat)
    ++ (if f.pred == 63 then [] else [f.pred.toNat])).filter (· != 255)

/-- The affine registers that the fields name, as 256 + n (R76). -/
def sigAregs (sg : Sig) (f : Fields) : List Nat :=
  sg.dst.aregs f.dst.toNat ++ sg.a.aregs f.srca.toNat
    ++ (if sg.imm then [] else sg.b.aregs f.srcb.toNat ++ sg.c.aregs f.srcc.toNat)

/-- The source lane of LXCH for lane `i`, given b + c; the lane itself where the source is out of range (R134, R166). -/
def lxchLane (fwd : Bool) (m : BitVec 2) (s : Word) (i : Nat) : Nat :=
  if fwd then
    let base := i / 16 * 16
    let l := i % 16
    let j : Int :=
      if m == 0 then s.toNat % 16
      else if m == 1 then (l : Int) + s.toInt
      else if m == 2 then ((l : Int) + s.toNat) % 16
      else (l ^^^ s.toNat % 16 : Nat)
    if 0 ≤ j && j < 16 then base + j.toNat else i
  else
    let j : Int :=
      if m == 0 then s.toNat
      else if m == 1 then (i : Int) + s.toInt
      else if m == 2 then ((i : Int) + s.toNat) % 32
      else (i ^^^ s.toNat % 32 : Nat)
    if 0 ≤ j && j < 32 then j.toNat else i

/-! ### What an issue reads and writes at once (R74) -/

/-- The register that MOVX reads and MOVXW writes in a lane (R132). -/
def Group.indexOf (g : Group) (f : Fields) (i : Nat) : Nat := (g.reg f.srca.toNat i).toNat + f.srcc.toNat

/-- The multiplies, whose operands are captured at their engine issue and not where a lane arrives (R262, R269). -/
def capturesLater : Instr → Bool
  | .mma _ => true
  | .mmas _ => true
  | .mmacb _ => true
  | .mmad _ => true
  | _ => false

/-- The registers, as keys, that an instruction reads for the lanes `m`: its sources, source B through the permutation,
the register that MOVX indexes, the source lane's of LXCH, MOVHI's own destination, the registers that CVTN narrows, and its
predicate. What is read for the group, of lanes that are no participants, the instruction's own effect notes. -/
def Group.readKeys (g : Group) (i : Instr) (sg : Sig) (f : Fields) (m : Mask) : List Nat :=
  let own := (match i with
      | .lxch _ => []
      | _ => sg.a.regs f.srca.toNat ++ sg.a.aregs f.srca.toNat)
    ++ (if sg.imm then [] else sg.c.regs f.srcc.toNat ++ sg.c.aregs f.srcc.toNat ++ sg.b.aregs f.srcb.toNat)
    ++ (match i with
      | .movhi _ => [f.dst.toNat]
      | .cvtn _ => (List.range 8).map (f.srca.toNat + ·)
      | _ => [])
  let source := fun l => srcLane g.fwd f.perm.toNat f.pparam.toNat (!sg.dagger && f.mod.getLsbD 2) l
  (if f.pred == 63 then [] else (lanesOf m).map (regKey f.pred.toNat))
    ++ (lanesOf (if capturesLater i then 0 else participants g f m)).flatMap fun l =>
      own.map (regKey · l)
        ++ (if sg.imm then [] else (sg.b.regs f.srcb.toNat).map (regKey · (source l)))
        ++ (match i with
          | .movx _ => [regKey (g.indexOf f l) l]
          | .lxch _ => [regKey f.srca.toNat (lxchLane g.fwd (low f.mod)
              (g.reg f.srcb.toNat (source l) + f.srcc.zeroExtend 32) l)]
          | _ => [])

/-- The registers, as keys, that an instruction writes at issue for the lanes `m`; those of CVTW depend on its slot, and
its own effect notes them. -/
def Group.writeKeys (g : Group) (i : Instr) (sg : Sig) (f : Fields) (m : Mask) : List Nat :=
  if sg.long then []
  else
    (lanesOf (participants g f m)).flatMap fun l =>
      ((sg.dst.regs f.dst.toNat ++ sg.dst.aregs f.dst.toNat).filter (· != 255)).map (regKey · l)
        ++ (match i with
          | .movxw _ => [regKey (g.indexOf f l) l]
          | _ => [])

/-- Registers, as keys, are read by an instruction's own effect (R74). -/
def Group.noteReads (g : Group) (keys : List Nat) : Group := { g with ops := readAgain keys g.ops }

/-- The keys of a block of registers in all 32 lanes. -/
def blockKeys (first n : Nat) : List Nat := (List.range n).flatMap fun r => (List.range 32).map (regKey (first + r))

/-- The operations outstanding once a word has issued for the lanes `m`, as far as it reads and writes their registers
(R74). -/
def Group.used (g : Group) (w : DWord) (m : Mask) (ops : List Op) : List Op :=
  if ops.all fun o => o.pend == 0 then ops
  else
    match decodeWord w with
    | .error _ => ops
    | .ok i =>
      match i.sig?, i.fields? with
      | some sg, some f => overwritten (g.writeKeys i sg f m) (readAgain (g.readKeys i sg f m) ops)
      | _, _ => ops

end Sys2Proof.Machine
end

