-- ==== Sys2Proof/Machine/Issue.lean ====
section
/-!
DEFINITION. The issue of an instruction: what holds it back (R23, R73, R77), the checks 4 to 11 of R88, the advance of the
issuing lanes, the forerunner halves (R162), the check of R408, and the outstanding operation it leaves. Every encoded
instruction's meaning is this operation around its own effect.
-/
namespace Sys2Proof.Machine

/-- What an instruction's own effect comes to. -/
inductive Effect where
  /-- The effect is made. -/
  | done (s : State)
  /-- The group, or the half, waits at the instruction. -/
  | wait (w : Wait) (s : State)
  /-- A precise fault of step 12 after translations, in the state that they leave; `image` as above. Those that succeeded
  stay (R384, R392, R393). -/
  | trapAfter (r : FaultRecord) (image : Bool) (t : State)
  /-- The instruction does not issue: it would complete a join whose multiplies find no room (R41, R267). -/
  | stall
  /-- The instruction does not issue yet: what it reads or writes at once waits for tokens, which `ask` asks for (R369). -/
  | hold (ask : State → State)
  /-- A precise fault of step 12: the instruction has had no effect. -/
  | trap (r : FaultRecord)
  /-- A precise fault of step 12 that is never replayable: a write to an image frame (R156). -/
  | trapImage (r : FaultRecord)

/-- What a check found, with the state that its translations left, where it made any. -/
abbrev Checked (α : Type) := Except (FaultRecord × Option State) α

/-- The translations that `t` has made for a CU, and nothing else of it: its TLBs, its die's structures, and the frames that
they reached (R365, R366, R386). -/
def State.translatedBy (s : State) (c : Nat) (t : State) : State :=
  let k := t.cu c
  let s := s.modCu c fun x => { x with itlb := k.itlb, dtlb := k.dtlb, ctlb := k.ctlb }
  let s : State := { s with dies := t.dies, draws := t.draws }
  t.classes.foldl (fun (s : State) x =>
    match sget PageClass.untouched s.classes x.1, x.2 with
    | .untouched, .priv _ => s.setClass x.1 x.2
    | .priv d, .transit e => if d = e then s.setClass x.1 x.2 else s
    | _, _ => s) s

/-- How an instruction acts: for all its lanes together; once for the group, or for each half in forerunner mode, where
it has a participant (R111, R162); or so whether or not it has one. -/
inductive Acting where
  | whole | grouped | halved
  deriving DecidableEq, Repr

/-- What the checks 6 to 10 of R88 need beyond the word and the signature: block fields whose kinds a slot's ELEMENT
selects (R209, R265), the DEV_CAP bit of an absent unit, privilege, and the slot that fails R56. -/
structure Guard where
  blocks : List (Kind × Nat)
  unit   : Option Nat
  priv   : Bool
  slot   : Option Nat

/-- The guard of an instruction that uses no slot, no optional unit and no privilege. -/
def Guard.plain : Guard := ⟨[], none, false, none⟩

/-- The engine class that admits an opcode; none where every class does (R86). -/
def classOf (op : Nat) : Option Nat :=
  if op < 0x40 then none
  else if op < 0x80 then some 1
  else if op < 0xA0 then some 5
  else if op < 0xB0 then some 3
  else if op < 0xC0 then some 2
  else if op < 0xE0 then some 4
  else some 6

/-- The classes a role admits (R87); handler mode admits every class (R140). -/
def roleAdmits (g : Group) (engine : Nat) : Bool :=
  g.handler || match g.role with
    | 1 => [0, 5, 4].contains engine
    | 2 => [0, 5, 3].contains engine
    | 3 => [0, 5, 1, 2].contains engine
    | _ => true

/-- Opcodes that forerunner mode leaves unassigned (R168). -/
def fwdUnassigned (op : Nat) : Bool := (0xA0 ≤ op && op < 0xC0) || op == 0xC5 || op == 0xE5

/-- The counter that an instruction raises at issue (R22, R267, R279, R312). -/
def ocClass (op : Nat) : Option Nat :=
  if op == 0x8A || op == 0x8F then none
  else if 0x80 ≤ op && op < 0xA0 then some 0
  else if op == 0xB2 || op == 0xB3 then some 0
  else if 0xA0 ≤ op && op < 0xB0 then some 2
  else if op == 0xC5 then some 3
  else if 0xC0 ≤ op && op < 0xC5 then some 1
  else none

/-- A half's pending results of an operation hold an issue of the lanes `m` back (R73, R164). An AFOLD that is the second issue
after an ADECK of LOOK 1 so waits for the new Deck, and R249's second fault comes only under a greater LOOK (DEDUCED, log 63). -/
def Op.holds (o : Op) (fwd : Bool) (m : Mask) : Bool :=
  !o.dsts.isEmpty &&
    (if fwd then
      (o.pend &&& halfMask 0 != 0 && m &&& halfMask 0 != 0 && o.look ≤ o.since0)
        || (o.pend &&& halfMask 1 != 0 && m &&& halfMask 1 != 0 && o.look ≤ o.since1)
    else o.pend != 0 && o.look ≤ o.since0)

/-- The group is inside every lookahead window for an issue of the lanes `m` (R73, R164). -/
def Group.inWindows (g : Group) (m : Mask) : Bool := g.ops.all fun o => !o.holds g.fwd m

/-- Opcodes that act once for the group, or for each half, and then only with a participant (R111, R162). -/
def oncePerHalf (op : Nat) : Bool :=
  op == 0x07 || (0x0B ≤ op && op ≤ 0x15) || op == 0x17 || (0x8A ≤ op && op ≤ 0x8E) || op == 0x90 || op == 0x91
    || (0xC0 ≤ op && op ≤ 0xC5) || op == 0xE0 || op == 0xE1 || op == 0xE3 || op == 0xE4

/-- Opcodes that count toward a counter or a slot only with a participant: those above, the memory row and the affine
accesses (R237, R312), and the matrix instructions that act once for each issue (R268). -/
def needsParticipant (op : Nat) : Bool :=
  oncePerHalf op || (0x80 ≤ op && op < 0xA0) || op == 0xB2 || op == 0xB3 || (0xA4 ≤ op && op ≤ 0xA8)

/-- The multiplies, whose counter and slot rise at the engine issue (R267). -/
def multiplies (op : Nat) : Bool := 0xA0 ≤ op && op ≤ 0xA3

/-- How many issues an issue counts for toward its counter and its slot: one, or one for each half of a merged issue
(R162), whether or not a predicate holds unless the instruction needs a participant (R70). -/
def Group.starts (g : Group) (op : Nat) (f : Fields) (m : Mask) : Nat :=
  if multiplies op then 0
  else
    ((if g.fwd then [halfMask 0, halfMask 1] else [Mask.all]).filter fun h =>
      (if needsParticipant op then participants g f (m &&& h) else m &&& h) != 0).length

/-- An instruction is held back before its checks: by a window, or by its slot's 15 outstanding instructions (R73, R77,
R88). -/
def Group.heldBack (g : Group) (op : Nat) (f : Fields) (m : Mask) : Bool :=
  let n := g.starts op f m
  !g.inWindows m || (f.sbset != 0 && n != 0 && 15 < g.slotCount f.sbset.toNat + n)

/-- The copies and collectives that a CU's copy engine holds (R288). -/
def State.copiesOf (s : State) (c : Nat) : Nat :=
  (s.groups.filter fun g => g.cu == c).foldl (fun n g => n + (g.ops.filter fun o =>
    !o.done && match o.kind with | .copy _ _ _ _ => true | .coll _ _ => true | _ => false).length) 0

/-- A collective with an identifier is in flight on the module (R297). -/
def State.collInFlight (s : State) (id : Nat) : Bool :=
  s.groups.any fun g => g.ops.any fun o =>
    !o.done && match o.kind with | .coll c _ => c.collId == id | _ => false

/-- An instruction whose checks have passed finds no room: its counter stands at 63 (R23), the matrix engine's queue of 16
is full (R263, R267), the copy engine holds 64 copies (R288), or a collective of its identifier is in flight (R297). -/
def State.full (s : State) (g : Group) (op : Nat) (f : Fields) (m : Mask) : Bool :=
  let n := g.starts op f m
  (match ocClass op with
      | some cls => n != 0 && 63 < g.counter cls + n
      | none => false)
    || (0xA4 ≤ op && op ≤ 0xA8 && n != 0 && 16 ≤ (s.cu g.cu).matrixQueue.length)
    || (0xC0 ≤ op && op ≤ 0xC5 && n != 0 && 64 < s.copiesOf g.cu + n)
    || (op == 0xC5 && n != 0 && s.collInFlight
          (g.reg (f.srca.toNat + 6) ((lowest (participants g f m)).getD 0)).toNat)

/-- An instruction stalls at issue. -/
def State.stalled (s : State) (g : Group) (op : Nat) (f : Fields) (m : Mask) : Bool :=
  g.heldBack op f m || s.full g op f m

/-- Lanes issue: each moves past the instruction, and the issue counts in every window of its half (R61, R73, R164), with
what it reads and writes of pending registers (R74). -/
def Group.advance (g : Group) (cur : Cur) (m : Mask) (now : Nat) : Group :=
  let next := Pos.next ⟨cur.addr, cur.hdr, cur.hdrWord, .inClause⟩
  let g := g.modLanes m fun l => { l with pos := next }
  { g with
    ops := (g.used cur.word m g.ops).map fun o =>
      { o with since0 := if !g.fwd || m &&& halfMask 0 != 0 then o.since0 + 1 else o.since0
               since1 := if g.fwd && m &&& halfMask 1 != 0 then o.since1 + 1 else o.since1 }
    lastIssue := now }

/-- The registers that an instruction touches, as the hazard detector and ILLEGAL_REG see them: encoded fields and the
blocks that a slot selects (DEDUCED, log 26). -/
def touched (sg : Sig) (gd : Guard) (f : Fields) : List Nat :=
  sigRegs sg f ++ gd.blocks.flatMap fun b => (b.1.regs b.2).filter (· != 255)

/-- The registers that MOVX and MOVXW index in an issue, whatever the lanes' predicates (R76, R132). -/
def indexed (i : Instr) (g : Group) (f : Fields) (m : Mask) : List Nat :=
  let idx := ((lanesOf m).map fun k => g.indexOf f k).filter (· < 255)
  match i with
  | .movx _ => idx
  | .movxw _ => idx
  | _ => []

/-- The least of a list. -/
def least (l : List Nat) : Option Nat := l.foldl (fun a x => some ((a.getD x).min x)) none

/-- The hazard detector (R76, R164): the first-issued long-latency instruction with a pending register that the
instruction touches, and the lowest such register. -/
def Group.hazard (g : Group) (regs : List Nat) (m : Mask) : Option (DWord × Nat) :=
  (g.ops.filterMap fun o =>
    if o.pend == 0 || (g.fwd && o.pend &&& ((if m &&& halfMask 0 != 0 then halfMask 0 else 0)
        ||| (if m &&& halfMask 1 != 0 then halfMask 1 else 0)) == 0) then none
    else (least (o.dsts.filter regs.contains)).map fun r => (o.pc, r)).head?

/-- Checks 4 to 11 of R88 at an instruction; the header's are made when it is reached. -/
def State.checks (s : State) (g : Group) (cur : Cur) (i : Instr) (f : Fields) (gd : Guard) : Option FaultRecord :=
  let op := fieldOf cur.word 56 8
  let engine := fieldOf cur.hdrWord 16 3
  let word := fun code info => some (recordOf code cur.lanes cur.addr cur.word info)
  match i.sig? with
  | none => word fIllegalOpcode 0
  | some sg =>
    if g.fwd && fwdUnassigned op then word fIllegalOpcode 0
    else if (match classOf op with | some k => k != engine | none => false) then word fClassMismatch engine
    else if !i.wf || (g.fwd && sg.dst == .j && 8 ≤ f.dst.toNat) || !(gd.blocks.all fun b => b.1.ok b.2) then
      word fIllegalEncoding 0
    else
      match gd.unit with
      | some u => word fUnitAbsent u
      | none =>
        match (touched sg gd f).find? fun r => g.nregs ≤ r with
        | some r => word fIllegalReg r
        | none =>
          if gd.priv && !(((s.contextOf? g).map Context.priv).getD false) then word fPrivilegedOp 0
          else
            match gd.slot with
            | some k =>
              some (recordOf fFormatSlot cur.lanes cur.addr
                (((s.launchOf? g).map fun l => l.info.slots.getD k 0).getD 0) k)
            | none =>
              if ((s.launchOf? g).map fun l => l.info.debug).getD false then
                (g.hazard (touched sg gd f ++ sigAregs sg f ++ indexed i g f cur.lanes) cur.lanes).map fun h =>
                  recordOf fHazard cur.lanes cur.addr h.1 h.2
              else none

/-- A resident group's lanes that would leave their region (R408): the lowest lane's PC. EXIT and entries to a handler are
no such move. -/
def State.escape (s : State) (g' : Group) (addr : DWord) (m : Mask) : Option FaultRecord :=
  match g'.region, (s.launchOf? g') with
  | some k, some l =>
    match l.regions[k]? with
    | some r =>
      let out := maskOf fun i =>
        m.has i && !(g'.lane i).exited
          && ((g'.lane i).pc.toNat < r.start.toNat || r.stop.toNat ≤ (g'.lane i).pc.toNat)
      match lowest out with
      | some i => some (recordOf fRegionEscape out addr (g'.lane i).pc k)
      | none => none
    | none => none
  | _, _ => none

/-- One action of the instruction, for the lanes `m` of the half `half` (R162). An instruction that acts once for the
group, and has no participant, does nothing (R111). -/
def State.act (s : State) (cur : Cur) (f : Fields) (how : Acting) (own : Ictx → State → Effect) (half : Nat)
    (m : Mask) : Effect :=
  match s.group? cur.group with
  | none => .done s
  | some g =>
    let c : Ictx := ⟨g, f, m, participants g f m, half, cur.addr, cur.word, cur.lanes⟩
    let s' := s.putGroup ((g.advance cur m s.now).setWait half .none)
    let e := if how == .grouped && c.parts == 0 then .done s' else own c s'
    match e with
    | .done t =>
      if g.handler && (t.group? cur.group).all (fun g' => g'.handler) then .done t
      else
        match (t.group? cur.group).bind fun g' => t.escape g' cur.addr m with
        | some r => .trapAfter r false t
        | none => .done t
    | .wait w t => .done (t.modGroup cur.group fun g' => ({ g' with lanes := g.lanes, ops := g.ops, lastIssue := g.lastIssue }).setWait half w f.sbset.toNat)
    | e => e

/-- The actions of the halves, half 0 first (R162). A fault of either leaves the whole instruction without effect
(DEDUCED, log 9). -/
def State.acts (s : State) (cur : Cur) (f : Fields) (how : Acting) (own : Ictx → State → Effect) :
    List (Nat × Mask) → Effect
  | [] => .done s
  | (h, m) :: rest =>
    match s.act cur f how own h m with
    | .done t => t.acts cur f how own rest
    | .wait _ t => t.acts cur f how own rest
    | .stall => .stall
    | .hold ask => .hold ask
    | .trap r => .trap r
    | .trapImage r => .trapImage r
    | .trapAfter r image t => .trapAfter r image t

/-- The halves for which an issue acts. -/
def actions (fwd : Bool) (how : Acting) (m : Mask) : List (Nat × Mask) :=
  if fwd && how != .whole then
    ([0, 1].map fun h => (h, m &&& halfMask h)).filter fun x => x.2 != 0
  else [(if fwd && m &&& halfMask 0 == 0 then 1 else 0, m)]

/-- Which half or halves issued (R161). -/
def issuedHalf (m : Mask) : Nat :=
  if m &&& halfMask 1 == 0 then 0 else if m &&& halfMask 0 == 0 then 1 else 2

/-- Which half or halves an issue's turn belongs to: a half that comes back to an instruction at which it waited has had
its turn (R161). -/
def Group.turn (g : Group) (m : Mask) : Nat :=
  let fresh := (if g.wait0 == .none then m &&& halfMask 0 else 0) ||| (if g.wait1 == .none then m &&& halfMask 1 else 0)
  if fresh == 0 then g.lastHalf else issuedHalf fresh

/-- The issue is that of an instruction whose last fault was answered with Success, and which has now been replayed
(R152). -/
def Group.replayed (g : Group) (cur : Cur) : Bool :=
  g.lastFault.any fun r => r.pc == cur.addr || r.pc == cur.hdr

/-- The issue of `cur` by a group that stood as `g` is over: its turn (R161), and the end of its replays (R152). -/
def Group.closeIssue (h g : Group) (cur : Cur) : Group :=
  { h with
    lastHalf := g.turn cur.lanes
    replays := if g.replayed cur then 0 else h.replays
    lastFault := if g.replayed cur then none else h.lastFault }

/-- The issue of an instruction: held back, faulting at a check, without room, or acting. -/
def issue (i : Instr) (f : Fields) (how : Acting) (guard : State → Group → Fields → Guard)
    (own : Ictx → State → Effect) (s : State) : Host.Outcome State Fault Refusal :=
  match s.cur with
  | none => .fault .noIssue
  | some cur =>
    match s.group? cur.group with
    | none => .fault .noIssue
    | some g =>
      let s := { s with cur := none }
      let op := fieldOf cur.word 56 8
      if g.heldBack op f cur.lanes then .next s
      else
        match s.checks g cur i f (guard s g f) with
        | some r => .next (s.takeFault g r)
        | none =>
          if s.full g op f cur.lanes then .next s
          else
            match s.acts cur f how own (actions g.fwd how cur.lanes) with
            | .done t => .next (t.modGroup g.id fun h => h.closeIssue g cur)
            | .wait _ t => .next t
            | .stall => .next s
            | .hold ask => .next (ask s)
            | .trap r => .next (s.takeFault g r)
            | .trapImage r => .next (s.takeFault g r true)
            | .trapAfter r image t => .next ((s.translatedBy g.cu t).takeFault g r image)

/-- An instruction without slot, optional unit or privilege. -/
def plain (i : Instr) (f : Fields) (own : Ictx → State → Effect) (s : State) : Host.Outcome State Fault Refusal :=
  issue i f .whole (fun _ _ _ => Guard.plain) own s

/-- An instruction marked G (R111, R162). -/
def once (i : Instr) (f : Fields) (own : Ictx → State → Effect) (s : State) : Host.Outcome State Fault Refusal :=
  issue i f .grouped (fun _ _ _ => Guard.plain) own s

/-- Register results written at issue: a fixed-latency instruction (R72). -/
def State.writeResults (s : State) (c : Ictx) (ws : List RegWrite) : State :=
  s.modGroup c.g.id fun g => g.writeRegs ws

/-- A fixed-latency instruction whose results are known. -/
def results (i : Instr) (f : Fields) (ws : Ictx → List RegWrite) (s : State) : Host.Outcome State Fault Refusal :=
  plain i f (fun c s => .done (s.writeResults c (ws c))) s

/-- An operation becomes outstanding: its counter, its slot and its pending registers (R22, R73, R77). -/
def State.start (s : State) (c : Ictx) (dsts : List Nat) (pend : Mask) (kind : OpKind) : State :=
  let o : Op :=
    { id := s.nextId, pc := c.addr, cls := ocClass (fieldOf c.word 56 8), slot := c.f.sbset.toNat, look := c.f.look.toNat
      since0 := 0, since1 := 0, lanes := c.lanes, dsts := dsts.filter (· != 255)
      pend := if (dsts.filter (· != 255)).isEmpty then 0 else pend, kind := kind
      weight := max 1 (c.g.starts (fieldOf c.word 56 8) c.f c.lanes), late := [], shadow := [], fixed := [], done := false }
  { (s.modGroup c.g.id fun g => { g with ops := g.ops ++ [o] }) with nextId := s.nextId + 1 }

/-- A long-latency instruction whose results are known at issue and land later (R73). -/
def later (i : Instr) (f : Fields) (dsts : List Nat) (ws : Ictx → List RegWrite) (s : State) :
    Host.Outcome State Fault Refusal :=
  plain i f (fun c s =>
    .done (s.start c dsts c.parts (.result (ws c) []))) s

end Sys2Proof.Machine
end

