-- ==== Sys2Proof/Machine/Integer.lean ====
section
/-!
DEFINITION. Row 1: integer, move and cross-lane instructions (05, R127 to R135; forerunner reads, 07, R165 to R167).
-/
namespace Sys2Proof.Machine

/-- An operand as a number: signed under `.s.sat`, else unsigned (R128). -/
def readInt {w : Nat} (signed : Bool) (x : BitVec w) : Int := if signed then x.toInt else (x.toNat : Int)

/-- Narrowing of an exact result by the S code (R128). -/
def narrowS (w : Nat) (m : BitVec 2) (x : Int) : BitVec w :=
  if m == 1 then BitVec.ofInt w (max 0 (min x (2 ^ w - 1)))
  else if m == 3 then BitVec.ofInt w (max (-2 ^ (w - 1)) (min x (2 ^ (w - 1) - 1)))
  else BitVec.ofInt w x

/-- A result of the S family (R128). -/
def arithS {w : Nat} (f : Fields) (op : Int → Int → Int → Int) (a b c : BitVec w) : BitVec w :=
  let sg := low f.mod == 3
  narrowS w (low f.mod) (op (readInt sg a) (readInt sg b) (readInt sg c))

/-- `.s` of the X code (R127). -/
def signedX (f : Fields) : Bool := low f.mod == 2

/-- Left shift (R129). -/
def shl32 (a b : Word) : Word := if 32 ≤ b.toNat then 0 else a <<< b.toNat

/-- Right shift (R129). -/
def shr32 (signed : Bool) (a b : Word) : Word :=
  if signed then a.sshiftRight (min b.toNat 31) else if 32 ≤ b.toNat then 0 else a >>> b.toNat

/-- Bits e−1:pos of a value as a number (R129). -/
def bitsOf (x : Word) (pos e : Nat) : Nat := x.toNat / 2 ^ pos % 2 ^ (e - pos)

/-- BFE (R129). -/
def bfe32 (signed : Bool) (a b : Word) : Word :=
  let pos := fieldOf b 0 8
  let len := fieldOf b 8 8
  if len = 0 || 32 ≤ pos then 0
  else
    let e := min (pos + len) 32
    let x := bitsOf a pos e
    if signed && a.getLsbD (e - 1) then BitVec.ofInt 32 ((x : Int) - 2 ^ (e - pos)) else BitVec.ofNat 32 x

/-- BFI (R129). -/
def bfi32 (a b c : Word) : Word :=
  let pos := fieldOf b 0 8
  let len := fieldOf b 8 8
  if len = 0 || 32 ≤ pos then c
  else
    let e := min (pos + len) 32
    let lo := c.toNat % 2 ^ pos
    let mid := a.toNat % 2 ^ (e - pos)
    let hi := c.toNat / 2 ^ e
    BitVec.ofNat 32 (lo + mid * 2 ^ pos + hi * 2 ^ e)

/-- All ones where a condition holds (R130). -/
def ones (p : Bool) : Word := if p then 0xFFFFFFFF#32 else 0#32

/-- The conditions of ISET (R130). -/
def cond (m : BitVec 3) (a b : Int) : Bool :=
  match m.toNat with
  | 0 => a == b
  | 1 => a != b
  | 2 => a < b
  | 3 => a ≤ b
  | 4 => b < a
  | _ => b ≤ a

/-- BWIN (R133). -/
def bwin (a b c : Word) : Word :=
  let x := (b ++ a).toNat
  let sh := fieldOf c 0 3
  let win := (List.range 4).map fun k => x / 2 ^ (8 * ((k + sh) % 8)) % 256
  let win := if c.getLsbD 3 then win.reverse else win
  let out := (List.range 4).foldl (fun (acc : List Nat) k =>
    let v :=
      if c.getLsbD (4 + k) then 0
      else if c.getLsbD (8 + k) && 0 < k then (if 128 ≤ acc.getD (k - 1) 0 then 255 else 0)
      else win.getD k 0
    acc ++ [v]) []
  BitVec.ofNat 32 (out.getD 0 0 + 256 * out.getD 1 0 + 65536 * out.getD 2 0 + 16777216 * out.getD 3 0)

/-- The participants whose values a lane's LMASK combines, and the width of their set: the half's in forerunner mode
(R135, R167). -/
def lmaskSet (c : Ictx) (i : Nat) : Mask × Nat × Nat :=
  if c.g.fwd then (c.parts &&& halfMask (i / 16), i / 16 * 16, 16) else (c.parts, 0, 32)

/-- LMASK for lane `i` (R135, R167). -/
def lmask (c : Ictx) (i : Nat) : Word :=
  let (m, base, n) := lmaskSet c i
  let ls := lanesOf m
  let set := ls.filter fun j => c.bt j != 0
  match c.f.mod.toNat with
  | 0 => set.foldl (fun x j => x ||| (1#32 <<< (j - base))) 0
  | 1 => BitVec.ofNat 32 set.length
  | 2 => ones (set.length == ls.length)
  | 3 => ones (!set.isEmpty)
  | 4 => ones (ls.all fun j => c.bt j == c.bt (ls.headD 0))
  | 5 => BitVec.ofNat 32 ((set.head?.map (· - base)).getD n)
  | _ => BitVec.ofNat 32 ((set.getLast?.map (· - base)).getD n)

/-- One LCOMB operation (R135). -/
def lcombOp (m : BitVec 3) (x y : Word) : Word :=
  match m.toNat with
  | 0 => x + y
  | 1 => if x.toInt ≤ y.toInt then x else y
  | 2 => if x.toInt ≤ y.toInt then y else x
  | 3 => if x.toNat ≤ y.toNat then x else y
  | 4 => if x.toNat ≤ y.toNat then y else x
  | 5 => x &&& y
  | 6 => x ||| y
  | _ => x ^^^ y

/-- LCOMB for lane `i`: over the participants of its lane block (R135); in forerunner mode a block of 32 is one of 16
(R167). -/
def lcomb (c : Ictx) (i : Nat) : Word :=
  let k := if c.g.fwd then min c.f.srcc.toNat 4 else c.f.srcc.toNat
  let block := (lanesOf c.parts).filter fun j => j / 2 ^ k == i / 2 ^ k
  match block.map c.bt with
  | [] => 0
  | x :: xs => xs.foldl (lcombOp c.f.mod) x

/-- The index of a MOVX or MOVXW in a lane (R132). -/
def Ictx.index (c : Ictx) (i : Nat) : Nat := (c.a i).toNat + c.f.srcc.toNat

/-- The lanes whose index names no register: REG_INDEX (R35, R132). -/
def Ictx.badIndex (c : Ictx) : Mask :=
  maskOf fun i => c.parts.has i && (c.g.nregs ≤ c.index i || c.index i == 255)

/-- REG_INDEX, where some participant's index names no register (R132, R137). -/
def Ictx.indexFault (c : Ictx) : Option FaultRecord :=
  (lowest c.badIndex).map fun i =>
    recordOf fRegIndex c.badIndex c.addr (BitVec.ofNat 64 (c.index i)) c.g.nregs

/-- IADD (R127, R128). -/
def execIadd (f : Fields) (s : State) : Host.Outcome State Fault Refusal :=
  results (.iadd f) f (fun c => c.each fun i => arithS f (fun a b _ => a + b) (c.a i) (c.b i) 0) s

/-- ISUB (R127, R128). -/
def execIsub (f : Fields) (s : State) : Host.Outcome State Fault Refusal :=
  results (.isub f) f (fun c => c.each fun i => arithS f (fun a b _ => a - b) (c.a i) (c.b i) 0) s

/-- IMUL (R127, R128). -/
def execImul (f : Fields) (s : State) : Host.Outcome State Fault Refusal :=
  results (.imul f) f (fun c => c.each fun i => arithS f (fun a b _ => a * b) (c.a i) (c.b i) 0) s

/-- IMULH (R127, R128): floor(a × b / 2^32) mod 2^32. -/
def execImulh (f : Fields) (s : State) : Host.Outcome State Fault Refusal :=
  results (.imulh f) f (fun c => c.each fun i => BitVec.ofInt 32 (readInt (signedX f) (c.a i) * readInt (signedX f) (c.b i) / 2 ^ 32)) s

/-- IMAD (R127, R128). -/
def execImad (f : Fields) (s : State) : Host.Outcome State Fault Refusal :=
  results (.imad f) f (fun c => c.each fun i => arithS f (fun a b c => a * b + c) (c.a i) (c.b i) (c.c i)) s

/-- IADDI (R127, R128): the immediate is signed in every mode. -/
def execIaddi (f : Fields) (s : State) : Host.Outcome State Fault Refusal :=
  results (.iaddi f) f (fun c => c.each fun i => narrowS 32 (low f.mod) (readInt (low f.mod == 3) (c.a i) + c.simm)) s

/-- IMIN (R127, R128). -/
def execImin (f : Fields) (s : State) : Host.Outcome State Fault Refusal :=
  results (.imin f) f (fun c => c.each fun i => if readInt (signedX f) (c.a i) ≤ readInt (signedX f) (c.b i) then c.a i else c.b i) s

/-- IMAX (R127, R128). -/
def execImax (f : Fields) (s : State) : Host.Outcome State Fault Refusal :=
  results (.imax f) f (fun c => c.each fun i => if readInt (signedX f) (c.a i) ≤ readInt (signedX f) (c.b i) then c.b i else c.a i) s

/-- AND (R127). -/
def execAnd (f : Fields) (s : State) : Host.Outcome State Fault Refusal :=
  results (.and f) f (fun c => c.each fun i => c.a i &&& c.b i) s

/-- OR (R127). -/
def execOrr (f : Fields) (s : State) : Host.Outcome State Fault Refusal :=
  results (.orr f) f (fun c => c.each fun i => c.a i ||| c.b i) s

/-- XOR (R127). -/
def execXor (f : Fields) (s : State) : Host.Outcome State Fault Refusal :=
  results (.xor f) f (fun c => c.each fun i => c.a i ^^^ c.b i) s

/-- ANDN (R127). -/
def execAndn (f : Fields) (s : State) : Host.Outcome State Fault Refusal :=
  results (.andn f) f (fun c => c.each fun i => c.a i &&& ~~~ c.b i) s

/-- SHL (R129). -/
def execShl (f : Fields) (s : State) : Host.Outcome State Fault Refusal :=
  results (.shl f) f (fun c => c.each fun i => shl32 (c.a i) (c.b i)) s

/-- SHR (R129). -/
def execShr (f : Fields) (s : State) : Host.Outcome State Fault Refusal :=
  results (.shr f) f (fun c => c.each fun i => shr32 (signedX f) (c.a i) (c.b i)) s

/-- IADD64 (R127, R128). -/
def execIadd64 (f : Fields) (s : State) : Host.Outcome State Fault Refusal :=
  results (.iadd64 f) f (fun c => c.each64 fun i => arithS f (fun a b _ => a + b) (c.a64 i) (c.b64 i) 0) s

/-- IADDI64 (R127, R128): the immediate is signed in every mode. -/
def execIaddi64 (f : Fields) (s : State) : Host.Outcome State Fault Refusal :=
  results (.iaddi64 f) f (fun c => c.each64 fun i => narrowS 64 (low f.mod) (readInt (low f.mod == 3) (c.a64 i) + c.simm)) s

/-- POPC (R127). -/
def execPopc (f : Fields) (s : State) : Host.Outcome State Fault Refusal :=
  results (.popc f) f (fun c => c.each fun i => BitVec.ofNat 32 (popcount (c.b i))) s

/-- CLZ (R127). -/
def execClz (f : Fields) (s : State) : Host.Outcome State Fault Refusal :=
  results (.clz f) f (fun c => c.each fun i => BitVec.ofNat 32 (if c.b i == 0 then 32 else 31 - Nat.log2 (c.b i).toNat)) s

/-- BREV (R127). -/
def execBrev (f : Fields) (s : State) : Host.Outcome State Fault Refusal :=
  results (.brev f) f (fun c => c.each fun i => (c.b i).reverse) s

/-- BFE (R129). -/
def execBfe (f : Fields) (s : State) : Host.Outcome State Fault Refusal :=
  results (.bfe f) f (fun c => c.each fun i => bfe32 (signedX f) (c.a i) (c.b i)) s

/-- BFI (R129). -/
def execBfi (f : Fields) (s : State) : Host.Outcome State Fault Refusal :=
  results (.bfi f) f (fun c => c.each fun i => bfi32 (c.a i) (c.b i) (c.c i)) s

/-- ISET (R130). -/
def execIset (f : Fields) (s : State) : Host.Outcome State Fault Refusal :=
  results (.iset f) f (fun c => c.each fun i => ones (cond f.mod (readInt (f.srcc == 0) (c.a i)) (readInt (f.srcc == 0) (c.bt i)))) s

/-- SEL (R127). -/
def execSel (f : Fields) (s : State) : Host.Outcome State Fault Refusal :=
  results (.sel f) f (fun c => c.each fun i => if c.c i != 0 then c.a i else c.b i) s

/-- MOV (R127). -/
def execMov (f : Fields) (s : State) : Host.Outcome State Fault Refusal :=
  results (.mov f) f (fun c => c.each fun i => c.b i) s

/-- MOVI (R131). -/
def execMovi (f : Fields) (s : State) : Host.Outcome State Fault Refusal :=
  results (.movi f) f (fun c => c.each fun _ => if low f.mod == 1 then f.imm.signExtend 32 else f.imm.zeroExtend 32) s

/-- MOVHI (R131): bits 31:24 take the immediate. -/
def execMovhi (f : Fields) (s : State) : Host.Outcome State Fault Refusal :=
  results (.movhi f) f (fun c => c.each fun i => (f.imm.zeroExtend 32 <<< (24 : Nat)) ||| (c.d i &&& 0x00FFFFFF#32)) s

/-- MOVX (R132): REG_INDEX where an index names no register. -/
def execMovx (f : Fields) (s : State) : Host.Outcome State Fault Refusal :=
  plain (.movx f) f (fun c s =>
    match c.indexFault with
    | some r => .trap r
    | none => .done (s.writeResults c (c.each fun i => c.g.reg (c.index i) i))) s

/-- MOVXW (R132): REG_INDEX where an index names no register. -/
def execMovxw (f : Fields) (s : State) : Host.Outcome State Fault Refusal :=
  plain (.movxw f) f (fun c s =>
    match c.indexFault with
    | some r => .trap r
    | none => .done (s.writeResults c ((lanesOf c.parts).map fun i => ⟨c.index i, i, c.b i⟩))) s

/-- BWIN (R133). -/
def execBwin (f : Fields) (s : State) : Host.Outcome State Fault Refusal :=
  results (.bwin f) f (fun c => c.each fun i => bwin (c.a i) (c.b i) (c.c i)) s

/-- LXCH (R134, R166). -/
def execLxch (f : Fields) (s : State) : Host.Outcome State Fault Refusal :=
  results (.lxch f) f (fun c => c.each fun i => c.a (lxchLane c.g.fwd (low f.mod) (c.b i + f.srcc.zeroExtend 32) i)) s

/-- LMASK (R135, R167). -/
def execLmask (f : Fields) (s : State) : Host.Outcome State Fault Refusal :=
  results (.lmask f) f (fun c => c.each fun i => lmask c i) s

/-- LCOMB (R135, R167). -/
def execLcomb (f : Fields) (s : State) : Host.Outcome State Fault Refusal :=
  results (.lcomb f) f (fun c => c.each fun i => lcomb c i) s

end Sys2Proof.Machine
end

