-- ==== Sys2Proof/Machine/Vector.lean ====
section
/-!
DEFINITION. Rows 2 and 3 without their slot-driven instructions: f32, f64 and packed arithmetic, compares, classes,
FRND, the special functions, and CVT, CVTI and CVTF (09, R191 to R208).
-/
namespace Sys2Proof.Machine

/-- The rounding mode in MOD bits 1:0 (R82). -/
def rmode (f : Fields) : Mode := (low f.mod).toNat

/-- A code as a register. -/
def word32 (n : Nat) : Word := BitVec.ofNat 32 n
/-- A code as a register pair. -/
def word64 (n : Nat) : DWord := BitVec.ofNat 64 n

/-- Element 0 and element 1 of a pair, each by a function of the elements' codes (R197). -/
def pairwise (op : List Nat → Nat) (xs : List Word) : Word :=
  word32 (op (xs.map fun x => x.toNat % 2 ^ 16) % 2 ^ 16 + 2 ^ 16 * (op (xs.map fun x => x.toNat / 2 ^ 16) % 2 ^ 16))

/-- A pair operation of two operands. -/
def pair2 (op : Nat → Nat → Nat) (a b : Word) : Word := pairwise (fun l => op (l.getD 0 0) (l.getD 1 0)) [a, b]
/-- A pair operation of three operands. -/
def pair3 (op : Nat → Nat → Nat → Nat) (a b c : Word) : Word :=
  pairwise (fun l => op (l.getD 0 0) (l.getD 1 0) (l.getD 2 0)) [a, b, c]

/-- The integer types of CVTI and CVTF: width and sign (R208). -/
def intType (code : Nat) : Nat × Bool :=
  match code with
  | 0 => (32, true)
  | 1 => (32, false)
  | 2 => (64, true)
  | 3 => (64, false)
  | 4 => (16, true)
  | 5 => (16, false)
  | 6 => (8, true)
  | _ => (8, false)

/-- The least and greatest value of an integer type. -/
def intRange (t : Nat × Bool) : Int × Int :=
  if t.2 then (-2 ^ (t.1 - 1), 2 ^ (t.1 - 1) - 1) else (0, 2 ^ t.1 - 1)

/-- The integer of a type in the low bits of a value (R208). -/
def intOf (t : Nat × Bool) (x : Nat) : Int :=
  let n := x % 2 ^ t.1
  if t.2 && n.testBit (t.1 - 1) then (n : Int) - 2 ^ t.1 else n

/-- The format of a CVT code. -/
def cvtFmt (code : Nat) : Fmt := (fmtOf code).getD f32

/-- Source and destination codes in SRCC (R207, R208). -/
def srcCode (f : Fields) : Nat := f.srcc.toNat / 16
def dstCode (f : Fields) : Nat := f.srcc.toNat % 16

/-- CVT's, CVTI's and CVTF's source: a pair where it is 64 bits wide, else a permuted register. -/
def Ictx.bNat (c : Ictx) (wide : Bool) (i : Nat) : Nat := if wide then (c.b64 i).toNat else (c.b i).toNat

/-- A result in a register or a pair. -/
def Ictx.eachNat (c : Ictx) (wide : Bool) (f : Nat → Nat) : List RegWrite :=
  if wide then c.each64 fun i => word64 (f i) else c.each fun i => word32 (f i)

/-- CVT (R207): narrow sources are read from the low bits. -/
def cvtOf (f : Fields) (x : Nat) : Nat :=
  let s := cvtFmt (srcCode f)
  convert s (cvtFmt (dstCode f)) (rmode f) false false (x % 2 ^ s.width)

/-- CVTI (R208). -/
def cvtiOf (f : Fields) (x : Nat) : Nat :=
  let s := cvtFmt (srcCode f)
  let r := intRange (intType (dstCode f))
  (BitVec.ofInt 64 (toInteger (rmode f) r.1 r.2 (s.read (x % 2 ^ s.width)))).toNat

/-- CVTF (R208). -/
def cvtfOf (f : Fields) (x : Nat) : Nat :=
  (cvtFmt (dstCode f)).ofInteger (rmode f) (intOf (intType (srcCode f)) x)

/-- FADD.f32 (R196). -/
def execFaddF32 (f : Fields) (s : State) : Host.Outcome State Fault Refusal :=
  results (.faddF32 f) f (fun c => c.each fun i => word32 (f32.add (rmode f) (c.a i).toNat (c.b i).toNat)) s

/-- FSUB.f32 (R196). -/
def execFsubF32 (f : Fields) (s : State) : Host.Outcome State Fault Refusal :=
  results (.fsubF32 f) f (fun c => c.each fun i => word32 (f32.sub (rmode f) (c.a i).toNat (c.b i).toNat)) s

/-- FMUL.f32 (R196). -/
def execFmulF32 (f : Fields) (s : State) : Host.Outcome State Fault Refusal :=
  results (.fmulF32 f) f (fun c => c.each fun i => word32 (f32.mul (rmode f) (c.a i).toNat (c.b i).toNat)) s

/-- FFMA.f32 (R196). -/
def execFfmaF32 (f : Fields) (s : State) : Host.Outcome State Fault Refusal :=
  results (.ffmaF32 f) f (fun c => c.each fun i => word32 (f32.fma (rmode f) (c.a i).toNat (c.b i).toNat (c.c i).toNat)) s

/-- FMIN.f32 (R198). -/
def execFminF32 (f : Fields) (s : State) : Host.Outcome State Fault Refusal :=
  results (.fminF32 f) f (fun c => c.each fun i => word32 (f32.minmax false (rmode f == 1) (c.a i).toNat (c.b i).toNat)) s

/-- FMAX.f32 (R198). -/
def execFmaxF32 (f : Fields) (s : State) : Host.Outcome State Fault Refusal :=
  results (.fmaxF32 f) f (fun c => c.each fun i => word32 (f32.minmax true (rmode f == 1) (c.a i).toNat (c.b i).toNat)) s

/-- FSET.f32 (R199). -/
def execFsetF32 (f : Fields) (s : State) : Host.Outcome State Fault Refusal :=
  results (.fsetF32 f) f (fun c => c.each fun i => ones (f32.cmp f.mod.toNat (c.a i).toNat (c.bt i).toNat)) s

/-- FCLASS.f32 (R200). -/
def execFclassF32 (f : Fields) (s : State) : Host.Outcome State Fault Refusal :=
  results (.fclassF32 f) f (fun c => c.each fun i => 1#32 <<< f32.classBit (c.b i).toNat) s

/-- FADD.f64 (R196). -/
def execFaddF64 (f : Fields) (s : State) : Host.Outcome State Fault Refusal :=
  results (.faddF64 f) f (fun c => c.each64 fun i => word64 (f64.add (rmode f) (c.a64 i).toNat (c.b64 i).toNat)) s

/-- FSUB.f64 (R196). -/
def execFsubF64 (f : Fields) (s : State) : Host.Outcome State Fault Refusal :=
  results (.fsubF64 f) f (fun c => c.each64 fun i => word64 (f64.sub (rmode f) (c.a64 i).toNat (c.b64 i).toNat)) s

/-- FMUL.f64 (R196). -/
def execFmulF64 (f : Fields) (s : State) : Host.Outcome State Fault Refusal :=
  results (.fmulF64 f) f (fun c => c.each64 fun i => word64 (f64.mul (rmode f) (c.a64 i).toNat (c.b64 i).toNat)) s

/-- FFMA.f64 (R196). -/
def execFfmaF64 (f : Fields) (s : State) : Host.Outcome State Fault Refusal :=
  results (.ffmaF64 f) f (fun c => c.each64 fun i => word64 (f64.fma (rmode f) (c.a64 i).toNat (c.b64 i).toNat (c.c64 i).toNat)) s

/-- FMIN.f64 (R198). -/
def execFminF64 (f : Fields) (s : State) : Host.Outcome State Fault Refusal :=
  results (.fminF64 f) f (fun c => c.each64 fun i => word64 (f64.minmax false (rmode f == 1) (c.a64 i).toNat (c.b64 i).toNat)) s

/-- FMAX.f64 (R198). -/
def execFmaxF64 (f : Fields) (s : State) : Host.Outcome State Fault Refusal :=
  results (.fmaxF64 f) f (fun c => c.each64 fun i => word64 (f64.minmax true (rmode f == 1) (c.a64 i).toNat (c.b64 i).toNat)) s

/-- FSET.f64 (R199). -/
def execFsetF64 (f : Fields) (s : State) : Host.Outcome State Fault Refusal :=
  results (.fsetF64 f) f (fun c => c.each fun i => ones (f64.cmp f.mod.toNat (c.a64 i).toNat (c.b64 i).toNat)) s

/-- FCLASS.f64 (R200). -/
def execFclassF64 (f : Fields) (s : State) : Host.Outcome State Fault Refusal :=
  results (.fclassF64 f) f (fun c => c.each fun i => 1#32 <<< f64.classBit (c.b64 i).toNat) s

/-- HADD2.f16 (R196, R197). -/
def execHadd2F16 (f : Fields) (s : State) : Host.Outcome State Fault Refusal :=
  results (.hadd2F16 f) f (fun c => c.each fun i => pair2 (f16.add (rmode f)) (c.a i) (c.b i)) s

/-- HSUB2.f16 (R196, R197). -/
def execHsub2F16 (f : Fields) (s : State) : Host.Outcome State Fault Refusal :=
  results (.hsub2F16 f) f (fun c => c.each fun i => pair2 (f16.sub (rmode f)) (c.a i) (c.b i)) s

/-- HMUL2.f16 (R196, R197). -/
def execHmul2F16 (f : Fields) (s : State) : Host.Outcome State Fault Refusal :=
  results (.hmul2F16 f) f (fun c => c.each fun i => pair2 (f16.mul (rmode f)) (c.a i) (c.b i)) s

/-- HFMA2.f16 (R196, R197). -/
def execHfma2F16 (f : Fields) (s : State) : Host.Outcome State Fault Refusal :=
  results (.hfma2F16 f) f (fun c => c.each fun i => pair3 (f16.fma (rmode f)) (c.a i) (c.b i) (c.c i)) s

/-- HMIN2.f16 (R197, R198). -/
def execHmin2F16 (f : Fields) (s : State) : Host.Outcome State Fault Refusal :=
  results (.hmin2F16 f) f (fun c => c.each fun i => pair2 (f16.minmax false (rmode f == 1)) (c.a i) (c.b i)) s

/-- HMAX2.f16 (R197, R198). -/
def execHmax2F16 (f : Fields) (s : State) : Host.Outcome State Fault Refusal :=
  results (.hmax2F16 f) f (fun c => c.each fun i => pair2 (f16.minmax true (rmode f == 1)) (c.a i) (c.b i)) s

/-- HSET2.f16 (R199). -/
def execHset2F16 (f : Fields) (s : State) : Host.Outcome State Fault Refusal :=
  results (.hset2F16 f) f (fun c => c.each fun i => pair2 (fun x y => if f16.cmp f.mod.toNat x y then 0xFFFF else 0) (c.a i) (c.bt i)) s

/-- HADD2.bf16 (R196, R197). -/
def execHadd2Bf16 (f : Fields) (s : State) : Host.Outcome State Fault Refusal :=
  results (.hadd2Bf16 f) f (fun c => c.each fun i => pair2 (bf16.add (rmode f)) (c.a i) (c.b i)) s

/-- HSUB2.bf16 (R196, R197). -/
def execHsub2Bf16 (f : Fields) (s : State) : Host.Outcome State Fault Refusal :=
  results (.hsub2Bf16 f) f (fun c => c.each fun i => pair2 (bf16.sub (rmode f)) (c.a i) (c.b i)) s

/-- HMUL2.bf16 (R196, R197). -/
def execHmul2Bf16 (f : Fields) (s : State) : Host.Outcome State Fault Refusal :=
  results (.hmul2Bf16 f) f (fun c => c.each fun i => pair2 (bf16.mul (rmode f)) (c.a i) (c.b i)) s

/-- HFMA2.bf16 (R196, R197). -/
def execHfma2Bf16 (f : Fields) (s : State) : Host.Outcome State Fault Refusal :=
  results (.hfma2Bf16 f) f (fun c => c.each fun i => pair3 (bf16.fma (rmode f)) (c.a i) (c.b i) (c.c i)) s

/-- HMIN2.bf16 (R197, R198). -/
def execHmin2Bf16 (f : Fields) (s : State) : Host.Outcome State Fault Refusal :=
  results (.hmin2Bf16 f) f (fun c => c.each fun i => pair2 (bf16.minmax false (rmode f == 1)) (c.a i) (c.b i)) s

/-- HMAX2.bf16 (R197, R198). -/
def execHmax2Bf16 (f : Fields) (s : State) : Host.Outcome State Fault Refusal :=
  results (.hmax2Bf16 f) f (fun c => c.each fun i => pair2 (bf16.minmax true (rmode f == 1)) (c.a i) (c.b i)) s

/-- HSET2.bf16 (R199). -/
def execHset2Bf16 (f : Fields) (s : State) : Host.Outcome State Fault Refusal :=
  results (.hset2Bf16 f) f (fun c => c.each fun i => pair2 (fun x y => if bf16.cmp f.mod.toNat x y then 0xFFFF else 0) (c.a i) (c.bt i)) s

/-- FRND.f32 (R201). -/
def execFrndF32 (f : Fields) (s : State) : Host.Outcome State Fault Refusal :=
  results (.frndF32 f) f (fun c => c.each fun i => word32 (f32.integral (rmode f) (c.b i).toNat)) s

/-- FRND.f64 (R201). -/
def execFrndF64 (f : Fields) (s : State) : Host.Outcome State Fault Refusal :=
  results (.frndF64 f) f (fun c => c.each64 fun i => word64 (f64.integral (rmode f) (c.b64 i).toNat)) s

/-- RCP.f32: correctly rounded (R202 to R206). -/
def execRcpF32 (f : Fields) (s : State) : Host.Outcome State Fault Refusal :=
  later (.rcpF32 f) f [f.dst.toNat] (fun c => c.each fun i => word32 (f32.rcp (rmode f) (c.a i).toNat)) s

/-- RSQ.f32: correctly rounded (R202 to R206). -/
def execRsqF32 (f : Fields) (s : State) : Host.Outcome State Fault Refusal :=
  later (.rsqF32 f) f [f.dst.toNat] (fun c => c.each fun i => word32 (f32.rsq (rmode f) (c.a i).toNat)) s

/-- SQRT.f32: correctly rounded (R202 to R206). -/
def execSqrtF32 (f : Fields) (s : State) : Host.Outcome State Fault Refusal :=
  later (.sqrtF32 f) f [f.dst.toNat] (fun c => c.each fun i => word32 (f32.sqrt (rmode f) (c.a i).toNat)) s

/-- EX2.f32: correctly rounded (R202 to R206). -/
def execEx2F32 (f : Fields) (s : State) : Host.Outcome State Fault Refusal :=
  later (.ex2F32 f) f [f.dst.toNat] (fun c => c.each fun i => word32 (ex2 (rmode f) (c.a i).toNat)) s

/-- LG2.f32: correctly rounded (R202 to R206). -/
def execLg2F32 (f : Fields) (s : State) : Host.Outcome State Fault Refusal :=
  later (.lg2F32 f) f [f.dst.toNat] (fun c => c.each fun i => word32 (lg2 (rmode f) (c.a i).toNat)) s

/-- SIN.f32: correctly rounded (R202 to R206). -/
def execSinF32 (f : Fields) (s : State) : Host.Outcome State Fault Refusal :=
  later (.sinF32 f) f [f.dst.toNat] (fun c => c.each fun i => word32 (sin2pi (rmode f) (c.a i).toNat)) s

/-- COS.f32: correctly rounded (R202 to R206). -/
def execCosF32 (f : Fields) (s : State) : Host.Outcome State Fault Refusal :=
  later (.cosF32 f) f [f.dst.toNat] (fun c => c.each fun i => word32 (cos2pi (rmode f) (c.a i).toNat)) s

/-- TANH.f32: correctly rounded (R202 to R206). -/
def execTanhF32 (f : Fields) (s : State) : Host.Outcome State Fault Refusal :=
  later (.tanhF32 f) f [f.dst.toNat] (fun c => c.each fun i => word32 (tanh32 (rmode f) (c.a i).toNat)) s

/-- RCP.f64: correctly rounded (R202 to R206). -/
def execRcpF64 (f : Fields) (s : State) : Host.Outcome State Fault Refusal :=
  later (.rcpF64 f) f [f.dst.toNat, f.dst.toNat + 1] (fun c => c.each64 fun i => word64 (f64.rcp (rmode f) (c.a64 i).toNat)) s

/-- SQRT.f64: correctly rounded (R202 to R206). -/
def execSqrtF64 (f : Fields) (s : State) : Host.Outcome State Fault Refusal :=
  later (.sqrtF64 f) f [f.dst.toNat, f.dst.toNat + 1] (fun c => c.each64 fun i => word64 (f64.sqrt (rmode f) (c.a64 i).toNat)) s

/-- CVT (R207). -/
def execCvt (f : Fields) (s : State) : Host.Outcome State Fault Refusal :=
  results (.cvt f) f (fun c => c.eachNat (dstCode f == 9) fun i => cvtOf f (c.bNat (srcCode f == 9) i)) s

/-- CVTI (R208). -/
def execCvti (f : Fields) (s : State) : Host.Outcome State Fault Refusal :=
  results (.cvti f) f (fun c => c.eachNat (intWide (dstCode f)) fun i => cvtiOf f (c.bNat (srcCode f == 9) i)) s

/-- CVTF (R208). -/
def execCvtf (f : Fields) (s : State) : Host.Outcome State Fault Refusal :=
  results (.cvtf f) f (fun c => c.eachNat (dstCode f == 9) fun i => cvtfOf f (c.bNat (intWide (srcCode f)) i)) s

end Sys2Proof.Machine
end

