-- ==== Sys2Proof/Machine/Slots.lean ====
section
/-!
DEFINITION. Tensor records (15, R277 to R279), format slots (02, R54 to R56), and the slot-driven instructions CVTN, CVTW and
BSCALE (09, R209 to R212).
-/
namespace Sys2Proof.Machine

/-! ### Tensor records (R277, R278) -/

/-- A tensor record's fields (R277): `box` holds b_k = BOXk + 1. -/
structure Tensor where
  owner  : Nat
  box    : List Nat
  w      : Bool
  r      : Bool
  ndims  : Nat
  format : Nat
  stride : List Nat
  extent : List Nat
  base   : BitVec 64

/-- The fields of an object-table entry. -/
def tensorOf (e : BitVec 512) : Tensor where
  owner := fieldOf e 448 10
  box := (List.range 5).map fun k => fieldOf e (9 * k + 400) 9 + 1
  w := e.getLsbD 396
  r := e.getLsbD 395
  ndims := fieldOf e 392 3
  format := fieldOf e 384 8
  stride := 0 :: (List.range 4).map fun k => fieldOf e (40 * (k + 1) + 184) 40
  extent := (List.range 5).map fun k => fieldOf e (32 * k + 64) 32
  base := e.extractLsb' 0 64

/-- The element size in half bytes (R278); 0 for a format that no record has. -/
def halfBytes (format : Nat) : Nat :=
  match format with
  | 0x09 => 16
  | 0x01 => 8
  | 0x02 => 4
  | 0x03 => 4
  | 0x07 => 4
  | 0x04 => 2
  | 0x05 => 2
  | 0x08 => 2
  | 0x0B => 2
  | 0x0A => 2
  | 0x06 => 1
  | _ => 0

/-- b_k and extents of a record. -/
def Tensor.b (t : Tensor) (k : Nat) : Nat := t.box.getD k 1
def Tensor.ext (t : Tensor) (k : Nat) : Nat := t.extent.getD k 1
/-- The bytes of a row (R278). -/
def Tensor.row (t : Tensor) : Nat := t.b 0 * halfBytes t.format / 2
/-- The row count; for CPYG it is taken as 32 rows in dimension 1 (R278). -/
def Tensor.rows (t : Tensor) (gather : Bool) : Nat := (if gather then 32 else t.b 1) * t.b 2 * t.b 3 * t.b 4

/-- An entry is a valid record for an instruction (R277, R278). -/
def tensorValid (e : BitVec 512) (gather : Bool) : Bool :=
  let t := tensorOf e
  let dims := List.range 5
  fieldOf e 465 47 == 0 && e.getLsbD 464 && fieldOf e 458 6 == 0 && fieldOf e 445 3 == 0 && fieldOf e 397 3 == 0
    && 1 ≤ t.ndims && t.ndims ≤ 5 && halfBytes t.format != 0 && canonical t.base
    && dims.all (fun k => k == 0 || (if k < t.ndims then t.stride.getD k 0 != 0 else t.stride.getD k 0 == 0))
    && dims.all (fun k => if k < t.ndims then t.ext k != 0 else t.ext k == 1)
    && dims.all (fun k => t.b k ≤ 256 && (k < t.ndims || t.b k == 1 || (gather && k == 1))
        && (if gather && k == 1 then 1 else t.b k) ≤ t.ext k)
    && t.row ≤ 4096 && (t.format != 6 || t.b 0 % 2 == 0)
    && t.rows gather ≤ 128

/-- An object-table entry of a context. -/
def Context.object (c : Context) (i : Nat) : BitVec 512 := sget 0#512 c.objects i

/-! ### Format slots (R54 to R56) -/

/-- ELEMENT, SCALE, BLOCK_LOG2, SATURATE, FLUSH and CODEBOOK of a slot. -/
def slotElement (x : BitVec 64) : Nat := fieldOf x 0 8
def slotScale (x : BitVec 64) : Nat := fieldOf x 8 8
def slotBlock (x : BitVec 64) : Nat := fieldOf x 16 8
def slotSat (x : BitVec 64) : Bool := x.getLsbD 24
def slotFlush (x : BitVec 64) : Bool := x.getLsbD 25
def slotBook (x : BitVec 64) : Nat := fieldOf x 32 16

/-- The codebook that a cb2 slot names is one (R56, R278). -/
def bookOk (ctx : Context) (x : BitVec 64) : Bool :=
  let e := ctx.object (slotBook x)
  let t := tensorOf e
  tensorValid e false && t.ndims == 1 && t.r && t.owner == ctx.asid && t.ext 0 * halfBytes t.format == 2048

/-- A slot that R56 admits, but for the formats that the instruction accepts. -/
def slotValid (ctx : Option Context) (x : BitVec 64) : Bool :=
  let el := slotElement x
  fieldOf x 48 16 == 0 && fieldOf x 26 6 == 0
    && ((1 ≤ el && el ≤ 9) || el == 0x0B)
    && (slotScale x == 0 || slotScale x == 0x0A)
    && (if slotScale x == 0 then slotBlock x == 0 else 3 ≤ slotBlock x && slotBlock x ≤ 7)
    && (if el == 7 then slotScale x == 0x0A && slotBlock x == 5 && (ctx.map fun c => bookOk c x).getD false
        else slotBook x == 0)

/-- A valid slot whose element format takes the scale it names (R186). -/
def slotOk (ctx : Option Context) (x : BitVec 64) : Bool :=
  slotValid ctx x && (slotScale x == 0 || [4, 5, 6, 7].contains (slotElement x))

/-- A slot of the group's launch. -/
def State.slotBits (s : State) (g : Group) (k : Nat) : BitVec 64 :=
  ((s.launchOf? g).map fun l => l.info.slots.getD k 0).getD 0

/-- The part has no codebook decoder, or no FP64 matrix path (R27, R28). -/
def State.noCbdec (s : State) : Bool := s.fitting.x4l
def State.noFp64mat (s : State) : Bool := s.fitting.x4l

/-- The guard of an instruction that uses one slot: its blocks, and what it accepts of ELEMENT and SCALE. -/
def slotGuard (k : Fields → Nat) (blocks : Nat → Fields → List (Kind × Nat)) (accepts : BitVec 64 → Bool)
    (needsCbdec : Bool) (s : State) (g : Group) (f : Fields) : Guard :=
  let x := s.slotBits g (k f)
  { blocks := blocks (slotElement x) f
    unit := if s.noCbdec && (needsCbdec || slotElement x == 7) then some 1 else none
    priv := false
    slot := if slotOk (s.contextOf? g) x && accepts x then none else some (k f) }

/-- The elements of a packed register and the kind of their f32 block (R209). -/
def packedCount (element : Nat) : Nat :=
  match element with
  | 2 => 2
  | 3 => 2
  | 4 => 4
  | 5 => 4
  | 8 => 4
  | 0x0B => 4
  | 6 => 8
  | _ => 1

/-- The kind of the f32 block (R209). -/
def packedKind (element : Nat) : Kind :=
  match packedCount element with
  | 2 => .v2
  | 4 => .v4
  | 8 => .vk 8 8
  | _ => .v

/-- The formats that CVTN and CVTW accept (R209). -/
def packedAccepts (x : BitVec 64) : Bool := packedCount (slotElement x) != 1

/-- The slot index of CVTN, CVTW, BSCALE and CBDEC. -/
def cvtSlot (f : Fields) : Nat := f.srcc.toNat % 8

/-- An f32 code scaled by 2^k, exact. -/
def scaleNum (v : Num) (k : Int) : Num :=
  match v with
  | .fin s n e => .fin s n (e + k)
  | v => v

/-- One element of CVTN (R210). -/
def narrowElement (x : BitVec 64) (mode : Mode) (scale code : Nat) : Nat :=
  let el := slotElement x
  let scaled := slotScale x == 0x0A
  match fmtOf el with
  | some F =>
    if scaled && scale = 0xFF then (if el = 6 then 0 else F.nanCode)
    else if scaled then
      match f32.read code with
      | .fin s n e => F.roundTo mode (slotSat x) (slotFlush x) s n (e + 127 - scale) false
      | _ => convert f32 F mode (slotSat x) (slotFlush x) code
    else convert f32 F mode (slotSat x) (slotFlush x) code
  | none =>
    let r := intRange (8, el == 8)
    (BitVec.ofInt 8 (toInteger mode r.1 r.2 (f32.read code))).toNat

/-- One element of CVTW (R211). -/
def widenElement (x : BitVec 64) (mode : Mode) (scale code : Nat) : Nat :=
  let el := slotElement x
  let scaled := slotScale x == 0x0A
  let k : Int := if scaled then (scale : Int) - 127 else 0
  if scaled && scale = 0xFF then f32.nanCode
  else
    match fmtOf el with
    | some F =>
      match F.read code with
      | .nan s mant => moveNan F f32 s mant
      | .inf s => f32.signed s f32.top
      | .fin s n e => f32.roundTo mode (slotSat x) false s n (e + k) false
    | none =>
      let v := intOf (8, el == 8) code
      f32.ofInteger mode v

/-- CVTN (R209, R210). -/
def execCvtn (f : Fields) (s : State) : Host.Outcome State Fault Refusal :=
  issue (.cvtn f) f .whole (slotGuard cvtSlot (fun el f => [(packedKind el, f.srca.toNat)]) packedAccepts false)
    (fun c s =>
      let x := s.slotBits c.g (cvtSlot f)
      let n := packedCount (slotElement x)
      .done (s.writeResults c (c.each fun i =>
        word32 ((List.range n).foldl (fun acc k =>
          acc + 2 ^ (32 / n * k) *
            narrowElement x (rmode f) ((c.b i).toNat % 256) (c.g.reg (f.srca.toNat + k) i).toNat) 0)))) s

/-- Results written at issue in registers that the encoding alone does not give, noted as such (R72, R74). -/
def State.writeNoted (s : State) (c : Ictx) (ws : List RegWrite) : State :=
  s.modGroup c.g.id fun g =>
    ({ g with ops := overwritten (ws.map fun w : RegWrite => regKey w.reg w.lane) g.ops } : Group).writeRegs ws

/-- CVTW (R209, R211). -/
def execCvtw (f : Fields) (s : State) : Host.Outcome State Fault Refusal :=
  issue (.cvtw f) f .whole (slotGuard cvtSlot (fun el f => [(packedKind el, f.dst.toNat)]) packedAccepts false)
    (fun c s =>
      let x := s.slotBits c.g (cvtSlot f)
      let n := packedCount (slotElement x)
      .done (s.writeNoted c ((lanesOf c.parts).flatMap fun i => (List.range n).map fun k =>
        ⟨f.dst.toNat + k, i, word32 (widenElement x (rmode f) ((c.b i).toNat % 256)
          ((c.a i).toNat / 2 ^ (32 / n * k) % 2 ^ (32 / n)))⟩))) s

/-- The slots that BSCALE accepts (R212). -/
def bscaleAccepts (x : BitVec 64) : Bool := slotScale x == 0x0A && [4, 5, 6, 7].contains (slotElement x)

/-- BSCALE (R212). -/
def execBscale (f : Fields) (s : State) : Host.Outcome State Fault Refusal :=
  issue (.bscale f) f .whole (slotGuard cvtSlot (fun _ _ => []) bscaleAccepts false)
    (fun c s =>
      let x := s.slotBits c.g (cvtSlot f)
      let L := f.srcc.toNat / 8 % 8
      let L := if c.g.fwd then min L 4 else L
      .done (s.writeResults c (c.each fun i =>
        let block := (lanesOf c.parts).filter fun j => j / 2 ^ L == i / 2 ^ L
        word32 (blockScale (slotElement x) (block.map fun j => (c.b j).toNat))))) s

end Sys2Proof.Machine
end

