-- ==== Sys2Proof/Machine/Access.lean ====
section
/-!
DEFINITION. Accesses to memory, team scratchpad and the parameter block: the checks of R316, what each operation leaves
at its place (R317 to R335), the watch filters (R400 to R402), and performing an access.
-/
namespace Sys2Proof.Machine

/-- Identifiers of the counters of dropped and ignored writes, beside that of writes to a ZEROING frame (R466, DESIGN CHOICE,
log 21): a write to an image frame, a register write, a mailbox write, a summary-port write, and a doorbell write. -/
def eImage : Nat := 7
def eRegister : Nat := 8
def eMailbox : Nat := 9
def eSummary : Nat := 10
def eDoorbell : Nat := 11

/-! ### What an operation leaves (R318, R322, R324, R328, R294) -/

/-- An atomic's new value at a width of `w` bits (R322). -/
def atomic (op w m b : Nat) : Nat :=
  let sm := (BitVec.ofNat w m).toInt
  let sb := (BitVec.ofNat w b).toInt
  let F := if w = 64 then f64 else f32
  match op with
  | 0 => (m + b) % 2 ^ w
  | 1 => if sb < sm then b else m
  | 2 => if sm < sb then b else m
  | 3 => min m b
  | 4 => max m b
  | 5 => m &&& b
  | 6 => m ||| b
  | 7 => m ^^^ b
  | 8 => b
  | 9 => if b ≤ m then 0 else m + 1
  | 10 => if m = 0 || b < m then b else m - 1
  | 11 => F.add 0 m b
  | 12 => F.minmax false false m b
  | _ => F.minmax true false m b

/-- The bytes that an operation touches. -/
def AccessOp.size : AccessOp → Nat
  | .load n _ => n
  | .store bs => bs.length
  | .atom _ wide _ => if wide then 8 else 4
  | .cas wide _ _ => if wide then 8 else 4
  | .rel _ _ _ => 128
  | .zeroLine => 128
  | .sigClear => 120
  | .addTo _ bs => bs.length
  | .signal => 16
  | .covered n => n

/-- The synchronisation line that a REL leaves (R325, R328). -/
def relLine (add : Bool) (v : BitVec 64) (merge : Option (BitVec 512)) (x : Nat) : Nat :=
  let value := if add then (x + v.toNat) % 2 ^ 64 else v.toNat
  let old := x / 2 ^ 128 % 2 ^ 512
  let sig := match merge with
    | some m => old ||| m.toNat
    | none => old
  let sat := x.testBit 64 || (merge.isSome && 256 < popcount (BitVec.ofNat 512 sig))
  value + (if sat then 2 ^ 64 else 0) + sig * 2 ^ 128

/-- The bytes that an operation leaves, from those that stand there; none where it writes nothing. -/
def AccessOp.after (op : AccessOp) (old : List Byte) : Option (List Byte) :=
  let m := natOfBytes old
  match op with
  | .load _ _ => none
  | .covered _ => none
  | .signal => some (bytesOfNat 8 ((m + 2 ^ 64 - 1) % 2 ^ 64) ++ bytesOfNat 8 (m / 2 ^ 64 / 2 * 2 + 1))
  | .store bs => some bs
  | .atom k wide b =>
    let n := if wide then 8 else 4
    some (bytesOfNat n (atomic k (8 * n) m (b.toNat % 2 ^ (8 * n))))
  | .cas wide b c =>
    let n := if wide then 8 else 4
    if m = b.toNat % 2 ^ (8 * n) then some (bytesOfNat n c.toNat) else none
  | .rel add v merge => some (bytesOfNat 128 (relLine add v merge m))
  | .zeroLine => some (List.replicate 128 0)
  | .sigClear => some (List.replicate 120 0)
  | .addTo element bs =>
    match fmtOf element with
    | some F => some (bytesOfNat bs.length (F.add 0 m (natOfBytes bs)))
    | none => some bs

/-- The operation writes in full, without reading it, the word `k` of those it touches, and so clears its poison (R308). -/
def AccessOp.cures (op : AccessOp) (k : Nat) : Bool :=
  match op with
  | .store _ => true
  | .covered _ => true
  | .zeroLine => true
  | .sigClear => true
  | .rel add _ _ => k == 3 || 20 ≤ k || (!add && k < 2)
  | _ => false

/-- The operation reads the word `k` of those it touches: a partial store reads its word (R308, R316). -/
def AccessOp.reads (op : AccessOp) (k : Nat) : Bool :=
  match op with
  | .load _ _ => true
  | .store bs => bs.length < 4
  | .rel add _ merge => (add && k < 2) || (merge.isSome && (k == 2 || (4 ≤ k && k < 20)))
  | .zeroLine => false
  | .sigClear => false
  | .covered _ => false
  | _ => true

/-- The registers' words that an operation returns: a load's value under its type (R314), or the old value (R323). -/
def AccessOp.result (op : AccessOp) (old : List Byte) : List Word :=
  let m := natOfBytes old
  match op with
  | .load n sg =>
    if n < 4 then
      [if sg then (BitVec.ofNat (8 * n) m).signExtend 32 else BitVec.ofNat 32 m]
    else (List.range (n / 4)).map fun k => BitVec.ofNat 32 (m / 2 ^ (32 * k))
  | .atom _ wide _ => (List.range (if wide then 2 else 1)).map fun k => BitVec.ofNat 32 (m / 2 ^ (32 * k))
  | .cas wide _ _ => (List.range (if wide then 2 else 1)).map fun k => BitVec.ofNat 32 (m / 2 ^ (32 * k))
  | _ => []

/-! ### Team scratchpad (R302) and the parameter block (R321) -/

/-- The place of a scratchpad offset, where all `n` bytes lie in the team's scratchpad (R302). -/
def Team.place? (t : Team) (off n : Nat) : Option Place :=
  if off / 2 ^ 23 != 0 then none
  else
    match (List.range t.cus.length).find? fun i => t.spos.getD i 8 == off / 2 ^ 20 % 8 with
    | some i => if off % 2 ^ 20 + n ≤ 1024 * t.scratchKib then some (.scratch t.id i (off % 2 ^ 20)) else none
    | none => none

/-- The record of a scratchpad offset that is out of range (R302, R390) (DEDUCED, log 39). -/
def scratchRecord (c : Ictx) (lanes : Mask) (write : Bool) (off : Nat) : FaultRecord :=
  pageRecord ⟨6, 0, false⟩ write false lanes c.addr (BitVec.ofNat 64 off)

/-- Bytes of a team's scratchpad. -/
def State.scratchBytes (s : State) (t i off n : Nat) : List Byte :=
  let m := ((s.team? t).map Team.scratch).getD []
  (List.range n).map fun k => sget 0#8 m (2 ^ 20 * i + off + k)

/-- Words of a team's scratchpad that are poisoned, among those that bytes touch. -/
def State.scratchPoisoned (s : State) (t i off n : Nat) : List Nat :=
  (wordsOf (2 ^ 20 * i + off) n).filter (((s.team? t).map Team.poison).getD []).contains

/-- Writing bytes of a team's scratchpad; words that `cured` admits and the bytes cover in full lose their poison. -/
def State.setScratch (s : State) (t i off : Nat) (bs : List Byte) (cured : Nat → Bool) : State :=
  let at0 := 2 ^ 20 * i + off
  s.modTeam t fun t =>
    { t with
      scratch := (bs.zipIdx).foldl (fun m x => sset 0#8 m (at0 + x.2) x.1) t.scratch
      poison := t.poison.filter fun w =>
        !(at0 ≤ 4 * w && 4 * w + 4 ≤ at0 + bs.length && cured (w - at0 / 4)) }

/-- Bytes of a launch's parameter block copy; a byte at or beyond its size reads zero (R321). -/
def Launch.paramBytes (l : Launch) (off n : Nat) : List Byte :=
  (List.range n).map fun k => if off + k < l.info.paramSize then sget 0#8 l.param (off + k) else 0

/-! ### Watch filters (R400 to R402) -/

/-- The assumptions that watch some byte of a write. -/
def State.watchers (s : State) (pa n : Nat) : List Nat :=
  (s.slots.filter fun x => x.2.watches.any fun w => w.pa < pa + n && pa < w.pa + w.size).map Prod.fst

/-- Some byte of the frame is watched: stores to it complete only at home (R318, R400). -/
def State.watchedFrame (s : State) (pa : Nat) : Bool := !(s.watchers (pa / 4096 * 4096) 4096).isEmpty

/-- A write to a word that a held write has not yet written stands after it and waits (R402). -/
def State.behindHeld (s : State) (pa n : Nat) : Bool :=
  s.held.any fun h => h.place / 4 ≤ (pa + n - 1) / 4 && pa / 4 ≤ (h.place + h.op.size - 1) / 4

/-- A write is caught (R401): it writes, and touches a watched byte. -/
def State.caught (s : State) (pa : Nat) (op : AccessOp) : Bool :=
  (op.after (s.peek pa op.size)).isSome && !(s.watchers pa op.size).isEmpty

/-- Some operation of a list writes, as they are applied one after another to the bytes that stand there. -/
def writesAny : List AccessOp → List Byte → Bool
  | [], _ => false
  | op :: ops, old => (op.after old).isSome || writesAny ops old

/-- The operations of one instruction at one place are caught together: one of them writes (R323, R401). -/
def State.caughtAny (s : State) (pa n : Nat) (ops : List AccessOp) : Bool :=
  writesAny ops (s.peek pa n) && !(s.watchers pa n).isEmpty

/-- The filter that catches a write: 0 on the I/O die for the host and peers, else the line's home slice (R401). -/
def State.filterOf (s : State) (w : Writer) (pa : Nat) : Nat :=
  match w with
  | .host => 0
  | .peer => 0
  | _ => 1 + pa / 128 % 32 + 32 * (if inT1 pa then s.homeDie pa else 4 + (s.memPort pa).getD 0)

/-- The hold buffer has room (R402). -/
def State.holdRoom (s : State) (w : Writer) (pa : Nat) : Bool :=
  let n := (s.held.filter fun h => s.filterOf h.writer h.place == s.filterOf w pa).length
  n < (match w with | .host => 64 | .peer => 64 | _ => 16)

/-- Placing a caught write in its hold buffer; one that finds it full waits unperformed (R402). One of the scheduler's waits
in the order of the buffer (DESIGN CHOICE, log 43). -/
def State.hold (s : State) (w : Writer) (pa : Nat) (op : AccessOp) (more : List (Nat × AccessOp)) (noL1 : Bool)
    (bad : List Nat) : State :=
  if s.holdRoom w pa || w == .scheduler then
    { s with held := s.held ++ [⟨s.nextId, w, pa, op, more, noL1, bad, false, [], []⟩], nextId := s.nextId + 1 }
  else s

/-! ### Performing an access -/

/-- A line is zeroed at its home: every copy of it is recalled, every L1 word of it goes, and every word is zero and free of
poison (R335, R377). -/
def State.zeroLine (s : State) (l : Nat) : State :=
  let s := (s.lineHome l).killLine l
  { s with mem := s.mem.filter fun c => c.1 / 128 != l, poison := s.poison.filter fun w => w / 32 != l }

/-- A page is zeroed at its home (R377). -/
def State.zeroFrame (s : State) (f : Nat) : State := (linesOfFrame f).foldl (fun (s : State) l => s.zeroLine l) s

/-- A part of a write of bytes to memory, word by word through `wr`, in place of what an operation at `base` leaves; the frame's
poison stays but where the operation writes whole words without reading them. -/
def State.writePart (s : State) (base : Nat) (op : AccessOp) (pa : Nat) (bs : List Byte) (wr : State → Nat → Word → State) :
    State :=
  let n := bs.length
  let keep := s.poison.filter fun w => !(pa ≤ 4 * w && 4 * w + 4 ≤ pa + n && op.cures (w - base / 4))
  { s.pokeWith pa bs wr with poison := keep }

/-- A write of the bytes that an operation leaves. -/
def State.writeWords (s : State) (pa : Nat) (op : AccessOp) (bs : List Byte) (wr : State → Nat → Word → State) : State :=
  s.writePart pa op pa bs wr

/-- The single-copy atomic pieces of bytes written (R319): aligned units of eight. -/
def piecesOf (pa : Nat) : List Byte → Nat → List (Nat × List Byte)
  | _, 0 => []
  | bs, fuel + 1 =>
    if bs.isEmpty then []
    else
      let n := 8 - pa % 8
      (pa, bs.take n) :: piecesOf (pa + (bs.take n).length) (bs.drop n) fuel

/-- Accesses to lines of a peer window are counted one by one (R389). -/
def State.countPeer (s : State) (pa n : Nat) (counter : Option Nat) : State :=
  if inPeer pa then (linesOf pa n).foldl (fun s _ => s.countFill counter) s else s

/-- A word as a CU's load finds it, at home or in its L1. -/
def State.readWord (s : State) (c : Nat) (a : Access) (w : Nat) : Word × State :=
  if a.noL1 then s.loadHome c w a.atHome a.count else s.loadL1 c w a.count a.stream

/-- A load of a CU: the bytes at home or in its L1 (R317, R343), read once every word of them is there, so that no part of a
store is seen (R319). -/
def State.readMem (s : State) (c : Nat) (a : Access) (pa n : Nat) : List Byte × State :=
  let ws := wordsOf pa n
  let s := ws.foldl (fun (s : State) w => (s.readWord c a w).2) (s.countPeer pa n a.count)
  (((ws.flatMap fun w => bytesOfNat 4 (s.readWord c a w).1.toNat).drop (pa % 4)).take n, s)

/-- An access is performed in the CU's L1: a store, or an atomic on a page private to the CU, but where R318 and R323 send
it home. -/
def State.inL1 (s : State) (c : Nat) (a : Access) (pa : Nat) (home : Bool) : Bool :=
  !(home || a.noL1 || a.atHome || inPeer pa || s.watchedFrame pa || s.hostBias pa) &&
    match a.op with
    | .store _ => true
    | .atom _ _ _ => s.isPrivate c (pa / 4096)
    | .cas _ _ _ => s.isPrivate c (pa / 4096)
    | _ => false

/-- A word is registered to a CU (R367). -/
def State.isRegistered (s : State) (c w : Nat) : Bool := ((s.l1? c w).map L1Word.state) == some .registered

/-- A store to both words of an 8-byte unit of which one alone is registered to the CU: the registration is recalled, so that
both words' bytes enter the coherence order together (R319). -/
def State.evenUnit (s : State) (c w : Nat) : State :=
  if s.isRegistered c w == s.isRegistered c (sibling w) then s else (s.recallWord w).recallWord (sibling w)

/-- A store of bytes through an L1, word by word. -/
def State.storeBytes (s : State) (c pa : Nat) (bs : List Byte) (count : Option Nat) (stream : Bool) : State :=
  let ws := wordsOf pa bs.length
  let s := (ws.filter fun w => w % 2 == 0 && ws.contains (w + 1)).foldl (fun (s : State) w => s.evenUnit c w) s
  (splitWords pa bs (bs.length + 1)).foldl (fun s x => s.storeL1 c x.1 x.2.1 x.2.2 count stream) s

/-- An operation that reads and writes at a die slice or at home has every token of its line there, and the line's
registrations recalled, once what the CU has itself sent is accepted (R323, R368, R369). -/
def State.bringHome (s : State) (c : Nat) (a : Access) (pa n : Nat) : State :=
  if inPeer pa then s
  else
    let s := (wordsOf pa n).foldl (fun (s : State) w => s.acceptUnit c w) s
    (linesOf pa n).foldl (fun (s : State) l => s.ownLine c l a.atHome a.count) s

/-- An access of a CU to memory: the bytes that stood there, and the state after. A store goes through L1 but where R318
sends it home; an atomic is performed in L1 on a page private to the CU (R323), and reads with every token of its line
whether or not it writes (R324, R368). -/
def State.performMem (s : State) (c : Nat) (a : Access) (pa : Nat) (home : Bool) : List Byte × State :=
  match a.op with
  | .load n _ => s.readMem c a pa n
  | .covered n => (List.replicate n 0, s)
  | op =>
    let n := op.size
    if s.zeroingFrame pa then (s.peek pa n, s.countError eZeroing)
    else
      let s := ((s.cover pa n).touch c (pa / 4096)).countPeer pa n a.count
      match op with
      | .zeroLine => (s.peek pa n, s.zeroLine (pa / 128))
      | _ =>
        if s.inL1 c a pa home then
          match op with
          | .store bs => ([], s.storeBytes c pa bs a.count a.stream)
          | _ =>
            let r := s.readMem c a pa n
            match op.after r.1 with
            | none => r
            | some new => (r.1, r.2.storeBytes c pa new a.count a.stream)
        else
          let s := s.bringHome c a pa n
          let old := s.peek pa n
          match op.after old with
          | none => (old, s)
          | some new => (old, s.writeWords pa op new fun s w v => s.storeHome c w v a.atHome a.count)

/-- A word of which a CU's L1 lacks bytes: it is not there, or an invalidation has taken those that the CU has not stored. -/
def State.missing (s : State) (c w : Nat) : Bool :=
  match (s.l1? c w).map L1Word.state with
  | none => true
  | some (.sent m rest _) => !rest && m != 15
  | _ => false

/-- What an access of a CU asks for at other holders: of whom, of which line, and of all its tokens or of one; none, where
it only sends a registration there (R317, R318, R323, R335, R367 to R369). A CU's own store whose registration is in flight is
accepted before the CU's read of it at home, which takes all the tokens. -/
def State.requests (s : State) (c : Nat) (a : Access) (pa : Nat) (home : Bool) : List (Holder × Nat × Option Bool) :=
  let die := Holder.die (dieOfCu c)
  let ws := wordsOf pa a.op.size
  let sent := (s.cu c).sentWords
  let at' := fun l : Nat => ws.filter fun w => w / 32 == l
  let fill := fun l : Nat => if (at' l).any (s.missing c) then [(die, l, some false)] else []
  if inPeer pa then []
  else
    match a.op with
    | .zeroLine => [(Holder.home, pa / 128, some true)]
    | .covered _ => []
    | .load n _ =>
      (linesOf pa n).flatMap fun l =>
        if !a.noL1 then fill l
        else if a.atHome then [(Holder.home, l, some true)]
        else [(die, l, some ((at' l).any fun w => sent.contains w || sent.contains (sibling w)))]
    | op =>
      (linesOf pa op.size).flatMap fun l =>
        let part : Bool := match op with | .store bs => bs.length < 4 | _ => true
        if !s.inL1 c a pa home then [(if a.atHome then Holder.home else die, l, some true)]
        else if s.isPrivate c (pa / 4096) || (s.pageClass (pa / 4096) == .untouched) then
          (if (s.line l).tokens die = 32 then (if part then fill l else []) else [(die, l, some true)])
        else (if part then fill l else []) ++ (if (at' l).all (s.isRegistered c) then [] else [(die, l, none)])

/-- The requests of an access that cannot be answered now: tokens that its holder must wait for (R370 to R375). -/
def State.lacking (s : State) (c : Nat) (a : Access) (pa : Nat) (home : Bool) : List (Holder × Nat × Bool) :=
  (s.requests c a pa home).filterMap fun x =>
    x.2.2.bind fun write => if s.mustWait x.1 x.2.1 write then some (x.1, x.2.1, write) else none

/-- A slice or an L1 has no room for a line of an access: every line of a full set has a registration in flight (R301). -/
def State.crowded (s : State) (c : Nat) (a : Access) (pa : Nat) (home : Bool) : Bool :=
  !inPeer pa && ((s.requests c a pa home).any (fun x => !s.hasRoom x.2.1 x.1)
    || ((match a.op with | .load _ _ => !a.noL1 | .covered _ => false | _ => s.inL1 c a pa home)
      && (linesOf pa a.op.size).any fun l => !s.hasRoomL1 c l || !s.hasRoom l (.die (dieOfCu c))))

/-- The number of the port of a die's slice for a line (R14, R309). -/
def slicePort (die line : Nat) : Nat := 32 * die + line % 32

/-- The ports of L2 slices at which an access takes a token of its context (R310): those of its die's slice, and of the home
slice of a first-tier line that it reaches at the home store. -/
def State.portsOf (s : State) (c : Nat) (a : Access) (pa : Nat) (home : Bool) : List Nat :=
  ((s.requests c a pa home).filterMap fun x =>
    match x.1 with
    | .die d => some (slicePort d x.2.1)
    | .home => if inT1 (128 * x.2.1) then some (slicePort (s.homeDie (128 * x.2.1)) x.2.1) else none
    | _ => none)

/-- Another CU owns the frame and its reclassification is not done: a miss of this one waits (R366). -/
def State.inTransit (s : State) (c f : Nat) : Bool :=
  match s.pageClass f with
  | .transit d => d != c
  | _ => false

/-- An access of a CU waits before it comes to the ports: for a page's reclassification, for tokens, or for room (R301, R366,
R370). -/
def State.tokensWait (s : State) (c : Nat) (a : Access) (pa : Nat) (home : Bool) : Bool :=
  !inPeer pa && (s.inTransit c (pa / 4096) || !(s.lacking c a pa home).isEmpty || s.crowded c a pa home)

/-- An access of a CU waits: for a page's reclassification, for tokens, for room, or at a port (R310, R366, R370). -/
def State.accessWaits (s : State) (c asid : Nat) (work : Option (Nat × Nat)) (a : Access) (pa : Nat) (home : Bool) : Bool :=
  s.tokensWait c a pa home || (s.passPorts asid work (s.portsOf c a pa home)).isNone

/-- Every registration that a CU has sent can be accepted without waiting, and is (R318, R328). -/
def State.settleSent (s : State) (c : Nat) : Option State :=
  if (s.cu c).sentWords.all fun w => !s.mustWait (.die (dieOfCu c)) (w / 32) true then some (s.acceptCu c) else none

/-- The access counter that the fill of a sent word's line raises. -/
def State.sentCounter (s : State) (c w : Nat) : Option Nat :=
  match (s.l1? c w).map L1Word.state with
  | some (.sent _ _ k) => k
  | _ => none

/-- The tokens for which a CU's sent registrations wait are asked for. -/
def State.demandSent (s : State) (c : Nat) : State :=
  (s.cu c).sentWords.foldl (fun (s : State) w =>
    if s.mustWait (.die (dieOfCu c)) (w / 32) true then s.demand (.die (dieOfCu c)) (w / 32) true (s.sentCounter c w) else s) s

/-- What an access waits for is asked for: tokens, and where there are none to wait for, its place at a port. -/
def State.demandAll (s : State) (c asid : Nat) (work : Option (Nat × Nat)) (a : Access) (pa : Nat) (home : Bool) : State :=
  if s.tokensWait c a pa home then
    (s.lacking c a pa home).foldl (fun (s : State) x => s.demand x.1 x.2.1 x.2.2 a.count) s
  else s.waitPorts s asid work (s.portsOf c a pa home)

/-- An access has been performed: it has passed its ports, and where it was the operation of a served entry, the entry is
freed; a line in host bias goes back to the host agent (R310, R373, R374). -/
def State.accessDone (s : State) (asid : Nat) (work : Option (Nat × Nat)) (ports : List Nat)
    (reqs : List (Holder × Nat × Option Bool)) : State :=
  let s := (s.passPorts asid work ports).getD s
  reqs.foldl (fun (s : State) x => ((s.dropAttempt x.1 x.2.1 (x.2.2.getD true)).operated x.1 x.2.1).backToHost x.2.1) s

/-- An access of a group's lane: the bytes that stood there, and the state after. -/
def State.performAt (s : State) (g : Group) (a : Access) (home : Bool) : List Byte × State :=
  match a.place with
  | .mem pa => s.performMem g.cu a pa home
  | .scratch t i off =>
    let n := a.op.size
    let old := s.scratchBytes t i off n
    match a.op.after old with
    | none => (old, s)
    | some new => (old, s.setScratch t i off new a.op.cures)
  | .param off => ((((s.launchOf? g).map fun l => l.paramBytes off a.op.size).getD (List.replicate a.op.size 0)), s)

/-- What a read that an instruction makes as it issues comes to: its bytes, or it waits for tokens or at a port, or it goes to
a peer that cannot be reached. -/
inductive ReadNow where
  | bytes (bs : List Byte) (s : State)
  | waits (ask : State → State)
  | gone

/-- A read that an instruction makes as it issues (R121, R178, R398), as any other access of its CU: under 0 where no operation
of the group makes it. -/
def State.readNow (s : State) (g : Group) (a : Access) : ReadNow :=
  match a.place with
  | .mem pa =>
    let asid := s.asidOf g
    let work := some (g.id, 0)
    if s.peerGone pa then .gone
    else if s.accessWaits g.cu asid work a pa true then .waits fun s => s.demandAll g.cu asid work a pa true
    else
      let r := s.performAt g a true
      .bytes r.1 (r.2.accessDone asid work (s.portsOf g.cu a pa true) (s.requests g.cu a pa true))
  | _ =>
    let r := s.performAt g a true
    .bytes r.1 r.2

/-- The register results of an access. -/
def Access.results (a : Access) (old : List Byte) : List RegWrite :=
  (a.rets.zip (a.op.result old)).map fun x => ⟨x.1, a.lane, x.2⟩

/-- The lines that an access's write enters into the group's signature (R326). -/
def Access.lines (a : Access) : List Nat :=
  match a.place, a.op with
  | .mem _, .load _ _ => []
  | .mem _, .rel _ _ _ => []
  | .mem _, .sigClear => []
  | .mem pa, op => (List.range ((pa % 128 + op.size + 127) / 128)).map (pa / 128 + ·)
  | _, _ => []

/-- Of the stores of one instruction to one place, whose sizes are equal and aligned, the highest lane's is performed
(R318) (DESIGN CHOICE, log 7); it stands for the others'. -/
def highestStores : List Access → List Access
  | [] => []
  | a :: as =>
    (match a.op with
      | .store bs => if as.any fun b => b.place == a.place then { a with op := .covered bs.length } else a
      | _ => a) :: highestStores as

/-- A lane's store that another's covers. -/
def Access.isCovered (a : Access) : Bool :=
  match a.op with
  | .covered _ => true
  | _ => false

/-- Stores that another covers are done with it. -/
def dropCovered (accs : List Access) : List Access :=
  accs.filter fun a => !a.isCovered || accs.any fun b => !b.isCovered && b.place == a.place

/-- The choice that a free value makes: the only one of a list where there is one. -/
def choose {α : Type} (l : List α) (n : Nat) : Option α :=
  match l with
  | [] => none
  | [x] => some x
  | l => l[n % l.length]?

/-! ### Single-copy atomic pieces (R237, R319) -/

/-- A place moved on by `n` bytes. -/
def Place.shift (p : Place) (n : Nat) : Place :=
  match p with
  | .mem pa => .mem (pa + n)
  | .scratch t i off => .scratch t i (off + n)
  | .param off => .param (off + n)

/-- The 8-byte word `k` of a plain load or store of more than 8 bytes, with its registers. A peer-window line of it is
counted once (R389). -/
def Access.word (a : Access) (k : Nat) : Access :=
  { a with
    va := a.va + BitVec.ofNat 64 (8 * k)
    place := a.place.shift (8 * k)
    op := match a.op with
      | .load _ sg => .load 8 sg
      | .store bs => .store ((bs.drop (8 * k)).take 8)
      | op => op
    count := match a.place with
      | .mem pa => if inPeer pa && k != 0 then none else a.count
      | _ => a.count
    rets := (a.rets.drop (2 * k)).take 2 }

/-- The single-copy atomic accesses of which a lane's access consists (R237, R319). -/
def Access.pieces (a : Access) : List Access :=
  let n := a.op.size
  match a.op with
  | .load _ _ => if n ≤ 8 then [a] else (List.range (n / 8)).map a.word
  | .store _ => if n ≤ 8 then [a] else (List.range (n / 8)).map a.word
  | _ => [a]

/-! ### One lane's accesses to one address (R78) -/

/-- Two places share a byte. -/
def Place.meets (p : Place) (m : Nat) (q : Place) (n : Nat) : Bool :=
  match p, q with
  | .mem a, .mem b => a < b + n && b < a + m
  | .scratch t i a, .scratch u j b => t == u && i == j && a < b + n && b < a + m
  | _, _ => false

/-- The accesses of lanes that an operation has still to make. -/
def Op.pendingAccesses (o : Op) : List Access :=
  match o.kind with
  | .access accs _ => accs
  | .formLoad accs _ => accs
  | .acquire pa _ _ none =>
    [⟨(lowest o.pend).getD ((lowest o.lanes).getD 0), 0, .mem pa, .load 128 false, true, false, none, [], false⟩]
  | _ => []

/-- The operation reads alone. -/
def AccessOp.readsOnly : AccessOp → Bool
  | .load _ _ => true
  | _ => false

/-- An access of an operation is in a hold buffer, by itself or with the lanes that go before it (R323, R402). -/
def State.heldAt (s : State) (gid id : Nat) (a : Access) : Bool :=
  match a.place with
  | .mem pa => s.held.any fun h => h.place == pa && (h.writer == .group gid id a.lane ||
      (match h.writer with | .group g o _ => g == gid && o == id && h.more.any fun x => x.1 == a.lane | _ => false))
  | _ => false

/-- A write that the registry keeps from being performed: it is held, or would be (R402). -/
def State.keptBack (s : State) (gid id : Nat) (a : Access) : Bool :=
  !a.op.readsOnly &&
    (s.heldAt gid id a ||
      match a.place with
      | .mem pa => s.caught pa a.op || s.behindHeld pa a.op.size || (a.isCovered && !(s.watchers pa a.op.size).isEmpty)
      | _ => false)

/-- A write is kept until a revocation has run its course (R402, R412): a held write to one of its words, its own or one before
it, has begun or joined one, or is watched by an assumption that is being revoked. -/
def State.keptLong (s : State) (gid id : Nat) (a : Access) : Bool :=
  s.keptBack gid id a &&
    match a.place with
    | .mem pa => s.held.any fun h =>
        h.place / 4 ≤ (pa + a.op.size - 1) / 4 && pa / 4 ≤ (h.place + h.op.size - 1) / 4
          && (!h.slots.isEmpty || (s.watchers h.place h.op.size).any fun k => (s.slot k).revocation.isSome)
    | _ => false

/-- An access keeps its order behind those of earlier operations by its lane to one of its bytes (R78). A read passes a
write that the registry keeps back: it returns the earlier value (R402). -/
def State.inTurn (s : State) (g : Group) (id : Nat) (a : Access) : Bool :=
  (g.ops.takeWhile fun p => p.id != id).all fun p => p.done || p.pendingAccesses.all fun b =>
    b.lane != a.lane || !b.place.meets b.op.size a.place a.op.size || (a.op.readsOnly && s.keptBack g.id p.id b)

/-- A group's outstanding operations have an access by the lane to one of `n` bytes at a place. -/
def Group.mayMeet (g : Group) (lane : Nat) (p : Place) (n : Nat) : Bool :=
  g.ops.any fun o => !o.done && o.pendingAccesses.any fun b => b.lane == lane && b.place.meets b.op.size p n

/-- An access writes the word at a place in full, and so clears its poison. -/
def Access.curesAt (a : Access) (p : Place) : Bool :=
  match a.place, p with
  | .mem x, .mem y => x ≤ y && y + 4 ≤ x + a.op.size && a.op.cures (y / 4 - x / 4)
  | .scratch t i x, .scratch u j y => t == u && i == j && x ≤ y && y + 4 ≤ x + a.op.size && a.op.cures (y / 4 - x / 4)
  | _, _ => false

/-- A lane's own write that is to be performed first will have cleared a word's poison (R78, R308). -/
def Group.cured (g : Group) (lane : Nat) (p : Place) : Bool :=
  g.ops.any fun o => !o.done && o.pendingAccesses.any fun b => b.lane == lane && b.curesAt p

/-! ### The checks of R316 -/

/-- The lowest address of a list of lanes and addresses. -/
def leastAddr (xs : List (Nat × Nat)) : Option Nat := least (xs.map Prod.snd)

/-- The mask of the lanes of a list. -/
def lanesMask (xs : List (Nat × Nat)) : Mask := maskOf fun i => xs.any fun x => x.1 == i

/-- Check 1 of R316: alignment. ALD and AST make it too; where lanes of theirs fail a check in different ways the record is
that of the lowest failing address, as R316 has it for its own row (DESIGN CHOICE, log 62). -/
def alignCheck (c : Ictx) (z : Nat) (xs : List (Nat × Nat)) : Option FaultRecord :=
  let bad := xs.filter fun x => x.2 % z != 0
  (leastAddr bad).map fun a => recordOf fMisalignedAccess (lanesMask bad) c.addr (BitVec.ofNat 64 a) z

/-- A translated lane: lane, address and translation. -/
structure Reached where
  lane : Nat
  va   : DWord
  tlb  : Tlb

/-- The physical address of a translated lane. -/
def Reached.pa (r : Reached) : Nat := r.tlb.pa' r.va.toNat

/-- Check 3 of R316: every lane is translated; where some fail, the record is that of the lowest failing address, and the
walks that did not fail leave their entries (R392). -/
def State.translateLanes (s : State) (c : Ictx) (kind : AccessKind) (xs : List (Nat × DWord)) :
    Checked (List Reached × State) :=
  match s.contextOf? c.g with
  | none => .ok ([], s)
  | some ctx =>
    let r := xs.foldl (fun (acc : List Reached × List (Nat × Nat × WalkFault) × State) x =>
      match acc.2.2.translate c.g.cu .data ctx x.2 kind with
      | (.ok t, s') => (acc.1 ++ [⟨x.1, x.2, t⟩], acc.2.1, s')
      | (.error f, s') => (acc.1, acc.2.1 ++ [(x.1, x.2.toNat, f)], s')) ([], [], s)
    let bad := r.2.1.map fun b => (b.1, b.2.1)
    match leastAddr bad with
    | none => .ok (r.1, r.2.2)
    | some a =>
      match r.2.1.find? fun b => b.2.1 == a with
      | some b => .error (pageRecord b.2.2 (kindWrites kind) false (lanesMask bad) c.addr (BitVec.ofNat 64 a), some r.2.2)
      | none => .ok (r.1, r.2.2)

/-- A write's page fault is a write to an image frame, which is never replayable, whatever the leaf admits (R156). -/
def State.imageFault (s : State) (g : Group) (r : FaultRecord) : Bool :=
  r.fcode == fPageFault && r.kind == 2 && r.write &&
    match s.contextOf? g with
    | none => false
    | some ctx =>
      match s.walk (dieOfCu g.cu) { s.walker ctx (some (portOfCu g.cu)) with engine := true } r.addr .any with
      | .ok (t, _) => (s.imageAt? (t.pa' r.addr.toNat)).isSome
      | .error _ => false

/-- A fault of an access as the instruction's effect; where it has been translated, with what its walks left (R392). -/
def State.faulted (s : State) (g : Group) (r : FaultRecord × Option State) : Effect :=
  match r.2 with
  | none => if s.imageFault g r.1 then .trapImage r.1 else .trap r.1
  | some t => .trapAfter r.1 (s.imageFault g r.1) t

/-- Check 4 of R316: poison in the words that each lane reads; addresses are virtual or scratchpad offsets. -/
def poisonCheck (c : Ictx) (bad : List (Nat × Nat)) : Option FaultRecord :=
  (leastAddr bad).map fun a => recordOf fMemoryPoison (lanesMask bad) c.addr (BitVec.ofNat 64 a) 0

/-- A CU's L1 holds all of a word by a store whose registration it has sent (R308, R368). -/
def State.sentWhole (s : State) (c w : Nat) : Bool :=
  match (s.l1? c w).map L1Word.state with
  | some (.sent m _ _) => m == 15
  | _ => false

/-- The poisoned words that an access reads, as lane and address. -/
def State.poisonOf (s : State) (g : Group) (lane va pa : Nat) (op : AccessOp) : List (Nat × Nat) :=
  ((wordsOf pa op.size).filter fun w =>
    s.poisoned w && !s.sentWhole g.cu w && op.reads (w - pa / 4) && !g.cured lane (.mem (4 * w))).map fun w =>
      (lane, va / 4 * 4 + 4 * (w - pa / 4))

/-- The poisoned scratchpad words that an access reads, as lane and offset. -/
def State.scratchPoisonOf (s : State) (g : Group) (lane off : Nat) (p : Place) (op : AccessOp) : List (Nat × Nat) :=
  match p with
  | .scratch t i o =>
    ((s.scratchPoisoned t i o op.size).filter fun w =>
      op.reads (w - (2 ^ 20 * i + o) / 4) && !g.cured lane (.scratch t i (4 * w - 2 ^ 20 * i))).map fun w =>
      (lane, off / 4 * 4 + 4 * (w - (2 ^ 20 * i + o) / 4))
  | _ => []

/-- The access counter of an address (R389). -/
def Context.counterOf (ctx : Context) (t : Tlb) (va : Nat) : Option Nat :=
  if t.ac && ctx.acbase != 0 then some (ctx.acbase + 4 * (va / 4096 % 2 ^ ctx.aclog2)) else none

/-- The access of a translated lane. -/
def State.reachedAccess (s : State) (g : Group) (r : Reached) (op : AccessOp) (noL1 : Bool) (rets : List Nat)
    (stream : Bool := false) : Access where
  lane := r.lane
  va := r.va
  place := .mem r.pa
  op := op
  noL1 := noL1 || r.tlb.attr != 0
  atHome := r.tlb.attr == 2
  count := (s.contextOf? g).bind fun ctx => ctx.counterOf r.tlb r.va.toNat
  rets := rets
  stream := stream

/-- Accesses to virtual addresses (R316): checks 1, 3 and 4 over all lanes, then the accesses. -/
def State.reach (s : State) (c : Ictx) (z : Nat) (kind : AccessKind) (xs : List (Nat × DWord)) (op : Nat → AccessOp)
    (noL1 : Bool) (rets : List Nat) (stream : Bool := false) : Checked (List Access × State) :=
  match alignCheck c z (xs.map fun x => (x.1, x.2.toNat)) with
  | some r => .error (r, none)
  | none =>
    match s.translateLanes c kind xs with
    | .error r => .error r
    | .ok (rs, s) =>
      match poisonCheck c (rs.flatMap fun r => s.poisonOf c.g r.lane r.va.toNat r.pa (op r.lane)) with
      | some r => .error (r, some s)
      | none => .ok (rs.flatMap fun r => (s.reachedAccess c.g r (op r.lane) noL1 rets stream).pieces, s)

/-- Accesses to scratchpad offsets (R316): checks 1, 2 and 4 over all lanes. -/
def State.reachScratch (s : State) (c : Ictx) (z : Nat) (write : Bool) (xs : List (Nat × Nat)) (op : Nat → AccessOp)
    (rets : List Nat) : Checked (List Access) :=
  match alignCheck c z xs with
  | some r => .error (r, none)
  | none =>
    match s.team? c.g.team with
    | none => .ok []
    | some t =>
      let bad := xs.filter fun x => (t.place? x.2 (op x.1).size).isNone
      match leastAddr bad with
      | some a => .error (scratchRecord c (lanesMask bad) write a, none)
      | none =>
        let accs := xs.filterMap fun x => (t.place? x.2 (op x.1).size).map fun p =>
          (⟨x.1, BitVec.ofNat 64 x.2, p, op x.1, false, false, none, rets, false⟩ : Access)
        match poisonCheck c (accs.flatMap fun a => s.scratchPoisonOf c.g a.lane a.va.toNat a.place a.op) with
        | some r => .error (r, none)
        | none => .ok (accs.flatMap Access.pieces)

end Sys2Proof.Machine
end

