-- ==== Sys2Proof/Machine/Codebook.lean ====
section
/-!
DEFINITION. Codebooks (08, R178): their reading by a CU, and CBDEC (09, R213).
-/
namespace Sys2Proof.Machine

/-- A context loses its link to a peer (R19, R470). No link has failed, so the number of one that `sr.finfo` holds is a free
value (DESIGN CHOICE, log 30). -/
def State.peerRecord (s : State) (lanes : Mask) (pc : DWord) : FaultRecord :=
  recordOf fLinkFailure lanes pc 0 (Config.pathLink s.draws % s.linkCount)

/-- What a read of a codebook comes to. -/
inductive BookRead where
  | words (ws : List Word) (s : State)
  | waits (ask : State → State)
  | fault (r : FaultRecord) (s : State)

/-- Bytes cut at line bounds: address and size of each part. -/
def lineCuts (va : DWord) (n : Nat) : Nat → List (DWord × Nat)
  | 0 => []
  | fuel + 1 =>
    if n = 0 then []
    else
      let k := min n (128 - va.toNat % 128)
      (va, k) :: lineCuts (va + BitVec.ofNat 64 k) (n - k) fuel

/-- The bytes of a codebook in one line are read: all the bytes so far. -/
def State.bookLine (s : State) (g : Group) (ctx : Context) (lanes : Mask) (pc va : DWord) (n : Nat) (bs : List Byte) :
    BookRead × List Byte :=
  match s.translate g.cu .data ctx va .read with
  | (.error e, s) => (.fault (pageRecord e false false lanes pc va) s, bs)
  | (.ok t, s) =>
    let pa := t.pa' va.toNat
    match (wordsOf pa n).find? s.poisoned with
    | some w => (.fault (recordOf fMemoryPoison lanes pc (va + BitVec.ofNat 64 (4 * (w - pa / 4))) 0) s, bs)
    | none =>
      match s.readNow g ⟨0, va, .mem pa, .load n false, true, t.attr == 2, ctx.counterOf t va.toNat, [], false⟩ with
      | .gone => (.fault (s.peerRecord lanes pc) s, bs)
      | .waits ask => (.waits ask, bs)
      | .bytes new s => (.words [] s, bs ++ new)

/-- The lines of a codebook are read one after another. -/
def State.bookLines (s : State) (g : Group) (ctx : Context) (lanes : Mask) (pc : DWord) : List (DWord × Nat) → List Byte →
    BookRead × List Byte
  | [], bs => (.words [] s, bs)
  | x :: xs, bs =>
    match s.bookLine g ctx lanes pc x.1 x.2 bs with
    | (.words _ s, bs) => s.bookLines g ctx lanes pc xs bs
    | r => r

/-- The codebook of a slot on the group's CU: the copy read at first use, or a read of it now (R178, R213). Its entries are read
at one instant, so that no copy mixes entries from before and after a store (DESIGN CHOICE, log 12); the reading waits until
every entry's tokens can be had. -/
def State.readBook (s : State) (g : Group) (k : Nat) (lanes : Mask) (pc : DWord) : BookRead :=
  let launch := ((s.launchOf? g).map Launch.id).getD 0
  match (s.cu g.cu).books.find? fun b => b.1 == launch && b.2.1 == k with
  | some b => .words b.2.2 s
  | none =>
    match s.contextOf? g with
    | none => .words [] s
    | some ctx =>
      let base := (tensorOf (ctx.object (slotBook (s.slotBits g k)))).base
      let skew := base.toNat % 4
      let parts := lineCuts (base - BitVec.ofNat 64 skew) (if skew = 0 then 1024 else 1028) 10
      match s.bookLines g ctx lanes pc parts [] with
      | (.words _ s, bs) =>
        let ws := (List.range 256).map fun j => BitVec.ofNat 32 (natOfBytes ((bs.drop (skew + 4 * j)).take 4))
        .words ws (s.modCu g.cu fun c => { c with books := (launch, k, ws) :: c.books })
      | (r, _) => r

/-- One weight of CBDEC as an f32 code (R177, R213). -/
def cbWeight (mode : Mode) (sat : Bool) (scale : Nat) (w : Bool × Nat) : Nat :=
  if scale = 0xFF then f32.nanCode
  else f32.roundTo mode sat false w.1 w.2 ((scale : Int) - 128) false

/-- CBDEC (R213). -/
def execCbdec (f : Fields) (s : State) : Host.Outcome State Fault Refusal :=
  issue (.cbdec f) f .whole (slotGuard cvtSlot (fun _ _ => []) (fun x => slotElement x == 7) true)
    (fun c s =>
      if c.parts == 0 then .done (s.start c [] 0 (.result [] []))
      else
        match s.readBook c.g (cvtSlot f) c.parts c.addr with
        | .fault r t => .trapAfter r false t
        | .waits ask => .hold ask
        | .words book s =>
          let x := s.slotBits c.g (cvtSlot f)
          let ws := (lanesOf c.parts).flatMap fun i =>
            let idx := (c.a i).toNat % 2 ^ 16
            let weights := cb2Weights idx (book.getD (idx / 256) 0).toNat
            (List.range 8).map fun k => (⟨f.dst.toNat + k, i, word32
              (cbWeight (rmode f) (slotSat x) ((c.b i).toNat % 256) (weights.getD k (false, 0)))⟩ : RegWrite)
          .done (s.start c ((List.range 8).map (f.dst.toNat + ·)) c.parts (.result ws []))) s

end Sys2Proof.Machine
end

