-- ==== Sys2Proof/Machine/Matrix.lean ====
section
/-!
DEFINITION. The matrix row (13, R250 to R264; 14, R265 to R276): shapes and slots, the accumulation of R257, the
multiplies that a join issues, the completion of joins (02, R40 to R43), and MBMAP, MZERO, MSCALE, MLDF and MSTF.
-/
namespace Sys2Proof.Machine

/-! ### Shapes and slots (R250, R265, R268) -/

/-- K of the shape that two element formats select for MMA and MMAS, or for MMACB (R250). -/
def shapeK (cb : Bool) (a b : Nat) : Option Nat :=
  if cb then (if a = 6 && b = 7 then some 128 else none)
  else if a = b && (a = 2 || a = 3) then some 32
  else if [4, 5].contains a && [4, 5].contains b then some 64
  else if [8, 0x0B].contains a && [8, 0x0B].contains b then some 64
  else if a = 6 && b = 6 then some 128
  else none

/-- The element format is A's in some pair that the instruction accepts (R268). -/
def pairHasA (cb : Bool) (a : Nat) : Bool := if cb then a == 6 else [2, 3, 4, 5, 6, 8, 0x0B].contains a

/-- A slot of R265 in the low three bits of a block field. -/
def slotOf (x : BitVec 8) : Nat := x.toNat % 8
/-- The first register of an operand block, and of an accumulator block (R265). -/
def blockOf (x : BitVec 8) : Nat := x.toNat / 8 * 8
def accOf (x : BitVec 8) : Nat := x.toNat / 16 * 16

/-- The guard of MMA and MMAS, or of MMACB (R265, R268). -/
def mulGuard (cb : Bool) (s : State) (g : Group) (f : Fields) : Guard :=
  let xa := s.slotBits g (slotOf f.srca)
  let xb := s.slotBits g (slotOf f.srcb)
  let ea := slotElement xa
  let eb := slotElement xb
  let shape := shapeK cb ea eb
  let ctx := s.contextOf? g
  { blocks := if shape.isSome then
        [(.packed 4 32 32, f.dst.toNat), (.packed 3 16 16, f.srca.toNat),
          (if cb then .packed 3 8 8 else .packed 3 16 16, f.srcb.toNat)]
      else [(.packed 4 1 1, f.dst.toNat), (.packed 3 1 1, f.srca.toNat), (.packed 3 1 1, f.srcb.toNat)]
    unit := if s.noCbdec && (cb || ea == 7 || eb == 7) then some 1 else none
    priv := false
    slot :=
      if !slotOk ctx xa then some (slotOf f.srca)
      else if !slotOk ctx xb then some (slotOf f.srcb)
      else if shape.isSome then none
      else if pairHasA cb ea then some (slotOf f.srcb) else some (slotOf f.srca) }

/-- The guard of MMAD: the FP64 matrix path (R28). -/
def madGuard (s : State) (_ : Group) (_ : Fields) : Guard :=
  { blocks := [], unit := if s.noFp64mat then some 0 else none, priv := false, slot := none }

/-- The element formats of which MBMAP makes a bitmap (R272). -/
def mapsElement (e : Nat) : Bool := [2, 3, 4, 5, 6, 8, 0x0B].contains e

/-- The guard of MBMAP (R186, R272): a scale that the slot's format takes is ignored (DEDUCED, log 36). -/
def mapGuard (s : State) (g : Group) (f : Fields) : Guard :=
  let x := s.slotBits g (slotOf f.srca)
  let e := slotElement x
  { blocks := [(if mapsElement e then .packed 3 16 16 else .packed 3 1 1, f.srca.toNat)]
    unit := if s.noCbdec && e == 7 then some 1 else none
    priv := false
    slot := if slotOk (s.contextOf? g) x && mapsElement e then none else some (slotOf f.srca) }

/-! ### Operands (R252 to R256, R257) -/

/-- The codes of a packed register (R252). -/
def unpack (p w : Nat) : List Nat := (List.range p).map fun j => w / 2 ^ (32 / p * j) % 2 ^ (32 / p)

/-- A list cut into pieces of `n`. -/
def piecesFrom {α : Type} (n : Nat) : Nat → List α → List (List α)
  | 0, _ => []
  | fuel + 1, l => if l.isEmpty then [] else l.take n :: piecesFrom n fuel (l.drop n)

/-- An element as the engine reads it: the bf16 flush of R185, the scale of R187, and NaN under a scale of 0xFF. -/
def operandNum (element : Nat) (scale : Option Nat) (code : Nat) : Num :=
  if scale == some 0xFF then .nan false 0x400000
  else
    match fmtOf element with
    | some F =>
      if element = 3 && code % 2 ^ 15 < 2 ^ 7 then .fin (code.testBit 15) 0 0
      else scaleNum (F.read code) (match scale with | some k => (k : Int) - 127 | none => 0)
    | none => .fin false code 0

/-- A scale latch's code: SA, or SB in the upper part (R256). -/
def Group.scaleOf (g : Group) (sb : Bool) (x q : Nat) : Nat :=
  (sget (0x7F#8) g.scales ((if sb then 2 ^ 16 else 0) + 32 * q + x)).toNat

/-- The scale of element `k` of row or column `x` under a slot. -/
def Group.elementScale (g : Group) (sb : Bool) (slot : BitVec 64) (x k : Nat) : Option Nat :=
  if slotScale slot == 0x0A then some (g.scaleOf sb x (k / 2 ^ slotBlock slot)) else none

/-- The codes of a fragment's row or column, in K order (R252). -/
def Group.codesOf (g : Group) (element first lane : Nat) : List Nat :=
  (List.range 16).flatMap fun r => unpack (packedCount element) (g.reg (first + r) lane).toNat

/-- A row of A or a column of B in chunks of eight (R252, R257). -/
def Group.fragment (g : Group) (sb : Bool) (slot : BitVec 64) (first lane : Nat) : List (List Num) :=
  let el := slotElement slot
  piecesFrom 8 16 ((g.codesOf el first lane).zipIdx.map fun c =>
    operandNum el (g.elementScale sb slot lane c.2) c.1)

/-- A column of B decoded through its codebook, in chunks of eight (R177, R252, R261). -/
def Group.bookColumn (g : Group) (slot : BitVec 64) (book : List Word) (first lane : Nat) : List (List Num) :=
  let idx := (List.range 8).flatMap fun r => unpack 2 (g.reg (first + r) lane).toNat
  idx.zipIdx.map fun j =>
    (cb2Weights j.1 (book.getD (j.1 / 256) 0).toNat).map fun w =>
      match g.elementScale true slot lane (8 * j.2) with
      | some 0xFF => .nan false 0x400000
      | some k => .fin w.1 w.2 ((k : Int) - 128)
      | none => .fin w.1 w.2 (-1)

/-! ### Accumulation (R257, R258) -/

/-- A product (R258). -/
def mulNum : Num → Num → Num
  | .nan s m, _ => .nan s m
  | _, .nan s m => .nan s m
  | .inf s, .inf t => .inf (s != t)
  | .inf s, .fin t n _ => if n = 0 then .nan false 0 else .inf (s != t)
  | .fin s n _, .inf t => if n = 0 then .nan false 0 else .inf (s != t)
  | .fin s n e, .fin t m d => .fin (s != t) (n * m) (e + d)

/-- The least exponent of a list of finite values. -/
def minExp (ps : List Num) : Int :=
  (ps.filterMap fun p => match p with | .fin _ n e => if n = 0 then none else some e | _ => none).foldl
    (fun (a : Option Int) e => some (match a with | some b => min b e | none => e)) none |>.getD 0

/-- The exact sum of a chunk's products (R258). -/
def chunkSum (ps : List Num) : Num :=
  if ps.any Num.isNan then .nan false 0
  else
    let pos := ps.any fun p => p == .inf false
    let neg := ps.any fun p => p == .inf true
    if pos && neg then .nan false 0
    else if pos then .inf false
    else if neg then .inf true
    else
      let q := minExp ps
      let v := ps.foldl (fun (a : Int) p => match p with | .fin s n e => a + alignTo s n e q | _ => a) 0
      if v = 0 then .fin (ps.all fun p => match p with | .fin s n _ => s && n == 0 | _ => false) 0 q
      else .fin (v < 0) v.natAbs q

/-- chunk_add of a floating-point accumulator (R257). -/
def chunkAdd (F : Fmt) (c : Nat) (s : Num) : Nat :=
  match F.read c, s with
  | .nan _ _, _ => F.quiet c
  | _, .nan _ _ => F.nan
  | .inf a, .inf b => if a == b then c else F.nan
  | .inf _, .fin _ _ _ => c
  | .fin _ _ _, .inf b => F.signed b F.top
  | .fin s1 n1 e1, .fin s2 n2 e2 => F.sum 0 s1 n1 e1 s2 n2 e2

/-- An element of D with a floating-point accumulator (R257): `on` says which chunks contribute (R260). -/
def accumulate (F : Fmt) (on : Nat → Bool) (a b : List (List Num)) (c : Nat) : Nat :=
  ((a.zip b).zipIdx).foldl (fun c x =>
    if on x.2 then chunkAdd F c (chunkSum (List.zipWith mulNum x.1.1 x.1.2)) else c) c

/-- An integer element (R174). -/
def elementInt (element code : Nat) : Int :=
  if element = 8 then (BitVec.ofNat 8 code).toInt else (code : Int)

/-- An element of D with the s32 accumulator (R258). -/
def accumulateInt (on : Nat → Bool) (a b : List (List Int)) (c : Word) : Word :=
  ((a.zip b).zipIdx).foldl (fun c x =>
    if on x.2 then c + BitVec.ofInt 32 ((List.zipWith (· * ·) x.1.1 x.1.2).foldl (· + ·) 0) else c) c

/-- The D block of a 32 × 32 multiply, from the group as it stands (R257, R262). -/
def Group.multiply (g : Group) (xa xb : BitVec 64) (book : Option (List Word)) (acc fa fb : Nat)
    (on : Nat → Nat → Bool) : List RegWrite :=
  let ea := slotElement xa
  let eb := slotElement xb
  if (fmtOf ea).isNone then
    let ints := fun (el first lane : Nat) =>
      piecesFrom 8 16 ((g.codesOf el first lane).map (elementInt el))
    let cols := (List.range 32).map fun n => ints eb fb n
    (List.range 32).flatMap fun m =>
      let row := ints ea fa m
      cols.zipIdx.map fun c => ⟨acc + c.2, m, accumulateInt (on (m / 8)) row c.1 (g.reg (acc + c.2) m)⟩
  else
    let cols := (List.range 32).map fun n =>
      match book with
      | some b => g.bookColumn xb b fb n
      | none => g.fragment true xb fb n
    (List.range 32).flatMap fun m =>
      let row := g.fragment false xa fa m
      cols.zipIdx.map fun c =>
        ⟨acc + c.2, m, word32 (accumulate f32 (on (m / 8)) row c.1 (g.reg (acc + c.2) m).toNat)⟩

/-- A row of A or a column of B of the f64 shape, in chunks of four (R254). -/
def Group.fragment64 (g : Group) (first r : Nat) : List (List Num) :=
  [0, 1].map fun h => (List.range 4).map fun k => f64.read (g.reg64 (first + 2 * k) (r + 16 * h)).toNat

/-- The D block of MMAD (R254, R257). -/
def Group.multiply64 (g : Group) (acc fa fb : Nat) : List RegWrite :=
  (List.range 16).flatMap fun m => (List.range 16).flatMap fun n =>
    let lane := m + 16 * (n / 8)
    let r := acc + 2 * (n % 8)
    let d := word64 (accumulate f64 (fun _ => true) (g.fragment64 fa m) (g.fragment64 fb n) (g.reg64 r lane).toNat)
    [⟨r, lane, d.extractLsb' 0 32⟩, ⟨r + 1, lane, d.extractLsb' 32 32⟩]

/-! ### Engine issue (R267) -/

/-- An engine issue: `oc.mat`, the slot and the destination registers, and a place in the engine's queue. -/
def State.engineIssue (s : State) (gid : Nat) (addr : DWord) (f : Fields) (dsts : List Nat) (regs : List RegWrite)
    (image : List Access) : State :=
  let o : Op :=
    { id := s.nextId, pc := addr, cls := some 2, slot := f.sbset.toNat, look := f.look.toNat, since0 := 0, since1 := 0
      lanes := Mask.all, dsts := dsts, pend := if dsts.isEmpty then 0 else Mask.all
      kind := .matrix regs image false, weight := 1, late := [], shadow := [], fixed := [], done := false }
  match s.group? gid with
  | none => s
  | some g =>
    let s := { (s.putGroup { g with ops := g.ops ++ [o] }) with nextId := s.nextId + 1 }
    s.modCu g.cu fun k => { k with matrixQueue := k.matrixQueue ++ [(gid, o.id)] }

/-- Registers of a block. -/
def block (first n : Nat) : List Nat := (List.range n).map (first + ·)

/-- The lowest lane of a join's declared mask, from which the bitmap is read (R260). Of an empty mask, which JENR may declare
while lanes are held at an MMAS, it is lane 0 (DESIGN CHOICE, log 64). -/
def Join.lead (j : Join) : Nat := (lowest j.declared).getD 0

/-- The bit of block (rb, kb) of an MMAS bitmap (R260). -/
def bitmapBit (bm : DWord) (k rb kb : Nat) : Bool := bm.getLsbD (rb * (k / 8) + kb)

/-- The registers, as keys, that a multiply captures in all 32 lanes: its A and B blocks, its accumulator, and the bitmap pair
of MMAS (R262). -/
def captured (g : Group) : Instr → List Nat
  | .mma f => blockKeys (accOf f.dst) 32 ++ blockKeys (blockOf f.srca) 16 ++ blockKeys (blockOf f.srcb) 16
  | .mmas f =>
    blockKeys (accOf f.dst) 32 ++ blockKeys (blockOf f.srca) 16 ++ blockKeys (blockOf f.srcb) 16
      ++ [0, 1].map fun r => regKey (f.srcc.toNat + r) (g.join (f.dst.toNat % 16)).lead
  | .mmacb f => blockKeys (accOf f.dst) 32 ++ blockKeys (blockOf f.srca) 16 ++ blockKeys (blockOf f.srcb) 8
  | .mmad f => blockKeys (accOf f.dst) 16 ++ blockKeys (blockOf f.srca) 8 ++ blockKeys (blockOf f.srcb) 8
  | _ => []

/-- A multiply issues to the engine, capturing its operands as they stand, which are read so from then on (R74, R262, R269).
An MMACB's codebook read may fault or wait first (R270). -/
def State.fire (s : State) (gid : Nat) (addr : DWord) (lanes : Mask) (i : Instr) : Effect :=
  match s.group? gid with
  | none => .done s
  | some g =>
    let go := fun (s : State) (f : Fields) (n : Nat) (regs : List RegWrite) =>
      .done ((s.modGroup gid fun g => g.noteReads (captured g i)).engineIssue gid addr f (block (accOf f.dst) n) regs [])
    match i with
    | .mma f =>
      go s f 32 (g.multiply (s.slotBits g (slotOf f.srca)) (s.slotBits g (slotOf f.srcb)) none
        (accOf f.dst) (blockOf f.srca) (blockOf f.srcb) fun _ _ => true)
    | .mmas f =>
      let xa := s.slotBits g (slotOf f.srca)
      let xb := s.slotBits g (slotOf f.srcb)
      let bm := g.reg64 f.srcc.toNat (g.join (f.dst.toNat % 16)).lead
      let k := (shapeK false (slotElement xa) (slotElement xb)).getD 0
      go s f 32 (g.multiply xa xb none (accOf f.dst) (blockOf f.srca) (blockOf f.srcb) (bitmapBit bm k))
    | .mmacb f =>
      match s.readBook g (slotOf f.srcb) lanes addr with
      | .fault r t => .trapAfter r false t
      | .waits ask => .hold ask
      | .words book s =>
        go s f 32 (g.multiply (s.slotBits g (slotOf f.srca)) (s.slotBits g (slotOf f.srcb)) (some book)
          (accOf f.dst) (blockOf f.srca) (blockOf f.srcb) fun _ _ => true)
    | .mmad f => go s f 16 (g.multiply64 (accOf f.dst) (blockOf f.srca) (blockOf f.srcb))
    | _ => .done s

/-! ### Joins (R40 to R43) -/

/-- The exited lanes. -/
def Group.gone (g : Group) : Mask := maskOf fun i => (g.lane i).exited

/-- A join is complete: every declared lane has signed or exited (R40). -/
def Group.joined (g : Group) (j : Nat) : Bool :=
  (g.join j).declared &&& ~~~((g.join j).signed ||| g.gone) == 0

/-- The lanes that a test of their park state selects. -/
def Group.parkedLanes (g : Group) (p : Park → Bool) : Mask :=
  maskOf fun i => !(g.lane i).exited && p (g.lane i).park

/-- The lanes parked at a JWAIT on a join. -/
def Group.waiters (g : Group) (j : Nat) : Mask :=
  g.parkedLanes fun p => match p with | .join k => k == j | _ => false
/-- The lanes held at a multiply that names a join. -/
def Group.holders (g : Group) (j : Nat) : Mask :=
  g.parkedLanes fun p => match p with | .mma k _ => k == j | _ => false

/-- A lane leaves its park, past the instruction at which it waited. -/
def Lane.unpark (l : Lane) : Lane := { l with park := .running, pos := l.pos.next }

/-- The multiply held at a lane. -/
def Lane.heldInstr (l : Lane) : Option (Nat × Instr) :=
  match l.park with
  | .mma _ i => some (l.pc.toNat, i)
  | _ => none

/-- The multiplies at which lanes are held on a join: address, instruction and lanes, in ascending order of address. -/
def Group.heldAt (g : Group) (j : Nat) : List (Nat × Instr × Mask) :=
  let hs := (lanesOf (g.holders j)).filterMap fun i => (g.lane i).heldInstr
  let pcs := sortBy (fun a b => a ≤ b) (hs.map Prod.fst).eraseDups
  pcs.filterMap fun p => (hs.find? fun h => h.1 == p).map fun h =>
    (p, h.2, maskOf fun i => (g.holders j).has i && (g.lane i).pc.toNat == p)

/-- The fields of a multiply. -/
def mulFields : Instr → Option Fields
  | .mma f => some f
  | .mmas f => some f
  | .mmacb f => some f
  | .mmad f => some f
  | _ => none

/-- The engine issues of a list of multiplies fit together, as they issue in one cycle (R41): `oc.mat`, their slots and the
queue have room (R263, R267). More than the queue's 16, or than the 15 of a slot, enter it when it holds none (DESIGN CHOICE,
log 27). -/
def State.engineRoom (s : State) (g : Group) (fs : List Fields) : Bool :=
  let k := fs.length
  let queue := (s.cu g.cu).matrixQueue.length
  g.counter 2 + k ≤ 63 && (queue + k ≤ 16 || queue == 0)
    && fs.all fun f => f.sbset == 0
      || g.slotCount f.sbset.toNat + (fs.filter fun f' => f'.sbset == f.sbset).length ≤ 15 || g.slotCount f.sbset.toNat == 0

/-- The held multiplies of a complete join issue in ascending order of address. The lanes recorded of a codebook fault are
those of `now` where they are held there (R270, DEDUCED, log 27). -/
def State.fireAll (s : State) (gid : Nat) (now : Mask) : List (Nat × Instr × Mask) → Effect
  | [] => .done s
  | (p, i, m) :: rest =>
    match s.fire gid (BitVec.ofNat 64 p) (if m &&& now == 0 then m else m &&& now) i with
    | .done s => s.fireAll gid now rest
    | e => e

/-- Lanes of a join leave their parks together, unless one of them would leave the group's region (R41, R408). -/
def State.freeLanes (s : State) (g : Group) (j : Nat) : Effect :=
  let m := g.waiters j ||| g.holders j
  let g' := ((s.group? g.id).getD g).modLanes m Lane.unpark
  let g' := g'.setJoin j ⟨(g.join j).declared, 0⟩
  let out := (lanesOf m).filter fun k => (s.escape g' 0 (maskOf (· == k))).isSome
  match out.head? with
  | none => .done (s.putGroup g')
  | some k =>
    match s.escape g' (g.lane k).pc (maskOf fun x => out.contains x && (g.lane x).pc == (g.lane k).pc) with
    | some r => .trap r
    | none => .done (s.putGroup g')

/-- One join of a group is settled: where it is complete, its held multiplies issue, its waiters and holders go, and its
signed mask is cleared, all in one cycle; the issue that completes it waits until the engine has room for all of them (R41,
R267, R269). -/
def State.settleJoin (s : State) (gid : Nat) (now : Mask) (j : Nat) : Effect :=
  match s.group? gid with
  | none => .done s
  | some g =>
    if !g.joined j then .done s
    else
      let held := g.heldAt j
      if !held.isEmpty && !s.engineRoom g (held.filterMap fun h => mulFields h.2.1) then .stall
      else
        match s.fireAll gid now held with
        | .done s => s.freeLanes g j
        | e => e

/-- Every join of a group is settled. -/
def State.settleJoins (s : State) (gid : Nat) (now : Mask) : List Nat → Effect
  | [] => .done s
  | j :: js =>
    match s.settleJoin gid now j with
    | .done s => s.settleJoins gid now js
    | e => e

/-- The joins on which lanes are parked. -/
def Group.parkedJoins (g : Group) : List Nat :=
  (List.range 16).filter fun j => g.waiters j != 0 || g.holders j != 0

/-- JOIN_DEADLOCK (R43): every lane that has not exited is parked, and no join with parked lanes is complete. -/
def Group.deadlock (g : Group) : Option FaultRecord :=
  if g.live != 0 && g.active == 0 && !(g.parkedJoins.any g.joined) then
    some (recordOf fJoinDeadlock g.live ((g.minPc g.live).getD 0) 0 (g.parkedJoins.foldl (fun m j => m + 2 ^ j) 0))
  else none

/-- The joins of a group are settled as an instruction's effect, in the instant in which they become complete (R41); no
lane is unparked while the group is in handler mode (R140). -/
def State.settled (s : State) (gid : Nat) (now : Mask) : Effect :=
  let deadlocked := fun s : State =>
    match (s.group? gid).bind fun g => g.deadlock.map fun r => (g, r) with
    | some x => s.beginEndOf (s.asidOf x.1) x.1 x.2
    | none => s
  match s.group? gid with
  | none => .done s
  | some g =>
    if g.handler then .done (deadlocked s)
    else
      match s.settleJoins gid now (List.range 16) with
      | .done s => .done (deadlocked s)
      | e => e

/-! ### The multiplies (R269, R270) -/

/-- HANDLER_STATE at an instruction (R137). -/
def handlerState (c : Ictx) : FaultRecord := recordOf fHandlerState c.all c.addr c.word 0

/-- An issue that reaches a multiply: every issuing lane signs and is held, and the join is settled (R42, R269). -/
def multiplyOwn (i : Instr) (c : Ictx) (s : State) : Effect :=
  let j := c.f.dst.toNat % 16
  if c.g.handler then .trap (handlerState c)
  else
    let stray := c.lanes &&& ~~~(c.g.join j).declared
    if stray != 0 then .trap (recordOf fJoinMismatch stray c.addr 0 j)
    else
      let s := s.modGroup c.g.id fun g =>
        let g := { g with
          lanes := (List.range 32).map fun k =>
            if c.lanes.has k then { c.g.lane k with park := .mma j i } else g.lane k }
        g.setJoin j ⟨(g.join j).declared, (g.join j).signed ||| c.lanes⟩
      s.settled c.g.id c.lanes

/-- MMA (R268, R269). -/
def execMma (f : Fields) (s : State) : Host.Outcome State Fault Refusal :=
  issue (.mma f) f .whole (mulGuard false) (multiplyOwn (.mma f)) s

/-- MMAS (R260, R268, R269). -/
def execMmas (f : Fields) (s : State) : Host.Outcome State Fault Refusal :=
  issue (.mmas f) f .whole (mulGuard false) (multiplyOwn (.mmas f)) s

/-- MMACB (R261, R268, R269). -/
def execMmacb (f : Fields) (s : State) : Host.Outcome State Fault Refusal :=
  issue (.mmacb f) f .whole (mulGuard true) (multiplyOwn (.mmacb f)) s

/-- MMAD (R254, R268, R269). -/
def execMmad (f : Fields) (s : State) : Host.Outcome State Fault Refusal :=
  issue (.mmad f) f .whole madGuard (multiplyOwn (.mmad f)) s

/-! ### MBMAP, MZERO, MSCALE, MLDF, MSTF (R271 to R275) -/

/-- A code is a zero of either sign, or 0 for the integer formats (R272). -/
def zeroCode (element code : Nat) : Bool :=
  match fmtOf element with
  | some F => code % 2 ^ (F.w + F.m) == 0
  | none => code == 0

/-- The bitmap of an A fragment (R272). -/
def Group.bitmap (g : Group) (element first : Nat) : DWord :=
  let kb := (packedCount element * 16) / 8
  let rows := (List.range 32).map fun m =>
    (piecesFrom 8 16 (g.codesOf element first m)).map fun p => p.any fun c => !zeroCode element c
  word64 ((List.range 4).foldl (fun acc rb => (List.range kb).foldl (fun acc k =>
    if ((List.range 8).any fun m => (rows.getD (8 * rb + m) []).getD k false) then acc + 2 ^ (rb * kb + k) else acc) acc) 0)

/-- A value in a register of every lane. -/
def inAll (r : Nat) (x : Word) : List RegWrite := (List.range 32).map fun i => ⟨r, i, x⟩

/-- MBMAP (R272). -/
def execMbmap (f : Fields) (s : State) : Host.Outcome State Fault Refusal :=
  issue (.mbmap f) f .whole mapGuard (fun c s =>
    if c.parts == 0 then .done s
    else
      let bm := c.g.bitmap (slotElement (s.slotBits c.g (slotOf f.srca))) (blockOf f.srca)
      let s := s.modGroup c.g.id fun g => g.noteReads (blockKeys (blockOf f.srca) 16)
      .done (s.engineIssue c.g.id c.addr f [f.dst.toNat, f.dst.toNat + 1]
        (inAll f.dst.toNat (bm.extractLsb' 0 32) ++ inAll (f.dst.toNat + 1) (bm.extractLsb' 32 32)) [])) s

/-- MZERO (R271). -/
def execMzero (f : Fields) (s : State) : Host.Outcome State Fault Refusal :=
  plain (.mzero f) f (fun c s =>
    if c.parts == 0 then .done s
    else
      let rs := block f.dst.toNat (if f.mod == 0 then 32 else 16)
      .done (s.engineIssue c.g.id c.addr f rs (rs.flatMap fun r => inAll r 0) [])) s

/-- The scale latch after MSCALE: byte q mod 4 of register q / 4 of lane x (R273). -/
def Group.loadScales (g : Group) (sb : Bool) (first : Nat) : Group :=
  { g with scales := (List.range 16).foldl (fun m q => (List.range 32).foldl (fun m x =>
      sset (0x7F#8) m ((if sb then 2 ^ 16 else 0) + 32 * q + x)
        ((g.reg (first + q / 4) x).extractLsb' (8 * (q % 4)) 8)) m) g.scales }

/-- MSCALE (R256, R273). -/
def execMscale (f : Fields) (s : State) : Host.Outcome State Fault Refusal :=
  plain (.mscale f) f (fun c s =>
    if c.parts == 0 then .done s
    else
      let s := s.modGroup c.g.id fun g =>
        (g.noteReads (blockKeys f.srca.toNat 4)).loadScales (f.mod == 1) f.srca.toNat
      .done (s.engineIssue c.g.id c.addr f [] [] [])) s

/-- The place of a fragment image, after checks 1 and 2 of R275. -/
def State.imagePlace (s : State) (c : Ictx) (off n : Nat) (write : Bool) : Except FaultRecord Place :=
  if off % 128 != 0 then .error (recordOf fMisalignedAccess c.lanes c.addr (BitVec.ofNat 64 off) 128)
  else
    match (s.team? c.g.team).bind fun t => t.place? off n with
    | some p => .ok p
    | none => .error (scratchRecord c c.lanes write off)

/-- MLDF (R255, R274, R275). -/
def execMldf (f : Fields) (s : State) : Host.Outcome State Fault Refusal :=
  plain (.mldf f) f (fun c s =>
    if c.parts == 0 then .done s
    else
      let F := fragRegs f.mod
      let off := (c.g.reg f.srca.toNat c.lead).toNat
      match s.imagePlace c off (128 * F) false with
      | .error r => .trap r
      | .ok p =>
        match p with
        | .scratch t i o =>
          match poisonCheck c ((s.scratchPoisoned t i o (128 * F)).map fun w =>
            (c.lead, off + 4 * w - (2 ^ 20 * i + o))) with
          | some r => .trap { r with lanes := c.lanes }
          | none =>
            let image := (List.range (32 * F)).map fun w =>
              (⟨w / F, BitVec.ofNat 64 (off + 4 * w), p.shift (4 * w), .load 4 false, false, false, none,
                [f.dst.toNat + w % F], false⟩ : Access)
            .done (s.engineIssue c.g.id c.addr f (block f.dst.toNat F) [] image)
        | _ => .done s) s

/-- MSTF (R255, R274, R275). -/
def execMstf (f : Fields) (s : State) : Host.Outcome State Fault Refusal :=
  plain (.mstf f) f (fun c s =>
    if c.parts == 0 then .done s
    else
      let F := fragRegs f.mod
      let off := (c.g.reg f.srca.toNat c.lead).toNat
      match s.imagePlace c off (128 * F) true with
      | .error r => .trap r
      | .ok p =>
        let image := (List.range (32 * F)).map fun w =>
          (⟨w / F, BitVec.ofNat 64 (off + 4 * w), p.shift (4 * w),
            .store (bytesOfNat 4 (c.g.reg (f.srcb.toNat + w % F) (w / F)).toNat), false, false, none, [], false⟩ : Access)
        let s := s.modGroup c.g.id fun g => g.noteReads (blockKeys f.srcb.toNat F)
        .done (s.engineIssue c.g.id c.addr f [] [] image)) s

end Sys2Proof.Machine
end

