-- ==== Sys2Proof/Machine/Affine.lean ====
section
/-!
DEFINITION. The affine engine (10, R215 to R232; 11, R233 to R247): exact values p + a√u + b√l with their rounding,
forms and records, the Deck, and the instructions of row 0xB0 and ADECK.
-/
namespace Sys2Proof.Machine

/-! ### Exact values (R222, R235, R241) -/

/-- The real number p + a√u + b√l, with u and l not negative. -/
structure Surd where
  p : Rat
  a : Rat
  b : Rat
  u : Rat
  l : Rat
  deriving DecidableEq, Repr

/-- A rational number. -/
def Surd.ofRat (p : Rat) : Surd := ⟨p, 0, 0, 0, 0⟩

/-- The magnitude of a rational. -/
def rabs (r : Rat) : Rat := if r < 0 then -r else r
/-- The sign of a rational. -/
def sgn (r : Rat) : Int := if r < 0 then -1 else if 0 < r then 1 else 0

/-- The sign of x + y from the signs of x and y and the sign of x² − y². -/
def signSum (sx sy d : Int) : Int :=
  if sx = 0 then sy else if sy = 0 then sx else if sx = sy then sx else if 0 < d then sx else if d < 0 then sy else 0

/-- The sign of a value, exactly. -/
def Surd.sign (x : Surd) : Int :=
  let aa := x.a * x.a * x.u
  let bb := x.b * x.b * x.l
  let sa := if aa = 0 then 0 else sgn x.a
  let sb := if bb = 0 then 0 else sgn x.b
  let ss := signSum sa sb (sgn (aa - bb))
  -- (a√u + b√l)² − p² = 2ab√(ul) − t
  let t := x.p * x.p - aa - bb
  let d := signSum (sa * sb) (-sgn t) (sgn (4 * aa * bb - t * t))
  signSum ss (sgn x.p) d

/-- Subtracting a rational. -/
def Surd.sub (x : Surd) (r : Rat) : Surd := { x with p := x.p - r }
/-- The magnitude of a value. -/
def Surd.abs (x : Surd) : Surd := if x.sign < 0 then ⟨-x.p, -x.a, -x.b, x.u, x.l⟩ else x

/-- An integer near x × 2^k for a value of no negative sign: below it by less than 4, above it by less than 4. -/
def Surd.near (x : Surd) (k : Nat) : Int :=
  let root := fun (c r : Rat) =>
    let v : Int := isqrt (c * c * r * (4 ^ k : Nat)).floor.toNat
    if c < 0 then -v else v
  (x.p * (2 ^ k : Nat)).floor + root x.a x.u + root x.b x.l

/-- The integer part of x × 2^k, from an integer near it. -/
def Surd.floorAt (x : Surd) (k : Nat) : Int :=
  let n := x.near k - 4
  (List.range 9).foldl (fun (m : Int) (i : Nat) =>
    let c : Int := n + i
    if 0 ≤ (x.sub ((c : Rat) / (2 ^ k : Nat))).sign then c else m) n

/-- A positive value as n × 2^e for rounding: four times its integer part at a fine scale, and where the rest lies. -/
def Surd.scaled (x : Surd) : List Nat → Nat × Int
  | [] => (0, 0)
  | k :: ks =>
    let n := x.floorAt k
    if n < 2 ^ 60 && !ks.isEmpty then x.scaled ks
    else
      let rest := x.sub ((n : Rat) / (2 ^ k : Nat))
      let half := x.sub (((2 * n + 1 : Int) : Rat) / (2 ^ (k + 1) : Nat))
      let code := if rest.sign = 0 then 0 else if half.sign < 0 then 1 else if half.sign = 0 then 2 else 3
      (4 * n.toNat + code, -(k : Int) - 2)

/-- The scales tried, from coarse to fine. -/
def scales : List Nat := [64, 256, 1200, 2600, 8000, 24000]

/-- A value rounded into a format; an exact zero gives +0. -/
def Surd.round (x : Surd) (F : Fmt) (mode : Mode) : Nat :=
  let s := x.sign
  if s = 0 then F.signed false 0
  else
    let r := x.abs.scaled scales
    F.round mode (s < 0) r.1 r.2

/-- The value of a finite code. -/
def Fmt.rat (F : Fmt) (code : Nat) : Rat :=
  match F.read code with
  | .fin s n e =>
    let v : Rat := if e < 0 then (n : Rat) / (2 ^ (-e).toNat : Nat) else (n : Rat) * (2 ^ e.toNat : Nat)
    if s then -v else v
  | _ => 0

/-! ### Forms (R215 to R219) -/

/-- The code of +∞ in f32. -/
def inf32 : BitVec 32 := 0x7F800000#32
/-- The two special forms (R216). -/
def Form.unbounded : Form := ⟨0#64, inf32, [], false⟩
def Form.voidForm : Form := ⟨0x7FF8000000000000#64, inf32, [], true⟩

/-- The form is the unbounded form. -/
def Form.isUnbounded (x : Form) : Bool := !x.void && x.residue == inf32

/-- Values of a form's parts. -/
def Form.c (x : Form) : Rat := f64.rat x.centre.toNat
def Form.r (x : Form) : Rat := f32.rat x.residue.toNat
def Term.k (t : Term) : Rat := f32.rat t.coef.toNat
/-- The coefficient of an id; an absent id contributes 0. -/
def Form.k (x : Form) (id : Nat) : Rat := ((x.terms.find? fun t => t.id.toNat == id).map Term.k).getD 0
/-- The radius (R216). -/
def Form.radius (x : Form) : Rat := x.terms.foldl (fun a t => a + rabs t.k) x.r

/-- The ids of forms, ascending. -/
def idsOf (xs : List Form) : List Nat :=
  sortBy (fun a b => a ≤ b) (xs.flatMap fun x => x.terms.map fun t => t.id.toNat).eraseDups

/-- The 64 bits of a term (R218). -/
def Term.bits (t : Term) : Nat := t.id.toNat + t.coef.toNat * 2 ^ 32

/-- The record of a form (R217, R219). -/
def Form.record (x : Form) : List Byte :=
  bytesOfNat 64 (x.centre.toNat + x.residue.toNat * 2 ^ 64 + x.terms.length * 2 ^ 96 + (if x.void then 2 ^ 99 else 0)
    + (x.terms.zipIdx.foldl (fun a t => a + t.1.bits * 2 ^ (64 * t.2)) 0) * 2 ^ 128)

/-- A finite code of a format. -/
def Fmt.finite (F : Fmt) (code : Nat) : Bool := match F.read code with | .fin _ _ _ => true | _ => false

/-- A record is well-formed (R219). -/
def recordOk (x : Nat) : Bool :=
  let n := x / 2 ^ 96 % 8
  let centre := x % 2 ^ 64
  let residue := x / 2 ^ 64 % 2 ^ 32
  let term := fun k => x / 2 ^ (128 + 64 * k) % 2 ^ 64
  x / 2 ^ 100 % 2 ^ 28 == 0 && n ≤ 6
    && (List.range 6).all (fun k =>
      let t := term k
      if k < n then
        t % 2 ^ 24 != 0 && t / 2 ^ 24 % 2 ^ 8 == 0 && f32.finite (t / 2 ^ 32) && t / 2 ^ 32 % 2 ^ 31 != 0
      else t == 0)
    && ((List.range n).map fun k => term k % 2 ^ 24).Nodup
    && (if x.testBit 99 then n == 0 && centre == 0x7FF8000000000000 && residue == 0x7F800000
        else f64.finite centre && residue ≤ 0x7F800000)

/-- Terms in ascending id order. -/
def sortTerms (ts : List Term) : List Term := sortBy (fun a b => a.id.toNat ≤ b.id.toNat) ts

/-- Loading a record (R219). -/
def formOf (x : Nat) : Form :=
  if !recordOk x || x.testBit 99 then Form.voidForm
  else if x / 2 ^ 64 % 2 ^ 32 = 0x7F800000 then Form.unbounded
  else
    { centre := BitVec.ofNat 64 x, residue := BitVec.ofNat 32 (x / 2 ^ 64), void := false
      terms := sortTerms ((List.range (x / 2 ^ 96 % 8)).map fun k =>
        ⟨BitVec.ofNat 24 (x / 2 ^ (128 + 64 * k)), BitVec.ofNat 32 (x / 2 ^ (160 + 64 * k))⟩) }

/-! ### Rounding of results (R222 to R224) -/

/-- A result being rounded: its residue, and its terms; none once it is the unbounded form. -/
abbrev Partial := Option (Nat × List Term)

/-- Adding a bound to the residue, rounded upward. -/
def addRes (res : Nat) (e : Surd) : Nat := f32.add 3 res (e.abs.round f32 3)

/-- One coefficient (R222). -/
def roundTerm (acc : Partial) (id : Nat) (k : Surd) : Partial :=
  match acc with
  | none => none
  | some (res, ts) =>
    if k.sign = 0 then acc
    else
      let code := k.round f32 0
      if !f32.finite code then none
      else
        let res := addRes res (k.sub (f32.rat code))
        some (res, if code % 2 ^ 31 = 0 then ts else ts ++ [⟨BitVec.ofNat 24 id, BitVec.ofNat 32 code⟩])

/-- The fresh term (R223). -/
def addFresh (acc : Partial) (id : Nat) (delta : Surd) : Partial :=
  match acc with
  | none => none
  | some (res, ts) =>
    if delta.sign = 0 then acc
    else
      let code := delta.round f32 3
      if !f32.finite code then none
      else
        match ts.find? fun t => t.id.toNat == id with
        | none => some (res, sortTerms (ts ++ [⟨BitVec.ofNat 24 id, BitVec.ofNat 32 code⟩]))
        | some t =>
          let sum := t.k + f32.rat code
          let k := f32.add 0 t.coef.toNat code
          if !f32.finite k then none
          else
            let res := addRes res (Surd.ofRat (sum - f32.rat k))
            let rest := ts.filter fun x => x.id.toNat != id
            some (res, if k % 2 ^ 31 = 0 then rest
              else sortTerms (rest ++ [⟨BitVec.ofNat 24 id, BitVec.ofNat 32 k⟩]))

/-- The order of R224: smaller magnitude first, among equals the higher id. -/
def foldsBefore (a b : Term) : Bool :=
  let x := a.coef.toNat % 2 ^ 31
  let y := b.coef.toNat % 2 ^ 31
  x < y || (x == y && b.id.toNat ≤ a.id.toNat)

/-- The fold of R224. -/
def foldTerms (acc : Partial) : Partial :=
  match acc with
  | none => none
  | some (res, ts) =>
    let out := (sortBy foldsBefore ts).take (ts.length - 6)
    some (out.foldl (fun r t => f32.add 3 r (t.coef.toNat % 2 ^ 31)) res, ts.filter fun t => !out.contains t)

/-- The form of a rounded result (R222). -/
def formResult (centre : Nat) (acc : Partial) : Form :=
  match acc with
  | none => Form.unbounded
  | some (res, ts) =>
    if !f64.finite centre || !f32.finite res then Form.unbounded
    else ⟨BitVec.ofNat 64 centre, BitVec.ofNat 32 res, ts, false⟩

/-- Rounding a result: its rounded centre, its exact centre, its coefficients by ascending id, its carried residue, and its
fresh term. -/
def roundForm (centre : Nat) (exact : Surd) (ks : List (Nat × Surd)) (r : Surd) (fresh : Option (Nat × Surd)) : Form :=
  if !f64.finite centre then Form.unbounded
  else
    let res := addRes (r.round f32 3) (exact.sub (f64.rat centre))
    let acc := ks.foldl (fun acc k => roundTerm acc k.1 k.2) (some (res, []))
    let acc := match fresh with
      | some f => addFresh acc f.1 f.2
      | none => acc
    formResult centre (foldTerms acc)

/-- The special forms pass through (R225). -/
def special (xs : List Form) : Option Form :=
  if xs.any Form.void then some Form.voidForm
  else if xs.any Form.isUnbounded then some Form.unbounded
  else none

/-! ### The operations (R236 to R245) -/

/-- A code with its sign cleared. -/
def absCode (c : Nat) : Nat := c % 2 ^ 31

/-- ANEW (R236). -/
def anew (c h id : Nat) : Form :=
  if (f64.read c).isNan || (f32.read h).isNan then Form.voidForm
  else if !f64.finite c || !f32.finite h then Form.unbounded
  else
    ⟨BitVec.ofNat 64 c, 0, if absCode h = 0 then [] else [⟨BitVec.ofNat 24 id, BitVec.ofNat 32 (absCode h)⟩], false⟩

/-- AADD and ASUB (R238). -/
def aaddsub (sub : Bool) (x y : Form) : Form :=
  (special [x, y]).getD
    (let centre := if sub then f64.sub 0 x.centre.toNat y.centre.toNat else f64.add 0 x.centre.toNat y.centre.toNat
     let op := fun a b : Rat => if sub then a - b else a + b
     roundForm centre (Surd.ofRat (op x.c y.c))
       ((idsOf [x, y]).map fun i => (i, Surd.ofRat (op (x.k i) (y.k i)))) (Surd.ofRat (x.r + y.r)) none)

/-- ANEG (R238) (DEDUCED, log 48). -/
def anegForm (x : Form) : Form :=
  (special [x]).getD
    (roundForm (f64.neg x.centre.toNat) (Surd.ofRat (-x.c))
      ((idsOf [x]).map fun i => (i, Surd.ofRat (-x.k i))) (Surd.ofRat x.r) none)

/-- ASCL (R238). -/
def ascl (x : Form) (s : Nat) : Form :=
  if x.void then Form.voidForm
  else if (f64.read s).isNan then Form.voidForm
  else if x.isUnbounded then Form.unbounded
  else if !f64.finite s then Form.unbounded
  else
    let σ := f64.rat s
    roundForm (f64.mul 0 s x.centre.toNat) (Surd.ofRat (σ * x.c))
      ((idsOf [x]).map fun i => (i, Surd.ofRat (σ * x.k i))) (Surd.ofRat (rabs σ * x.r)) none

/-- AMUL, and AFMA with its third operand (R239). -/
def amulForm (x y : Form) (z : Option Form) (id : Nat) : Form :=
  (special ([x, y] ++ z.toList)).getD
    (let zc := (z.map Form.c).getD 0
     let centre := match z with
       | some z => f64.fma 0 x.centre.toNat y.centre.toNat z.centre.toNat
       | none => f64.mul 0 x.centre.toNat y.centre.toNat
     roundForm centre (Surd.ofRat (x.c * y.c + zc))
       ((idsOf ([x, y] ++ z.toList)).map fun i =>
         (i, Surd.ofRat (x.c * y.k i + y.c * x.k i + (z.map fun z => z.k i).getD 0)))
       (Surd.ofRat (rabs x.c * y.r + rabs y.c * x.r + (z.map Form.r).getD 0))
       (some (id, Surd.ofRat (x.radius * y.radius))))

/-- ARCP (R240). -/
def arcpForm (x : Form) (id : Nat) : Form :=
  (special [x]).getD
    (let l := x.c - x.radius
     let u := x.c + x.radius
     if l ≤ 0 && 0 ≤ u then Form.voidForm
     else
       let p := min (rabs l) (rabs u)
       let q := max (rabs l) (rabs u)
       let σ : Rat := if 0 < l then 1 else -1
       let α := -1 / (q * q)
       let ζ := σ * (1 / p + p / (q * q) + 2 / q) / 2
       let c := Surd.ofRat (α * x.c + ζ)
       roundForm (c.round f64 0) c ((idsOf [x]).map fun i => (i, Surd.ofRat (α * x.k i))) (Surd.ofRat (rabs α * x.r))
         (some (id, Surd.ofRat ((q - p) * (q - p) / (2 * p * q * q)))))

/-- ASQRT (R241): α = √u / 2u, ζ = √l/2 − l√u/4u + √u/4, δ = (u + l)√u/4u − √l/2. -/
def asqrtForm (x : Form) (id : Nat) : Form :=
  (special [x]).getD
    (let l := x.c - x.radius
     let u := x.c + x.radius
     if l < 0 then Form.voidForm
     else if u = 0 then ⟨0, 0, [], false⟩
     else
       let α := 1 / (2 * u)
       let c : Surd := ⟨0, α * x.c - l / (4 * u) + 1 / 4, 1 / 2, u, l⟩
       roundForm (c.round f64 0) c ((idsOf [x]).map fun i => (i, ⟨0, α * x.k i, 0, u, l⟩)) ⟨0, α * x.r, 0, u, l⟩
         (some (id, ⟨0, (u + l) / (4 * u), -1 / 2, u, l⟩)))

/-- AFOLD (R243). -/
def afoldForm (x : Form) (k : Nat) (res : Bool) (id : Nat) : Form :=
  (special [x]).getD
    (let out := (sortBy foldsBefore x.terms).take (x.terms.length - k)
     let δ := out.foldl (fun a t => a + rabs t.k) (if res then x.r else 0)
     formResult x.centre.toNat
       (addFresh (some (if res then 0 else x.residue.toNat, x.terms.filter fun t => !out.contains t)) id (Surd.ofRat δ)))

/-- ARAD (R244). -/
def aradForm (x : Form) (mode : Nat) : DWord :=
  if x.void then 0x7FF8000000000000#64
  else if x.isUnbounded then (if mode = 1 then 0xFFF0000000000000#64 else 0x7FF0000000000000#64)
  else
    match mode with
    | 0 => word64 ((Surd.ofRat x.radius).round f64 3)
    | 1 =>
      let v := x.c - x.radius
      if v = 0 then 0x8000000000000000#64 else word64 ((Surd.ofRat v).round f64 2)
    | _ => word64 ((Surd.ofRat (x.c + x.radius)).round f64 3)

/-- ATERM (R245): the two words. -/
def atermForm (x : Form) (k : Nat) : Word × Word :=
  if k = 6 then (BitVec.ofNat 32 (x.terms.length + if x.void then 8 else 0), x.residue)
  else
    match x.terms[k]? with
    | some t => (t.id.setWidth 32, t.coef)
    | none => (0, 0)

/-! ### The Deck (R226 to R228) -/

/-- The ids that `n` participants take, in ascending order, with the group's new hand and whether a deal is made; none
where the Deck is exhausted (R227, R228). -/
def takeIds (h a next left n : Nat) : Option (List Nat × Nat × Nat × Bool) :=
  if n ≤ left then some ((List.range n).map (next + ·), next + n, left - n, false)
  else if a = 0 || h = 2 ^ 18 then none
  else
    let m := n - left
    some ((List.range left).map (next + ·) ++ (List.range m).map (64 * h + ·), 64 * h + m, 64 - m, true)

/-- A minting instruction's ids by lane, or SYMBOL_EXHAUSTED (R227, R228, R242). -/
def State.mint (s : State) (c : Ictx) : Except FaultRecord ((Nat → Nat) × State) :=
  let ls := lanesOf c.parts
  match s.group? c.g.id, s.contextOf? c.g with
  | some g, some ctx =>
    match takeIds ctx.deckH ctx.deckA g.handNext g.handLeft ls.length with
    | none => .error (recordOf fSymbolExhausted c.lanes c.addr 0 ls.length)
    | some (ids, next, left, deal) =>
      let s := s.putGroup { g with handNext := next, handLeft := left }
      let s := if deal then s.modContext ctx.asid fun x => { x with deckH := x.deckH + 1, deckA := x.deckA - 1 } else s
      .ok (fun i => ((ls.zip ids).lookup i).getD 0, s)
  | _, _ => .ok (fun _ => 0, s)

/-! ### The instructions -/

/-- Affine operands of a lane. -/
def Ictx.fa (c : Ictx) (i : Nat) : Form := c.g.areg c.f.srca.toNat i
def Ictx.fb (c : Ictx) (i : Nat) : Form := c.g.areg c.f.srcb.toNat i
def Ictx.fc (c : Ictx) (i : Nat) : Form := c.g.areg c.f.srcc.toNat i

/-- A form in each participant's destination. -/
def Ictx.eachForm (c : Ictx) (f : Nat → Form) : List FormWrite :=
  (lanesOf c.parts).map fun i => ⟨c.f.dst.toNat, i, f i⟩

/-- A fixed-latency instruction that writes forms (R231). -/
def forms (i : Instr) (f : Fields) (op : Ictx → Nat → Form) (s : State) : Host.Outcome State Fault Refusal :=
  plain i f (fun c s => .done (s.modGroup c.g.id fun g => g.writeForms (c.eachForm (op c)))) s

/-- A long-latency instruction that mints (R242). -/
def minting (i : Instr) (f : Fields) (op : Ictx → Nat → Nat → Form) (s : State) : Host.Outcome State Fault Refusal :=
  plain i f (fun c s =>
    match s.mint c with
    | .error r => .trap r
    | .ok (id, s) =>
      .done (s.start c [256 + f.dst.toNat] c.parts (.result [] (c.eachForm fun i => op c i (id i))))) s

/-- AMOV (R236). -/
def execAmov (f : Fields) (s : State) : Host.Outcome State Fault Refusal := forms (.amov f) f Ictx.fa s

/-- ANEW (R236): fixed-latency. -/
def execAnew (f : Fields) (s : State) : Host.Outcome State Fault Refusal :=
  plain (.anew f) f (fun c s =>
    match s.mint c with
    | .error r => .trap r
    | .ok (id, s) =>
      .done (s.modGroup c.g.id fun g => g.writeForms (c.eachForm fun i => anew (c.a64 i).toNat (c.g.reg f.srcb.toNat i).toNat (id i)))) s

/-- The addresses of the participants' records. -/
def Ictx.recordVas (c : Ictx) : List (Nat × DWord) := (lanesOf c.parts).map fun i => (i, c.a64 i)

/-- ALD (R237). -/
def execAld (f : Fields) (s : State) : Host.Outcome State Fault Refusal :=
  plain (.ald f) f (fun c s =>
    if c.parts == 0 then .done s
    else
      match s.reach c 64 .read c.recordVas (fun _ => .load 64 false) false [f.dst.toNat] with
      | .error r => s.faulted c.g r
      | .ok (accs, s) => .done (s.start c [256 + f.dst.toNat] c.parts (.formLoad accs []))) s

/-- AST (R237). -/
def execAst (f : Fields) (s : State) : Host.Outcome State Fault Refusal :=
  plain (.ast f) f (fun c s =>
    if c.parts == 0 then .done s
    else
      match s.reach c 64 .write c.recordVas (fun i => .store (c.fb i).record) false [] with
      | .error r => s.faulted c.g r
      | .ok (accs, s) => .done (s.start c [] c.parts (.access (highestStores accs) []))) s

/-- AADD (R238). -/
def execAadd (f : Fields) (s : State) : Host.Outcome State Fault Refusal :=
  forms (.aadd f) f (fun c i => aaddsub false (c.fa i) (c.fb i)) s
/-- ASUB (R238). -/
def execAsub (f : Fields) (s : State) : Host.Outcome State Fault Refusal :=
  forms (.asub f) f (fun c i => aaddsub true (c.fa i) (c.fb i)) s
/-- ANEG (R238). -/
def execAneg (f : Fields) (s : State) : Host.Outcome State Fault Refusal :=
  forms (.aneg f) f (fun c i => anegForm (c.fa i)) s
/-- ASCL (R238). -/
def execAscl (f : Fields) (s : State) : Host.Outcome State Fault Refusal :=
  forms (.ascl f) f (fun c i => ascl (c.fa i) (c.b64 i).toNat) s
/-- AMUL (R239). -/
def execAmul (f : Fields) (s : State) : Host.Outcome State Fault Refusal :=
  minting (.amul f) f (fun c i id => amulForm (c.fa i) (c.fb i) none id) s
/-- AFMA (R239). -/
def execAfma (f : Fields) (s : State) : Host.Outcome State Fault Refusal :=
  minting (.afma f) f (fun c i id => amulForm (c.fa i) (c.fb i) (some (c.fc i)) id) s
/-- ARCP (R240). -/
def execArcp (f : Fields) (s : State) : Host.Outcome State Fault Refusal :=
  minting (.arcp f) f (fun c i id => arcpForm (c.fa i) id) s
/-- ASQRT (R241). -/
def execAsqrt (f : Fields) (s : State) : Host.Outcome State Fault Refusal :=
  minting (.asqrt f) f (fun c i id => asqrtForm (c.fa i) id) s
/-- AFOLD (R243). -/
def execAfold (f : Fields) (s : State) : Host.Outcome State Fault Refusal :=
  minting (.afold f) f (fun c i id => afoldForm (c.fa i) f.srcc.toNat (f.mod == 1) id) s

/-- ACEN (R244). -/
def execAcen (f : Fields) (s : State) : Host.Outcome State Fault Refusal :=
  results (.acen f) f (fun c => c.each64 fun i => (c.fa i).centre) s
/-- ARAD (R244). -/
def execArad (f : Fields) (s : State) : Host.Outcome State Fault Refusal :=
  results (.arad f) f (fun c => c.each64 fun i => aradForm (c.fa i) f.mod.toNat) s
/-- ATERM (R245). -/
def execAterm (f : Fields) (s : State) : Host.Outcome State Fault Refusal :=
  results (.aterm f) f (fun c => (lanesOf c.parts).flatMap fun i =>
    let t := atermForm (c.fa i) f.srcc.toNat
    [⟨f.dst.toNat, i, t.1⟩, ⟨f.dst.toNat + 1, i, t.2⟩]) s

/-- The Deck after an ADECK (R246). -/
def deckAfter (mod b h a : Nat) : Nat × Nat :=
  match mod with
  | 1 => (h, min (a + b) (2 ^ 18 - h))
  | 2 => if 1 ≤ b && b ≤ 2 ^ 18 then (b, min a (2 ^ 18 - b)) else (h, a)
  | _ => (h, a)

/-- ADECK (R246): its effect on the Deck comes with the operation that it starts (R247, R248). -/
def adeck (i : Instr) (f : Fields) (s : State) : Host.Outcome State Fault Refusal :=
  once i f (fun c s => .done (s.start c ((List.range 4).map (f.dst.toNat + ·)) c.parts
    (.deck f.mod.toNat (c.g.reg f.srcb.toNat c.lead).toNat f.dst.toNat))) s

/-- An ADECK's effect on the Deck of the group's context, and the four values that each participant is to receive: the
state after it (R246, R247). -/
def State.deckEffect (s : State) (g : Group) (mod b dst : Nat) (parts : Mask) : List RegWrite × State :=
  match s.contextOf? g with
  | none => ([], s)
  | some ctx =>
    let d := deckAfter mod b ctx.deckH ctx.deckA
    let vals := [d.1, d.2, g.handNext, g.handLeft]
    ((lanesOf parts).flatMap fun l => vals.zipIdx.map fun v => ⟨dst + v.2, l, BitVec.ofNat 32 v.1⟩,
      s.modContext ctx.asid fun x => { x with deckH := d.1, deckA := d.2 })

/-- ADECK.read (R246). -/
def execAdeckRead (f : Fields) (s : State) : Host.Outcome State Fault Refusal := adeck (.adeckRead f) f s
/-- ADECK.add (R246). -/
def execAdeckAdd (f : Fields) (s : State) : Host.Outcome State Fault Refusal := adeck (.adeckAdd f) f s
/-- ADECK.set (R246). -/
def execAdeckSet (f : Fields) (s : State) : Host.Outcome State Fault Refusal := adeck (.adeckSet f) f s

end Sys2Proof.Machine
end

