-- ==== Sys2Proof/Machine/Copy.lean ====
section
/-!
DEFINITION. The copy engine (15, R277 to R298): the copy block, the tile and its image, the checks of R286, and CPYL,
CPYS, CPYG, CPYR, CPYP and COLL. What a copy does when it lands is in Complete.lean.
-/
namespace Sys2Proof.Machine

/-- A copy block (R280). -/
structure Block where
  rec1   : Nat
  rec2   : Nat
  origin : List Int
  spad   : Nat
  aux    : Nat

/-- The copy block of the elected lane (R280, R283). -/
def Ictx.copyBlock (c : Ictx) : Block :=
  let v := fun k => c.g.reg (c.f.srca.toNat + k) c.lead
  { rec1 := fieldOf (v 0) 0 16, rec2 := fieldOf (v 0) 16 16
    origin := (List.range 5).map fun k => (v (k + 1)).toInt
    spad := (v 6).toNat, aux := (v 7).toNat }

/-- The elected lane alone. -/
def Ictx.elected (c : Ictx) : Mask := maskOf fun i => i == c.lead

/-- A run of a tile: its virtual address, its place in the image, and its length. -/
structure Run where
  va   : Nat
  off  : Nat
  size : Nat
  deriving DecidableEq, Repr

/-- Bytes before element `i0` of dimension 0 (R278). -/
def Tensor.bytesTo (t : Tensor) (i0 : Int) : Int := i0 * (halfBytes t.format : Int) / 2

/-- The rows of a tile as runs, in image order: `origin` with the box `b` (R278, R285). -/
def Tensor.runs (t : Tensor) (origin : List Int) (b : Nat → Nat) : List Run :=
  let row := t.row
  (List.range (b 4)).flatMap fun j4 => (List.range (b 3)).flatMap fun j3 => (List.range (b 2)).flatMap fun j2 =>
    (List.range (b 1)).map fun j1 =>
      let js : List Nat := [0, j1, j2, j3, j4]
      let at' := (List.range 5).foldl (fun (a : Int) k =>
        if k = 0 then a else a + (origin.getD k 0 + ((js.getD k 0 : Nat) : Int)) * (t.stride.getD k 0 : Int))
        ((t.base.toNat : Int) + t.bytesTo (origin.getD 0 0))
      ⟨(BitVec.ofInt 64 at').toNat, (((j4 * b 3 + j3) * b 2 + j2) * b 1 + j1) * row, row⟩

/-- A run of elements of `g` bytes cut at page bounds; an element that lies across one is two runs of its own. -/
def cutRun (g : Nat) (r : Run) : Nat → List Run
  | 0 => []
  | fuel + 1 =>
    let n := 4096 - r.va % 4096
    let whole := n / g * g
    if r.size = 0 then []
    else if r.size ≤ n then [r]
    else if whole = 0 then
      ⟨r.va, r.off, n⟩ :: ⟨r.va + n, r.off + n, g - n⟩ :: cutRun g ⟨r.va + g, r.off + g, r.size - g⟩ fuel
    else ⟨r.va, r.off, whole⟩ :: cutRun g ⟨r.va + whole, r.off + whole, r.size - whole⟩ fuel

/-- The runs of a tile, cut at page bounds. -/
def Tensor.paged (t : Tensor) (rs : List Run) : List Run :=
  rs.flatMap fun r => cutRun (max 1 (halfBytes t.format / 2)) r (r.size + 1)

/-- Two runs share a byte. -/
def Run.meets (a b : Run) : Bool := a.va < b.va + b.size && b.va < a.va + a.size

/-- Some two runs of a list share a byte. -/
def overlapping : List Run → Bool
  | [] => false
  | r :: rs => rs.any r.meets || overlapping rs

/-- The bytes of an element, or of a pair of e2m1 elements (R278, R293). -/
def Tensor.grain (t : Tensor) : Nat := max 1 (halfBytes t.format / 2)

/-- A run cut into elements. -/
def elements (n : Nat) (r : Run) : List Run := (List.range (r.size / n)).map fun k => ⟨r.va + n * k, r.off + n * k, n⟩

/-! ### The checks of R286 -/

/-- A record of a copy's fault, in the elected lane. -/
def copyFault (c : Ictx) (code addr info : Nat) : FaultRecord :=
  recordOf code c.elected c.addr (BitVec.ofNat 64 addr) info

/-- Check 1: the target exists; a spawn team has neither tags nor rings. -/
def State.targetCheck (s : State) (c : Ictx) : Option FaultRecord :=
  let l := s.launchOf? c.g
  let spawn := ((s.team? c.g.team).map Team.spawn).getD false
  let tags := if spawn then 0 else (l.map fun l => l.info.tags).getD 0
  let rings := if spawn then 0 else (l.map fun l => l.info.rings).getD 0
  let d := c.f.dst.toNat
  match c.f.mod.toNat with
  | 1 => if tags ≤ d then some (copyFault c fTeamResource 0 (d * 256)) else none
  | 2 => if rings ≤ d / 16 then some (copyFault c fTeamResource 0 (d / 16 * 256 + 1)) else none
  | _ => none

/-- The counter's address. -/
def Ictx.counterVa (c : Ictx) : DWord := c.g.reg64 c.f.srcb.toNat c.lead

/-- Check 2: the counter's line. -/
def counterCheck (c : Ictx) : Option FaultRecord :=
  if c.f.mod == 3 && c.counterVa.toNat % 128 != 0 then
    some (copyFault c fMisalignedAccess c.counterVa.toNat 128)
  else none

/-- Check 3 of one record (R279). -/
def recordCheck (c : Ictx) (ctx : Context) (idx : Nat) (gather reads writes : Bool) (admits : Nat → Bool) :
    Option FaultRecord :=
  let e := ctx.object idx
  let t := tensorOf e
  if !tensorValid e gather || t.owner != ctx.asid then some (copyFault c fTensorRights idx 2)
  else if reads && !t.r then some (copyFault c fTensorRights idx 0)
  else if writes && !t.w then some (copyFault c fTensorRights idx 1)
  else if !admits t.format then some (copyFault c fTensorRights idx 1)
  else none

/-- The lowest dimension in which a tile is out of bounds (R284). -/
def outOfBounds (t : Tensor) (origin : List Int) (b : Nat → Nat) : Option Nat :=
  (List.range 5).find? fun k =>
    let x := origin.getD k 0
    if k < t.ndims then x < 0 || (t.ext k : Int) < x + (b k : Int) || (k == 0 && t.format == 6 && x % 2 != 0)
    else x != 0

/-- Check 4 of a tile. -/
def boundsCheck (c : Ictx) (idx : Nat) (t : Tensor) (origin : List Int) : Option FaultRecord :=
  (outOfBounds t origin t.b).map fun k => copyFault c fTensorBounds idx k

/-- The origin of a CPYG participant's piece: dimension 1 is its index (R293). -/
def Ictx.pieceOrigin (c : Ictx) (origin : List Int) (i : Nat) : List Int :=
  origin.set 1 ((c.g.reg (c.f.srca.toNat + 7) i).toNat : Int)

/-- The box of a CPYG piece. -/
def Tensor.pieceBox (t : Tensor) (k : Nat) : Nat := if k = 1 then 1 else t.b k

/-- Check 4 of CPYG: where the failing dimension is 1, the participants whose index fails are recorded. -/
def gatherCheck (c : Ictx) (idx : Nat) (t : Tensor) (origin : List Int) : Option FaultRecord :=
  let fails := (lanesOf c.parts).filterMap fun i =>
    (outOfBounds t (c.pieceOrigin origin i) t.pieceBox).map fun k => (i, k)
  match least (fails.map Prod.snd) with
  | none => none
  | some k =>
    some { copyFault c fTensorBounds idx k with
      lanes := if k = 1 then maskOf fun i => fails.any fun x => x.1 == i && x.2 == 1 else c.elected }

/-- Checks 5 and 6: the image in team scratchpad. -/
def State.imageCheck (s : State) (c : Ictx) (spad n : Nat) (write : Bool) : Option FaultRecord :=
  if spad % 16 != 0 then some (copyFault c fMisalignedAccess spad 16)
  else
    match (s.team? c.g.team).bind fun t => t.place? spad n with
    | some _ => none
    | none => some (scratchRecord c c.elected write spad)

/-- Check 7: every page of the runs, and the counter's line, is translated through the walk-ahead TLB (R287); the lowest
faulting address is recorded. The runs come back with their translations. -/
def State.runCheck (s : State) (c : Ictx) (runs : List (Run × AccessKind)) :
    Checked (List (Run × Tlb) × Option Nat × State) :=
  match s.contextOf? c.g with
  | none => .ok ([], none, s)
  | some ctx =>
    let step := fun (acc : List (Run × Tlb) × List (Nat × WalkFault × Bool) × State) (r : Run × AccessKind) =>
      match acc.2.2.translate c.g.cu .ahead ctx (BitVec.ofNat 64 r.1.va) r.2 with
      | (.ok t, s') => (acc.1 ++ [(r.1, t)], acc.2.1, s')
      | (.error f, s') => (acc.1, acc.2.1 ++ [(r.1.va, f, kindWrites r.2)], s')
    let counter := if c.f.mod == 3 then [(⟨c.counterVa.toNat, 0, 0⟩, AccessKind.write)] else []
    let r := (runs ++ counter).foldl step ([], [], s)
    match least (r.2.1.map Prod.fst) with
    | none =>
      if c.f.mod == 3 then
        .ok (r.1.dropLast, (r.1.getLast?).map fun x => x.2.pa' c.counterVa.toNat, r.2.2)
      else .ok (r.1, none, r.2.2)
    | some a =>
      match r.2.1.find? fun x => x.1 == a with
      | some x => .error (pageRecord x.2.1 x.2.2 false c.elected c.addr (BitVec.ofNat 64 a), some r.2.2)
      | none => .ok (r.1, none, r.2.2)

/-- The completion target (R281). -/
def Ictx.target (c : Ictx) (counter : Option Nat) : Target :=
  let d := c.f.dst.toNat
  match c.f.mod.toNat with
  | 1 => .tag d
  | 2 => .ring (d / 16 % 8) (d % 16)
  | 3 => .counter c.counterVa (counter.getD 0)
  | _ => .none

/-- A move between the image at `spad` and a translated run. -/
def State.moveOf (s : State) (c : Ictx) (spad : Nat) (toMem : Bool) (n : Nat) (r : Run × Tlb) : Move :=
  let mem := Place.mem (r.2.pa' r.1.va)
  let count := (s.contextOf? c.g).bind fun ctx => ctx.counterOf r.2 r.1.va
  let img := match (s.team? c.g.team).bind fun t => t.place? (spad + r.1.off) r.1.size with
    | some p => p
    | none => mem
  let home := r.2.attr == 2
  if toMem then ⟨n, img, mem, r.1.size, false, home, none, count⟩ else ⟨n, mem, img, r.1.size, home, false, count, none⟩

/-- The moves of translated runs. -/
def State.movesOf (s : State) (c : Ictx) (spad : Nat) (toMem : Bool) (rs : List (Run × Tlb)) : List Move :=
  rs.zipIdx.map fun r => s.moveOf c spad toMem r.2 r.1

/-- A move's place in its image. -/
def Move.imageAt (m : Move) : Nat :=
  match m.src, m.dst with
  | .param o, _ => o
  | .scratch _ _ o, _ => o
  | _, .scratch _ _ o => o
  | _, .param o => o
  | _, _ => 0

/-- The bytes `k` to `k + n - 1` of a move. -/
def Move.part (m : Move) (k n : Nat) : Move := { m with src := m.src.shift k, dst := m.dst.shift k, size := n }

/-- A move cut by an interval of its image: the part inside, and the parts outside. -/
def Move.split (m : Move) (lo hi : Nat) : List Move × List Move :=
  let a := m.imageAt
  let x := max lo a
  let y := min hi (a + m.size)
  if y ≤ x then ([], [m])
  else ([m.part (x - a) (y - x)],
    (if a < x then [m.part 0 (x - a)] else []) ++ (if y < a + m.size then [m.part (y - a) (a + m.size - y)] else []))

/-- The bytes of an operation's elements (R293, R294). -/
def MoveOp.grain : MoveOp → Nat
  | .copy g => g
  | .add e => max 1 (halfBytes e / 2)
  | .fetch => 1

/-- The part of a copy that is performed as one, by its bytes in the image: an element of CPYR; in team scratchpad, an
aligned word; in memory, an aligned word with all of the elements that it touches (R293, R294, R299). -/
def Move.unit (m : Move) (op : MoveOp) (k : Nat) : Nat × Nat :=
  let g := op.grain
  let o := m.imageAt + k
  match op, m.dst with
  | .add _, _ => (o / g * g, o / g * g + g)
  | _, .mem pa =>
    let w := (pa + k) / 4 * 4
    let lo := m.imageAt + (w - pa)
    let hi := m.imageAt + (min (w + 4) (pa + m.size) - pa)
    (lo / g * g, (hi + g - 1) / g * g)
  | _, _ => (o / 4 * 4, o / 4 * 4 + 4)

/-- Moves in the units that are performed together: the two parts of an element of `g` bytes that lies across a page
bound, and else single moves. -/
def unitsOf (g : Nat) : List Move → List (List Move)
  | m :: n :: ms =>
    if m.size < g && n.size < g && m.imageAt / g == n.imageAt / g then [m, n] :: unitsOf g ms
    else [m] :: unitsOf g (n :: ms)
  | [m] => [[m]]
  | [] => []

/-- Elements that share an address, in the order in which they are written: each goes last or first as a free value
decides, so that any of them may be the one that stands (R293, DESIGN CHOICE, log 13). -/
def arrange {α : Type} (draw : Nat) (l : List α) : List α :=
  l.zipIdx.foldl (fun acc x => if Config.overlapLater (draw + x.2) then acc ++ [x.1] else x.1 :: acc) []

/-- The first check that fails, as the instruction's effect, or what follows. -/
def orElse (r : Option FaultRecord) (k : Unit → Effect) : Effect :=
  match r with
  | some r => .trap r
  | none => k ()

/-- The element formats that CPYR and the sums admit (R294, R296). -/
def sumFormat (f : Nat) : Bool := [9, 1, 2, 3].contains f

/-- A copy becomes outstanding, with no register pending. -/
def State.startCopy (s : State) (c : Ictx) (kind : OpKind) : Effect := .done (s.start c [] c.parts kind)

/-! ### The copies (R293 to R295) -/

/-- A tile copy between memory and an image: CPYL, CPYS and CPYR. -/
def tileCopy (reads writes toMem : Bool) (op : Tensor → MoveOp) (admits : Nat → Bool) (kind : AccessKind)
    (c : Ictx) (s : State) : Effect :=
  match s.contextOf? c.g with
  | none => .done s
  | some ctx =>
    let b := c.copyBlock
    let t := tensorOf (ctx.object b.rec1)
    orElse (s.targetCheck c) fun _ => orElse (counterCheck c) fun _ =>
    orElse (recordCheck c ctx b.rec1 false reads writes admits) fun _ =>
    orElse (boundsCheck c b.rec1 t b.origin) fun _ =>
    orElse (s.imageCheck c b.spad (t.row * t.rows false) (!toMem)) fun _ =>
      let rows := t.runs b.origin t.b
      let fine := match op t with
        | .add _ => true
        | _ => toMem && overlapping rows
      let cut := t.paged (if fine then rows.flatMap (elements t.grain) else rows)
      match s.runCheck c (cut.map fun r => (r, kind)) with
      | .error r => s.faulted c.g r
      | .ok (rs, counter, s) =>
        let moves := s.movesOf c b.spad toMem rs
        let moves := if toMem && overlapping rows && kind == .write then (arrange s.draws (unitsOf t.grain moves)).flatten else moves
        let s := { s with draws := s.draws + moves.length }
        s.startCopy c (.copy moves (op t) [] (c.target counter))

/-- CPYL (R293). -/
def execCpyl (f : Fields) (s : State) : Host.Outcome State Fault Refusal :=
  once (.cpyl f) f (tileCopy true false false (fun t => .copy t.grain) (fun _ => true) .read) s

/-- CPYS (R293). -/
def execCpys (f : Fields) (s : State) : Host.Outcome State Fault Refusal :=
  once (.cpys f) f (tileCopy false true true (fun t => .copy t.grain) (fun _ => true) .write) s

/-- CPYR (R294). -/
def execCpyr (f : Fields) (s : State) : Host.Outcome State Fault Refusal :=
  once (.cpyr f) f (tileCopy true true true (fun t => .add t.format) sumFormat .readWrite) s

/-- CPYG (R293): each participant's piece. -/
def execCpyg (f : Fields) (s : State) : Host.Outcome State Fault Refusal :=
  once (.cpyg f) f (fun c s =>
    match s.contextOf? c.g with
    | none => .done s
    | some ctx =>
      let b := c.copyBlock
      let t := tensorOf (ctx.object b.rec1)
      let piece := t.row * t.b 2 * t.b 3 * t.b 4
      orElse (s.targetCheck c) fun _ => orElse (counterCheck c) fun _ =>
      orElse (recordCheck c ctx b.rec1 true true false fun _ => true) fun _ =>
      orElse (gatherCheck c b.rec1 t b.origin) fun _ =>
      orElse (s.imageCheck c b.spad (32 * piece) true) fun _ =>
        let runs := (lanesOf c.parts).flatMap fun i =>
          (t.runs (c.pieceOrigin b.origin i) t.pieceBox).map fun r => { r with off := r.off + i * piece }
        match s.runCheck c ((t.paged runs).map fun r => (r, .read)) with
        | .error r => s.faulted c.g r
        | .ok (rs, counter, s) =>
          s.startCopy c (.copy (s.movesOf c b.spad false rs) (.copy t.grain) [] (c.target counter))) s

/-- CPYP (R295): pages that do not translate are skipped (R287). -/
def execCpyp (f : Fields) (s : State) : Host.Outcome State Fault Refusal :=
  once (.cpyp f) f (fun c s =>
    match s.contextOf? c.g with
    | none => .done s
    | some ctx =>
      let b := c.copyBlock
      let t := tensorOf (ctx.object b.rec1)
      orElse (s.targetCheck c) fun _ => orElse (counterCheck c) fun _ =>
      orElse (recordCheck c ctx b.rec1 false true false fun _ => true) fun _ =>
      orElse (boundsCheck c b.rec1 t b.origin) fun _ =>
        let cut := t.paged (t.runs b.origin t.b)
        let step := fun (acc : List (Run × Tlb) × State) (r : Run) =>
          match acc.2.translate c.g.cu .ahead ctx (BitVec.ofNat 64 r.va) .read with
          | (.ok t, s') => (acc.1 ++ [(r, t)], s')
          | (.error _, s') => (acc.1, s')
        let got := cut.foldl step ([], s)
        match got.2.runCheck c [] with
        | .error r => s.faulted c.g r
        | .ok (_, counter, s) =>
          let moves := got.1.zipIdx.map fun r =>
            let mem := Place.mem (r.1.2.pa' r.1.1.va)
            (⟨r.2, mem, mem, r.1.1.size, r.1.2.attr == 2, false, ctx.counterOf r.1.2 r.1.1.va, none⟩ : Move)
          s.startCopy c (.copy moves .fetch [] (c.target counter))) s

/-! ### Collectives (R296, R297) -/

/-- The ranks of a launch's process group: PGT_RANKS, which a single-module launch ignores (R50, R296). -/
def Launch.ranks (l : Launch) : Nat := if l.info.pgt = 0 then 1 else l.info.pgtRanks

/-- The shape rules of R296: the lowest failing dimension. -/
def shapeCheck (op ranks : Nat) (x y : Tensor) : Option Nat :=
  let d := x.ndims - 1
  (List.range 5).find? fun k =>
    match op with
    | 0 => x.b k != y.b k
    | 1 => if k = d then y.b k != ranks * x.b k else x.b k != y.b k
    | _ => if k = d then x.b k != ranks * y.b k else x.b k != y.b k

/-- The moves by which a collective reads its source into its image (R289, R296). -/
def sourceMoves (ctx : Context) (rs : List (Run × Tlb)) : List Move :=
  rs.zipIdx.map fun r =>
    ⟨r.2, .mem (r.1.2.pa' r.1.1.va), .param r.1.1.off, r.1.1.size, r.1.2.attr == 2, false,
      ctx.counterOf r.1.2 r.1.1.va, none⟩

/-- A rank's neighbour in a process group (R58). -/
def neighbour (ranks k j : Nat) : Bool := j == (k + 1) % ranks || j == (k + ranks - 1) % ranks

/-- The pods to which a collective sends over Ethernet: that of a `.send`'s peer, read from the process-group table at
issue, unless the peer is a neighbour in this module's own pod (R58), and for the others those of the neighbours. -/
def State.podsOf (s : State) (ctx : Context) (l : Launch) (op aux : Nat) : List Nat :=
  if op = 4 then []
  else if op = 3 then
    let va := l.info.pgt + BitVec.ofNat 64 (32 * aux)
    match s.translateSys ctx va .read with
    | .error _ => []
    | .ok t =>
      let e := natOfBytes (s.peek (t.pa' va.toNat) 32)
      let pod := e / 2 ^ 128 % 2 ^ 16
      if pod == fieldOf s.regs.podId 0 16 && neighbour l.ranks l.rank aux then [] else [pod]
  else l.pods

/-- A context's message to ranks in other pods leaves as packets of at most 4 KiB, striped over the four ports, each with its
sequence number for the peer and port (R471). -/
def State.sendPackets (s : State) (asid : Nat) (pods : List Nat) (n : Nat) : State :=
  pods.foldl (fun (s : State) pod => (List.range ((n + 4095) / 4096)).foldl (fun (s : State) k =>
    let before := s.packets.filter fun p => p.peer == pod && p.port == k % 4
    let seq := ((before.map Packet.seq).foldl max 0) + 1
    { s with packets := s.packets ++ [⟨pod, k % 4, seq, s.now, s.now, asid⟩] }) s) s

/-- COLL (R296): the operations 0 `.allred` to 4 `.recv` (DEDUCED, log 38). -/
def collOwn (c : Ictx) (s : State) : Effect :=
  match s.contextOf? c.g, s.launchOf? c.g with
  | some ctx, some l =>
    let op := c.f.srcc.toNat
    let b := c.copyBlock
    let x := tensorOf (ctx.object b.rec1)
    let y := tensorOf (ctx.object b.rec2)
    let useX := op != 4
    let useY := op != 3
    let sums := op == 0 || op == 2
    let when := fun (p : Bool) (r : Option FaultRecord) => if p then r else none
    orElse (s.targetCheck c) fun _ => orElse (counterCheck c) fun _ =>
    orElse (when useX (recordCheck c ctx b.rec1 false true false fun f => !sums || sumFormat f)) fun _ =>
    orElse (when useY (recordCheck c ctx b.rec2 false false true fun f => !useX || f == x.format)) fun _ =>
    orElse (when useX (boundsCheck c b.rec1 x b.origin)) fun _ =>
    orElse (when useY (boundsCheck c b.rec2 y b.origin)) fun _ =>
    orElse (when (useX && useY) ((shapeCheck op l.ranks x y).map fun k => copyFault c fTensorBounds b.rec2 k)) fun _ =>
    orElse (when (!(useX && useY) && (l.ranks ≤ b.aux || b.aux == l.rank))
      (some (copyFault c fTensorBounds (if useX then b.rec1 else b.rec2) 5))) fun _ =>
      let xs := if useX then x.paged (x.runs b.origin x.b) else []
      let ys := if useY then y.paged (y.runs b.origin y.b) else []
      match s.runCheck c ((xs.map fun r => (r, .read)) ++ ys.map fun r => (r, .write)) with
      | .error r => s.faulted c.g r
      | .ok (rs, counter, s) =>
        let dst := (rs.drop xs.length).zipIdx.map fun r =>
          (⟨r.1.1.off, .param r.1.1.off, .mem (r.1.2.pa' r.1.1.va), r.1.1.size, false, r.1.2.attr == 2, none,
            ctx.counterOf r.1.2 r.1.1.va⟩ : Move)
        let coll : CollState :=
          { kind := op, collId := b.spad, element := x.format, ranks := l.ranks, rank := l.rank, peer := b.aux
            sent := List.replicate (if useX then x.row * x.rows false else 0) 0, bad := []
            src := sourceMoves ctx (rs.take xs.length), size := if useY then y.row * y.rows false else 0, dst := dst
            pods := s.podsOf ctx l op b.aux, image := none, lines := [] }
        s.startCopy c (.coll coll (c.target counter))
  | _, _ => .done s

/-- COLL.allred (R296). -/
def execCollAllred (f : Fields) (s : State) : Host.Outcome State Fault Refusal := once (.collAllred f) f collOwn s
/-- COLL.allgath (R296). -/
def execCollAllgath (f : Fields) (s : State) : Host.Outcome State Fault Refusal := once (.collAllgath f) f collOwn s
/-- COLL.redscat (R296). -/
def execCollRedscat (f : Fields) (s : State) : Host.Outcome State Fault Refusal := once (.collRedscat f) f collOwn s
/-- COLL.send (R296). -/
def execCollSend (f : Fields) (s : State) : Host.Outcome State Fault Refusal := once (.collSend f) f collOwn s
/-- COLL.recv (R296). -/
def execCollRecv (f : Fields) (s : State) : Host.Outcome State Fault Refusal := once (.collRecv f) f collOwn s

/-- The sum of two images, element by element (R294, R296). -/
def addImages (element : Nat) (a b : List Byte) : List Byte :=
  match fmtOf element with
  | none => a
  | some F =>
    let n := F.width / 8
    let cut := fun l : List Byte => piecesFrom n (l.length + 1) l
    (List.zipWith (fun x y => bytesOfNat n (F.add 0 (natOfBytes x) (natOfBytes y))) (cut a) (cut b)).flatten

/-- The bytes of elements of `n` bytes that hold a bad byte (R289). -/
def wholeElements (n : Nat) (bad : List Nat) : List Nat := bad.flatMap fun k => (List.range n).map fun j => k / n * n + j

/-- What a rank has sent of a collective: the operation and the byte count must be its own (R297). -/
def State.peerOf (s : State) (asid coll rank kind size : Nat) : Option PeerData :=
  s.peerData.find? fun p => p.asid == asid && p.coll == coll && p.rank == rank && p.kind == kind && p.size == size

/-- The image of rank `j`, and the bytes of it that are poisoned: this module's own source, or what has come from the
rank. -/
def State.rankImage (s : State) (asid : Nat) (c : CollState) (j : Nat) : Option (List Byte × List Nat) :=
  if j = c.rank then some (c.sent, c.bad)
  else (s.peerOf asid c.collId j c.kind c.sent.length).map fun p => (p.data, p.bad)

/-- All of a list's values, where all are there. -/
def allOf {α : Type} : List (Option α) → Option (List α)
  | [] => some []
  | none :: _ => none
  | some x :: xs => (allOf xs).map (x :: ·)

/-- The bytes `k` to `k + n - 1` of an image, and the poisoned ones of them. -/
def imagePart (k n : Nat) (m : List Byte × List Nat) : List Byte × List Nat :=
  ((m.1.drop k).take n, (m.2.filter fun j => k ≤ j && j < k + n).map (· - k))

/-- The result on this rank and its poisoned bytes, once its own source is read and every rank's data is there (R289, R296,
R297). A send is done when its peer has issued the matching receive. -/
def State.collResult (s : State) (asid : Nat) (c : CollState) : Option (List Byte × List Nat) :=
  if !c.src.isEmpty then none
  else match c.kind with
  | 3 => (s.peerOf asid c.collId c.peer 4 c.sent.length).map fun _ => ([], [])
  | 4 => (s.peerOf asid c.collId c.peer 3 c.size).map fun p => (p.data, p.bad)
  | k =>
    match allOf ((List.range c.ranks).map (s.rankImage asid c)) with
    | none => none
    | some imgs =>
      if k = 1 then
        some ((imgs.map Prod.fst).flatten, imgs.zipIdx.flatMap fun m => m.1.2.map (m.2 * c.sent.length + ·))
      else
        let parts := if k = 2 then imgs.map (imagePart (c.rank * c.size) c.size) else imgs
        match parts with
        | [] => none
        | p :: ps => some ((ps.map Prod.fst).foldl (addImages c.element) p.1,
            wholeElements (max 1 (halfBytes c.element / 2)) (parts.flatMap Prod.snd))

/-- COLL_PEER_DATA (R297): a peer rank's part in a collective is kept until the collective lands. The input's numbers are
the rank's operation, its byte count, and the bytes of the data that are poisoned; a rank that issues `.recv` sends no
data. -/
def execCollPeerData (asid coll rank : Nat) (data : List (BitVec 8)) (s : State) : Host.Outcome State Fault Refusal :=
  .next (if (s.context? asid).isSome then
    { s with peerData := s.peerData ++ [⟨asid, coll, rank, s.input.nums.getD 0 0, s.input.nums.getD 1 data.length, data,
        s.input.nums.drop 2⟩] } else s)

end Sys2Proof.Machine
end

