-- ==== Sys2Proof/Machine/Fetch.lean ====
section
/-!
DEFINITION. Fetch and issue sets: the waits of a group (R117 to R121), its issue addresses (R37, R161), the fetch of a
word (R144 to R150), the checks at a header (R60 to R65, R88), and the meanings of CLAUSE_HEADER, FETCH_MISS,
FETCH_LINE_FILL and IPREF.
-/
namespace Sys2Proof.Machine

/-! ### Waits -/

/-- The tags of a group's team on its CU (R118). -/
def State.tagsOf (s : State) (g : Group) : BitVec 64 :=
  ((s.team? g.team).map fun t => t.tags.getD (t.cuIndex g) 0).getD 0

/-- A slot of a ring that nothing has touched (R292). -/
def RingSlot.start : RingSlot := ⟨0, none, false⟩

/-- A ring slot of a team. -/
def Team.ring (t : Team) (r slot : Nat) : RingSlot := sget RingSlot.start t.rings (16 * r + slot)

/-- The wait of a half has ended (R117 to R122). -/
def State.over (s : State) (g : Group) (half : Nat) : Bool :=
  match g.wait half with
  | .none => true
  | .released => true
  | .slots m => g.slotsDone half m
  | .counter cls n => g.counter cls ≤ n
  | .allTags m => s.tagsOf g &&& m == m
  | .someTag m => s.tagsOf g &&& m != 0
  | .ring r slot p => ((s.team? g.team).map fun t => (t.ring r slot).phase == p).getD true
  | .barrier _ => false
  | .mwait _ _ _ _ => false

/-! ### Issue addresses (R37, R161) -/

/-- The active lanes of a mask at the lowest PC among them. -/
def Group.front (g : Group) (m : Mask) : Mask :=
  match g.minPc (g.active &&& m) with
  | none => 0
  | some p => maskOf fun i => (g.active &&& m).has i && (g.lane i).pc == p

/-- The first lane's position of a mask. -/
def Group.posOf (g : Group) (m : Mask) : Pos := (g.lane ((lowest m).getD 0)).pos

/-- The sets of lanes that may issue, in order of preference: in forerunner mode a merged issue, or the half whose turn
it is, and then the other (R161). -/
def State.fronts (s : State) (g : Group) : List Mask :=
  let at' := fun h => if s.over g h then g.front (halfMask h) else 0
  if !g.fwd then (if s.over g 0 && g.active != 0 then [g.front Mask.all] else [])
  else
    let a := at' 0
    let b := at' 1
    if a == 0 && b == 0 then []
    else if b == 0 then [a]
    else if a == 0 then [b]
    else
      let pa := (g.posOf a).pc
      let pb := (g.posOf b).pc
      if pa == pb then [a ||| b, a, b]
      else if g.lastHalf = 0 then [b, a]
      else if g.lastHalf = 1 then [a, b]
      else if pa.toNat < pb.toNat then [a, b] else [b, a]

/-! ### Fetching a word (R144 to R150) -/

/-- What a fetch comes to. -/
inductive Fetched where
  | word (w : DWord)
  | missing (pa : Nat) (count : Option Nat)
  | flying
  | fault (r : FaultRecord)

/-- MEMORY_POISON at a fetch (R149, R150). -/
def fetchPoison (lanes : Mask) (va : DWord) : FaultRecord :=
  ⟨BitVec.ofNat 32 (fMemoryPoison + 2 ^ 20), lanes, 0, va, va⟩

/-- A line of the instruction cache. -/
def Cu.codeLine (c : Cu) (asid line frame : Nat) : Option CodeLine :=
  c.lines.find? fun x => x.asid == asid && x.va == line && x.frame == frame

/-- Steps 2 and 3 of R149 for a word. -/
def State.fetch (s : State) (g : Group) (va : DWord) (lanes : Mask) : Fetched × State :=
  match s.contextOf? g with
  | none => (.flying, s)
  | some ctx =>
    match s.translate g.cu .code ctx va .fetch with
    | (.error f, s) => (.fault (pageRecord f false true lanes va va), s)
    | (.ok t, s) =>
      let pa := t.pa' va.toNat
      let line := va.toNat / 128
      match (s.cu g.cu).codeLine ctx.asid line (pa / 4096) with
      | some l =>
        if l.bad.contains (pa / 8 % 16) then (.fault (fetchPoison lanes va), s)
        else
          (.word (l.words.getD (pa / 8 % 16) 0),
            s.modCu g.cu fun c => { c with lines := c.lines.map fun x => if x = l then { x with used := s.now } else x })
      | none =>
        if (s.cu g.cu).fetching.any fun x => x.asid == ctx.asid && x.va == line then (.flying, s)
        else (.missing (pa / 128 * 128) (ctx.counterOf t va.toNat), s)

/-- A line is requested (R146, R147). -/
def State.request (s : State) (c asid line pa : Nat) (count : Option Nat) (ahead : Bool) : State :=
  s.modCu c fun k => { k with fetching := k.fetching ++ [⟨asid, line, pa, count, ahead⟩] }

/-- Replacement within a set of 8 ways (R144): the least recently used line goes. -/
def roomFor (line : Nat) (ls : List CodeLine) : List CodeLine :=
  let same := ls.filter fun x => x.va % 128 == line % 128
  if same.length < 8 then ls
  else
    match least (same.map CodeLine.used) with
    | none => ls
    | some u =>
      match same.find? fun x => x.used == u with
      | some x => ls.erase x
      | none => ls

/-- The reads of a line that is fetched. -/
def Fetching.access (x : Fetching) : Access := ⟨0, 0, .mem x.pa, .load 128 false, true, false, x.count, [], false⟩

/-- A requested line arrives and is installed. -/
def State.fillLine (s : State) (c : Nat) (x : Fetching) : State :=
  let r := (List.range 32).foldl (fun (acc : List Word × State) k =>
    let y := acc.2.loadHome c (x.pa / 4 + k) false (if k = 0 then x.count else none)
    (acc.1 ++ [y.1], y.2)) ([], s)
  let words := (List.range 16).map fun k => r.1.getD (2 * k + 1) 0 ++ r.1.getD (2 * k) 0
  let bad := (List.range 16).filter fun k => s.poisoned (x.pa / 4 + 2 * k) || s.poisoned (x.pa / 4 + 2 * k + 1)
  r.2.modCu c fun k =>
    { k with
      lines := ⟨x.asid, x.va, x.pa / 4096, words, bad, s.now⟩ ::
        roomFor x.va (k.lines.filter fun y => !(y.asid == x.asid && y.va == x.va))
      fetching := k.fetching.erase x }

/-! ### The checks at a word that is reached (R60 to R65, R88) -/

/-- What stands before an issue: an instruction with its header where the header is reached with it, a fault with the
position to which it takes its lanes first where that is not their own, a line to request, or nothing yet. -/
inductive Plan where
  | go (cur : Cur) (header : Option Header)
  | fault (r : FaultRecord) (at' : Option Pos)
  | miss (line pa : Nat) (count : Option Nat)
  | hold

/-- The fault of a word that is reached from outside its clause: R64, R65. `src` is the address of the transfer. -/
def markerFault (p : Pos) (lanes : Mask) (w : DWord) : Option FaultRecord :=
  let b := fieldOf w 56 8
  if b = 0xCA then none
  else
    match p.arrival with
    | .transfer src =>
      some (if b = 0xCB then recordOf fIllegalHeader lanes p.pc w 0 else recordOf fMisalignedTarget lanes p.pc src 0)
    | .entry =>
      some (if b = 0xCB then recordOf fIllegalHeader lanes p.pc w 0 else recordOf fMisalignedTarget lanes p.pc 0 0)
    | _ => some (recordOf fIllegalHeader lanes p.pc w 0)

/-- Step 1 of R88 before the fetch: alignment (R64). -/
def alignFault (p : Pos) (lanes : Mask) : Option FaultRecord :=
  if p.pc.toNat % 8 = 0 then none
  else
    some (recordOf fMisalignedTarget lanes p.pc (match p.arrival with | .transfer src => src | _ => 0) 0)

/-- Steps 2 and 3 of R88 at a header (R60, R87). -/
def headerFault (g : Group) (hdr : DWord) (lanes : Mask) (w : DWord) : Option FaultRecord :=
  match Header.ofWord? w with
  | none => some (recordOf fIllegalHeader lanes hdr w 0)
  | some h =>
    if roleAdmits g h.engine.toNat then none else some (recordOf fRoleClass lanes hdr w g.role)

/-- The waits of a header pass (R61). -/
def headerWaits (g : Group) (half : Nat) (h : Header) : Bool :=
  g.slotsDone half h.sbmask.toNat && (h.cwen == 0 || g.counter h.cclass.toNat ≤ h.cthresh.toNat)

/-- The first word of a clause. -/
def Pos.first (hdr w : DWord) : Pos := ⟨hdr + 8, hdr, w, .inClause⟩

/-- A lane has come to its PC from outside a clause: by a transfer, by falling through, or at a handler's entry. -/
def Lane.outside (l : Lane) : Bool := l.pos.arrival != .inClause && l.pos.arrival != .past

/-- The lanes of a context on a CU that fetch the word at an address: it stands at their PC, or behind the
header to which they have come (R61). -/
def State.lanesAt (s : State) (c asid : Nat) (va : DWord) : Mask :=
  (s.groups.filter fun g => g.cu == c && s.asidOf g == asid && s.resident g.team).foldl (fun m g =>
    m ||| maskOf fun i => g.active.has i
      && ((g.lane i).pc == va || (g.lane i).outside && (g.lane i).pc + 8 == va)) 0

/-- Lanes of a mask that have come from outside a clause. -/
def Group.outside (g : Group) (m : Mask) : Mask := maskOf fun i => m.has i && (g.lane i).outside

/-- The lanes from outside whose arrival is checked first: those that took a transfer, else those that came as the lowest of
them did. One fault takes all of them, with the record of the lowest lane's transfer (R64) (DESIGN CHOICE, log 52). -/
def Group.checkedFirst (g : Group) (m : Mask) : Mask :=
  let took := maskOf fun i => m.has i && match (g.lane i).pos.arrival with | .transfer _ => true | _ => false
  if took != 0 then took
  else maskOf fun i => (g.outside m).has i && (g.lane i).pos.arrival == (g.posOf (g.outside m)).arrival

/-- The header of the clause that holds a position: the word that was read, or, behind a header that could not be read, a
fetch of it (R62, R141). -/
def State.headerAt (s : State) (g : Group) (p : Pos) (m : Mask) : Fetched × State :=
  if p.arrival == .past then s.fetch g p.hdr m else (.word p.word, s)

/-- What lanes inside a clause come to at their issue address (R62). -/
def State.planInside (s : State) (g : Group) (m : Mask) : Plan × State :=
  let p := g.posOf m
  match s.headerAt g p m with
  | (.missing pa n, s) => (.miss (p.hdr.toNat / 128) pa n, s)
  | (.flying, s) => (.hold, s)
  | (.fault r, s) => (.fault r none, s)
  | (.word h, s) =>
    match headerFault g p.hdr m h with
    | some r => (.fault r none, s)
    | none =>
      match s.fetch g p.pc m with
      | (.word w, s) => (.go ⟨g.id, m, p.pc, p.hdr, h, w⟩ none, s)
      | (.missing pa n, s) => (.miss (p.pc.toNat / 128) pa n, s)
      | (.flying, s) => (.hold, s)
      | (.fault r, s) => (.fault r (if p.arrival == .past then some ⟨p.pc, p.hdr, h, .inClause⟩ else none), s)

/-- What lanes come to at the clause header `w` at their issue address, with the clause's first instruction (R60, R61). -/
def State.planHeader (s : State) (g : Group) (m : Mask) (pc w : DWord) : Plan × State :=
  match headerFault g pc m w, Header.ofWord? w with
  | none, some h =>
    if !headerWaits g (issuedHalf m) h then (.hold, s)
    else
      match s.fetch g (pc + 8) m with
      | (.word i, s) => (.go ⟨g.id, m, pc + 8, pc, w, i⟩ (some h), s)
      | (.missing pa n, s) => (.miss ((pc + 8).toNat / 128) pa n, s)
      | (.flying, s) => (.hold, s)
      | (.fault r, s) => (.fault r (some (Pos.first pc w)), s)
  | some r, _ => (.fault r none, s)
  | none, none => (.fault (recordOf fIllegalHeader m pc w 0) none, s)

/-- What the lanes `m` of a group come to at their issue address. Where lanes have come there from outside a clause, theirs
are the checks of R64 and R65, and the lanes inside a clause are not affected; a word that is a header is no instruction, so
lanes that stand at it inside a clause meet that first (R84). -/
def State.plan (s : State) (g : Group) (m : Mask) : Plan × State :=
  if g.outside m == 0 then s.planInside g m
  else
    let first := g.checkedFirst m
    let p := g.posOf first
    match alignFault p first with
    | some r => (.fault r none, s)
    | none =>
      match s.fetch g p.pc m with
      | (.missing pa n, s) => (.miss (p.pc.toNat / 128) pa n, s)
      | (.flying, s) => (.hold, s)
      | (.fault r, s) => (.fault r none, s)
      | (.word w, s) =>
        match markerFault p first w with
        | some r => (.fault r none, s)
        | none =>
          let inside := m &&& ~~~(g.outside m)
          if inside == 0 then s.planHeader g m p.pc w else s.planInside g inside

/-- CLAUSE_HEADER (R60, R61, R87): the header is checked for admission, and its waits hold the group; where they pass,
the issuing lanes stand at the clause's first instruction, which issues with them (DESIGN CHOICE, log 8). -/
def execClauseHeader (h : Header) (s : State) : Host.Outcome State Fault Refusal :=
  match s.cur with
  | none => .fault .noIssue
  | some cur =>
    match s.group? cur.group with
    | none => .fault .noIssue
    | some g =>
      let s := { s with cur := none }
      if !roleAdmits g h.engine.toNat then .next (s.takeFault g (recordOf fRoleClass cur.lanes cur.addr cur.word g.role))
      else if !headerWaits g (issuedHalf cur.lanes) h then .next s
      else .next (s.putGroup (g.modLanes cur.lanes fun l => { l with pos := Pos.first cur.addr cur.word }))

/-- The first set of lanes of a group that waits for a line not yet requested. -/
def State.missOf (s : State) (g : Group) : List Mask → Option (Nat × Nat × Option Nat × State)
  | [] => none
  | m :: ms =>
    match s.plan g m with
    | (.miss line pa n, s') => some (line, pa, n, s')
    | _ => s.missOf g ms

/-- FETCH_MISS (R146): the line at the issue address is requested. -/
def execFetchMiss (gid : Nat) (s : State) : Host.Outcome State Fault Refusal :=
  match s.group? gid with
  | none => .next s
  | some g =>
    match s.missOf g (s.fronts g) with
    | some (line, pa, n, s) => .next (s.request g.cu (s.asidOf g) line pa n false)
    | none => .next s

/-- A line in flight is in the window of a position that cannot be reached: a context of which lanes fetch its words loses
its link, and one that has only asked for the line ahead goes on (R19, R147). -/
def State.fetchGone (s : State) (c : Nat) (x : Fetching) : State :=
  let s := s.modCu c fun k => { k with fetching := k.fetching.erase x }
  let words := (List.range 16).map fun k => BitVec.ofNat 64 (128 * x.va + 8 * k)
  match words.find? fun va => s.lanesAt c x.asid va != 0 with
  | none => s
  | some va => s.beginEnd x.asid (s.peerRecord (s.lanesAt c x.asid va) va)

/-- FETCH_LINE_FILL (R144, R146): a requested line arrives, once its reads have the tokens that they need and the slice's
port admits them. -/
def execFetchLineFill (cu asid line : Nat) (s : State) : Host.Outcome State Fault Refusal :=
  match (s.cu cu).fetching.find? fun x => x.asid == asid && x.va == line with
  | none => .next s
  | some x =>
    let a := x.access
    if s.peerGone x.pa then .next (s.fetchGone cu x)
    else if s.accessWaits cu asid none a x.pa true then .next (s.demandAll cu asid none a x.pa true)
    else .next ((s.fillLine cu x).accessDone asid none (s.portsOf cu a x.pa true) (s.requests cu a x.pa true))

/-- One line of an IPREF (R147). -/
def State.prefetchLine (s : State) (g : Group) (line : Nat) : State :=
  match s.contextOf? g with
  | none => s
  | some ctx =>
    let va := BitVec.ofNat 64 (128 * line)
    let flying := (s.cu g.cu).fetching
    if flying.any fun x => x.asid == ctx.asid && x.va == line then s
    else if !canonical va || 2 ^ 57 ≤ va.toNat then s
    else if s.pageReqs.any fun q => q.asid == ctx.asid && q.va == va.toNat / 4096 * 4096 then s
    else
      match s.translate g.cu .code ctx va .fetch with
      | (.error _, _) => s
      | (.ok t, s') =>
        let pa := t.pa' va.toNat
        if ((s.cu g.cu).codeLine ctx.asid line (pa / 4096)).isSome then s'
        else if 32 ≤ (flying.filter Fetching.prefetched).length then s
        else s'.request g.cu ctx.asid line pa (ctx.counterOf t va.toNat) true

/-- IPREF (R124, R147). The lines beyond the top of the address space are those from 0 on (DESIGN CHOICE, log 53). -/
def execIpref (f : Fields) (s : State) : Host.Outcome State Fault Refusal :=
  once (.ipref f) f (fun c s =>
    let line := (c.a64 c.lead).toNat / 128
    .done ((List.range (f.srcc.toNat + 1)).foldl (fun s k => s.prefetchLine c.g ((line + k) % 2 ^ 57)) s)) s

end Sys2Proof.Machine
end

