-- ==== Sys2Proof/Machine/Control.lean ====
section
/-!
DEFINITION. Row 0 (05, R110 to R126, R141, R142): control transfers, EXIT and YIELD, joins, waits, tags, barriers and
rings, MWAIT with its wake and timeout, SPAWN, traps, special registers and TRAPRET. Revocation and regions are in
Registry.lean, SPAWN's other half in Complete.lean.
-/
namespace Sys2Proof.Machine

/-- UNASSIGNED_OPCODE (R84): the check of the opcode faults. -/
def execUnassignedOpcode (op : BitVec 8) (f : Fields) (s : State) : Host.Outcome State Fault Refusal :=
  plain (.unassignedOpcode op f) f (fun _ s => .done s) s

/-! ### NOP and control transfers (R113, R115) -/

/-- NOP (R115). -/
def execNop (f : Fields) (s : State) : Host.Outcome State Fault Refusal := plain (.nop f) f (fun _ s => .done s) s

/-- The target of BRA and CALL. -/
def Ictx.target' (c : Ictx) : DWord := c.addr + BitVec.ofInt 64 (8 * c.simm)

/-- Participants take a control transfer, after their link registers are written where `link` holds. -/
def State.transfer (s : State) (c : Ictx) (link : Bool) (dest : Nat → DWord) : State :=
  s.modGroup c.g.id fun g =>
    let g := if link then g.writeRegs (c.each64 fun _ => c.addr + 8) else g
    { g with lanes := (List.range 32).map fun i =>
        if c.parts.has i then { g.lane i with pos := Pos.target (dest i) c.addr } else g.lane i }

/-- BRA (R113). -/
def execBra (f : Fields) (s : State) : Host.Outcome State Fault Refusal :=
  plain (.bra f) f (fun c s => .done (s.transfer c false fun _ => c.target')) s
/-- BRAX (R113). -/
def execBrax (f : Fields) (s : State) : Host.Outcome State Fault Refusal :=
  plain (.brax f) f (fun c s => .done (s.transfer c false c.a64)) s
/-- CALL (R113). -/
def execCall (f : Fields) (s : State) : Host.Outcome State Fault Refusal :=
  plain (.call f) f (fun c s => .done (s.transfer c true fun _ => c.target')) s
/-- CALLX (R113): the address is read before the link is written. -/
def execCallx (f : Fields) (s : State) : Host.Outcome State Fault Refusal :=
  plain (.callx f) f (fun c s => .done (s.transfer c true c.a64)) s
/-- RET (R113). -/
def execRet (f : Fields) (s : State) : Host.Outcome State Fault Refusal :=
  plain (.ret f) f (fun c s => .done (s.transfer c false c.a64)) s

/-! ### Barriers and rings of a team (R119, R120, R292) -/

/-- The groups of a team that have not retired, of a role where one is named; in forerunner mode its halves with a lane
that has not exited (R119, R162, R292). -/
def State.units (s : State) (t : Nat) (role : Option Nat) : Nat :=
  (s.groups.filter fun g => g.team == t && (match role with | some r => g.role == r | none => true)).foldl (fun n g =>
    n + (if g.fwd then ([0, 1].filter fun h => g.live &&& halfMask h != 0).length else 1)) 0

/-- Waits of a group that a test selects are released. -/
def Group.release (g : Group) (p : Wait → Bool) : Group :=
  let f := fun w : Wait => if p w then .released else w
  { g with wait0 := f g.wait0, wait1 := f g.wait1, saveWait0 := f g.saveWait0, saveWait1 := f g.saveWait1 }

/-- Waits of a team's groups that a test selects are released. -/
def State.releaseTeam (s : State) (t : Nat) (p : Wait → Bool) : State :=
  { s with groups := s.groups.map fun g => if g.team = t then g.release p else g }

/-- A barrier that nothing has touched. -/
def Barrier.start : Barrier := ⟨0, 0, none, false⟩
/-- A barrier of a team. -/
def Team.barrier (t : Team) (n : Nat) : Barrier := sget Barrier.start t.barriers n

/-- The expected count of a barrier's open phase (R119). -/
def State.barrierExpects (s : State) (t : Nat) (b : Barrier) : Nat :=
  if b.form == some true then b.expected else s.units t none

/-- The wait is BARW's on a barrier. -/
def onBarrier (n : Nat) (w : Wait) : Bool := match w with | .barrier b => b == n | _ => false
/-- The wait is RWAIT's for a phase of a ring slot. -/
def onRing (r k : Nat) (p : Bool) (w : Wait) : Bool := match w with | .ring r' k' p' => r' == r && k' == k && p' == p | _ => false

/-- A barrier whose arrivals have reached the expected count flips, and its waiters are released (R119). -/
def State.flipBarrier (s : State) (t n : Nat) : State :=
  match s.team? t with
  | none => s
  | some tm =>
    let b := tm.barrier n
    if b.form.isSome && s.barrierExpects t b ≤ b.count then
      (s.modTeam t fun tm => { tm with barriers := sset Barrier.start tm.barriers n ⟨0, 0, none, !b.phase⟩ }).releaseTeam t
        (onBarrier n)
    else s

/-- A ring slot whose arrivals have reached the expected count flips, and the waiters for its new phase are released
(R292). -/
def State.flipRing (s : State) (t r k : Nat) : State :=
  match s.team? t with
  | none => s
  | some tm =>
    let x := tm.ring r k
    if x.role.isSome && s.units t x.role ≤ x.count then
      (s.modTeam t fun tm => { tm with rings := sset RingSlot.start tm.rings (16 * r + k) ⟨0, none, !x.phase⟩ }).releaseTeam t
        (onRing r k (!x.phase))
    else s

/-- A retirement may complete a phase of any barrier or ring slot of the team (R119, R292). -/
def State.recheckTeam (s : State) (t : Nat) : State :=
  match s.team? t with
  | none => s
  | some tm =>
    let s := (tm.barriers.map Prod.fst).foldl (fun (s : State) n => s.flipBarrier t n) s
    (tm.rings.map Prod.fst).foldl (fun (s : State) k => s.flipRing t (k / 16) (k % 16)) s

/-- One arrival at a ring slot, by a group's RARV or by the landing of its copy (R292). -/
def State.arriveRing (s : State) (g : Group) (r k : Nat) : State :=
  (s.modTeam g.team fun tm =>
    let x := tm.ring r k
    { tm with rings := sset RingSlot.start tm.rings (16 * r + k) ⟨x.count + 1, some (x.role.getD g.role), x.phase⟩ }).flipRing
      g.team r k

/-! ### EXIT and YIELD (R36, R40, R115) -/

/-- EXIT (R36, R115): the lanes count as signed in every join; in forerunner mode a half may retire with them
(R162) (DEDUCED, log 41). -/
def execExit (f : Fields) (s : State) : Host.Outcome State Fault Refusal :=
  plain (.exit f) f (fun c s =>
    if c.parts == 0 then .done s
    else
      match (s.modGroup c.g.id fun g => g.modLanes c.parts Lane.exit).settled c.g.id 0 with
      | .done s => .done (if c.g.fwd then s.recheckTeam c.g.team else s)
      | e => e) s

/-- YIELD (R63, R115): the group is the most recently issued of its quadrant. -/
def execYield (f : Fields) (s : State) : Host.Outcome State Fault Refusal :=
  once (.yield f) f (fun c s => .done (s.modGroup c.g.id fun g => { g with lastIssue := s.now })) s

/-! ### Joins (R40, R41, R116, R163) -/

/-- The group's join register that an instruction names for its half. -/
def Ictx.joinOf (c : Ictx) : Nat := c.f.dst.toNat + (if c.g.fwd then 8 * c.half else 0)

/-- A declaration: signed bits of lanes not parked at the join are cleared (R40). -/
def Group.declare (g : Group) (j : Nat) (m : Mask) : Group :=
  g.setJoin j ⟨m, (g.join j).signed &&& (g.waiters j ||| g.holders j)⟩

/-- JENR and JENR.act. In handler mode they fault (R116, DEDUCED, log 16). -/
def declareOwn (mask : Ictx → Mask) (c : Ictx) (s : State) : Effect :=
  if c.g.handler then .trap (handlerState c)
  else if c.parts == 0 then .done s
  else (s.modGroup c.g.id fun g => g.declare c.joinOf (mask c)).settled c.g.id 0

/-- The declared mask of JENR: the group operand, in forerunner mode the local lanes of its half (R163). -/
def Ictx.jenrMask (c : Ictx) : Mask :=
  if c.g.fwd then ((c.g.reg c.f.srca.toNat c.lead) &&& 0xFFFF#32) <<< (16 * c.half) else c.g.reg c.f.srca.toNat c.lead

/-- The actions of an instruction that acts for each half but is made whether or not it has participants. -/
def halves (i : Instr) (f : Fields) (own : Ictx → State → Effect) (s : State) : Host.Outcome State Fault Refusal :=
  issue i f .halved (fun _ _ _ => Guard.plain) own s

/-- JENR (R40, R116). -/
def execJenr (f : Fields) (s : State) : Host.Outcome State Fault Refusal :=
  halves (.jenr f) f (declareOwn Ictx.jenrMask) s
/-- JENR.act (R116). -/
def execJenrAct (f : Fields) (s : State) : Host.Outcome State Fault Refusal :=
  halves (.jenrAct f) f (declareOwn Ictx.parts) s

/-- Participants sign a join; a signature from an undeclared lane is ignored (R40). -/
def Group.sign (g : Group) (j : Nat) (m : Mask) : Group :=
  g.setJoin j ⟨(g.join j).declared, (g.join j).signed ||| (m &&& (g.join j).declared)⟩

/-- JSIGN (R40, R116). -/
def execJsign (f : Fields) (s : State) : Host.Outcome State Fault Refusal :=
  halves (.jsign f) f (fun c s =>
    if c.g.handler then .trap (handlerState c)
    else if c.parts == 0 then .done s
    else (s.modGroup c.g.id fun g => g.sign c.joinOf c.parts).settled c.g.id 0) s

/-- JWAIT (R41, R116): participants sign and park; where the join is complete they pass at once. -/
def execJwait (f : Fields) (s : State) : Host.Outcome State Fault Refusal :=
  halves (.jwait f) f (fun c s =>
    if c.g.handler then .trap (handlerState c)
    else if c.parts == 0 then .done s
    else
      (s.modGroup c.g.id fun g =>
        let g := g.sign c.joinOf c.parts
        { g with lanes := (List.range 32).map fun i =>
            if c.parts.has i then { c.g.lane i with park := .join c.joinOf } else g.lane i }).settled c.g.id 0) s

/-! ### Waits on slots, counters and tags (R117, R118) -/

/-- Going on where a condition holds, and waiting otherwise. -/
def waitUnless (p : Bool) (w : Wait) (s : State) : Effect := if p then .done s else .wait w s

/-- SBWAIT (R117). -/
def execSbwait (f : Fields) (s : State) : Host.Outcome State Fault Refusal :=
  once (.sbwait f) f (fun c s => waitUnless (c.g.slotsDone c.half f.srcc.toNat) (.slots f.srcc.toNat) s) s

/-- CWAIT (R117). -/
def execCwait (f : Fields) (s : State) : Host.Outcome State Fault Refusal :=
  once (.cwait f) f (fun c s =>
    let cls := f.mod.toNat % 4
    waitUnless (c.g.counter cls ≤ f.srcc.toNat) (.counter cls f.srcc.toNat) s) s

/-- TEAM_RESOURCE: kind 0 tag, 1 ring, 2 barrier (R137). -/
def teamResource (c : Ictx) (kind index : Nat) : FaultRecord := recordOf fTeamResource c.all c.addr 0 (256 * index + kind)

/-- A need of the group's launch; a spawn team has none (R48). -/
def State.need (s : State) (g : Group) (of : Record → Nat) : Nat :=
  if ((s.team? g.team).map Team.spawn).getD false then 0 else ((s.launchOf? g).map fun l => of l.info).getD 0

/-- The tag mask, and the first tag of it that the team does not have. -/
def Ictx.tagMask (c : Ictx) : DWord := c.a64 c.lead

/-- The check of the tag instructions (R118). -/
def State.tagCheck (s : State) (c : Ictx) : Option FaultRecord :=
  ((List.range 64).find? fun k => c.tagMask.getLsbD k && s.need c.g Record.tags ≤ k).map (teamResource c 0)

/-- The lowest set tag of the mask as a number, or all ones. -/
def lowestTag (x : BitVec 64) : Word :=
  match (List.range 64).find? x.getLsbD with
  | some k => BitVec.ofNat 32 k
  | none => 0xFFFFFFFF#32

/-- TWAIT (R118). -/
def execTwait (f : Fields) (s : State) : Host.Outcome State Fault Refusal :=
  once (.twait f) f (fun c s => orElse (s.tagCheck c) fun _ =>
    waitUnless (s.tagsOf c.g &&& c.tagMask == c.tagMask) (.allTags c.tagMask) s) s

/-- TWANY (R118). -/
def execTwany (f : Fields) (s : State) : Host.Outcome State Fault Refusal :=
  once (.twany f) f (fun c s => orElse (s.tagCheck c) fun _ =>
    let hit := s.tagsOf c.g &&& c.tagMask
    if c.tagMask == 0 || hit != 0 then .done (s.writeResults c (c.each fun _ => lowestTag hit))
    else .wait (.someTag c.tagMask) s) s

/-- TFIND (R118). -/
def execTfind (f : Fields) (s : State) : Host.Outcome State Fault Refusal :=
  once (.tfind f) f (fun c s => orElse (s.tagCheck c) fun _ =>
    .done (s.writeResults c (c.each fun _ => lowestTag (s.tagsOf c.g &&& c.tagMask)))) s

/-- TCLR (R118). -/
def execTclr (f : Fields) (s : State) : Host.Outcome State Fault Refusal :=
  once (.tclr f) f (fun c s => orElse (s.tagCheck c) fun _ =>
    .done (s.modTeam c.g.team fun t =>
      { t with tags := t.tags.set (t.cuIndex c.g) (t.tags.getD (t.cuIndex c.g) 0 &&& ~~~c.tagMask) })) s

/-! ### Barriers and ring slots (R119, R120) -/

/-- An arrival at a barrier, after its checks. -/
def barrierOwn (counted : Bool) (c : Ictx) (s : State) : Except FaultRecord State :=
  let n := c.f.srca.toNat
  let offered := (c.g.reg c.f.srcb.toNat c.lead).toNat
  if s.need c.g Record.barriers ≤ n then .error (teamResource c 2 n)
  else
    match s.team? c.g.team with
    | none => .ok s
    | some t =>
      let b := t.barrier n
      let bad := (counted && (offered == 0 || 384 < offered))
        || (match b.form with
          | none => false
          | some k => k != counted || (counted && b.expected != offered))
      if bad then
        let expects := if b.form.isSome then s.barrierExpects t.id b else 0
        .error (recordOf fBarrierMismatch c.all c.addr
          (BitVec.ofNat 64 (expects + 2 ^ 32 * (if counted then offered else 0))) n)
      else
        .ok ((s.modTeam t.id fun t =>
          { t with
            barriers := sset Barrier.start t.barriers n
              ⟨b.count + 1, if counted then offered else 0, some counted, b.phase⟩ }).flipBarrier t.id n)

/-- BARW (R119): an arrival, then a wait until the phase bit changes. -/
def execBarw (f : Fields) (s : State) : Host.Outcome State Fault Refusal :=
  once (.barw f) f (fun c s =>
    if c.g.wait c.half == .released then .done s
    else
      let phase := fun s : State => ((s.team? c.g.team).map fun t => (t.barrier f.srca.toNat).phase).getD false
      match barrierOwn (f.mod == 1) c s with
      | .error r => .trap r
      | .ok t => waitUnless (phase t != phase s) (.barrier f.srca.toNat) t) s

/-- BARA (R119). -/
def execBara (f : Fields) (s : State) : Host.Outcome State Fault Refusal :=
  once (.bara f) f (fun c s =>
    match barrierOwn (f.mod == 1) c s with
    | .error r => .trap r
    | .ok t => .done t) s

/-- RARV (R120). -/
def execRarv (f : Fields) (s : State) : Host.Outcome State Fault Refusal :=
  once (.rarv f) f (fun c s =>
    if s.need c.g Record.rings ≤ f.srca.toNat then .trap (teamResource c 1 f.srca.toNat)
    else .done (s.arriveRing c.g f.srca.toNat f.srcc.toNat)) s

/-- RWAIT (R120). -/
def execRwait (f : Fields) (s : State) : Host.Outcome State Fault Refusal :=
  once (.rwait f) f (fun c s =>
    let r := f.srca.toNat
    let k := f.srcc.toNat
    let p := f.mod == 1
    if s.need c.g Record.rings ≤ r then .trap (teamResource c 1 r)
    else
      waitUnless (c.g.wait c.half == .released || ((s.team? c.g.team).map fun t => (t.ring r k).phase == p).getD true)
        (.ring r k p) s) s

/-! ### MWAIT (R121) -/

/-- The width of MWAIT's words. -/
def mwaitSize (f : Fields) : Nat := if f.mod.getLsbD 0 then 8 else 4

/-- The expected value of a lane. -/
def Ictx.expected (c : Ictx) (i : Nat) : Nat := if c.f.mod.getLsbD 0 then (c.b64 i).toNat else (c.g.reg c.f.srcb.toNat i).toNat

/-- A participant has an access of its own outstanding at its address, behind which a read at issue keeps its order
(R78). -/
def Ictx.ownAccess (c : Ictx) (n : Nat) (xs : List (Nat × DWord)) (s : State) : Bool :=
  match s.contextOf? c.g with
  | none => false
  | some ctx => xs.any fun x =>
    match (s.translate c.g.cu .data ctx x.2 .any).1 with
    | .ok t => c.g.mayMeet x.1 (.mem (t.pa' x.2.toNat)) n
    | .error _ => false

/-- The bytes at a place as a scope of a CU sees them (R338): within the CU, what it has itself stored and sent stands over what
is at home. -/
def State.peekAt (s : State) (c scope pa n : Nat) : List Byte :=
  if scope != 0 then s.peek pa n
  else
    let ws := (wordsOf pa n).flatMap fun w => bytesOfNat 4 (match s.l1? c w with
      | some ⟨.sent m _ _, v⟩ => mergeMask (s.word w) v m
      | _ => s.word w).toNat
    (ws.drop (pa % 4)).take n

/-- The value at the place of an access to memory as a scope sees it. -/
def State.valueAt (s : State) (c scope : Nat) (a : Access) : Nat :=
  match a.place with
  | .mem pa => natOfBytes (s.peekAt c scope pa a.op.size)
  | _ => 0

/-- What the reads of an instruction at its issue come to. -/
inductive ReadsNow where
  | got (vs : List (Nat × Nat)) (s : State)
  | waits (ask : State → State)
  | gone

/-- Reads at issue one after another: the values by lane. -/
def State.readsNow (s : State) (g : Group) : List Access → List (Nat × Nat) → ReadsNow
  | [], vs => .got vs s
  | a :: as, vs =>
    match s.readNow g a with
    | .gone => .gone
    | .waits ask => .waits ask
    | .bytes bs s => s.readsNow g as (vs ++ [(a.lane, natOfBytes bs)])

/-- MWAIT since `start`: the check of the words, the timeout, or sleep. A read bypasses the L1 (R343), and is made again by a
sleeper when what its scope shows of the words has come to differ, or the timeout is due. -/
def mwaitOwn (asleep : Bool) (start : BitVec 64) (c : Ictx) (s : State) : Effect :=
  let z := mwaitSize c.f
  let sleep := fun s : State => Effect.wait (.mwait start c.f c.lanes c.word) s
  if c.ownAccess z ((lanesOf c.parts).map fun i => (i, c.a64 i)) s then .wait (.counter 0 0) s
  else
  match s.reach c z .read ((lanesOf c.parts).map fun i => (i, c.a64 i)) (fun _ => .load z false) true [] with
  | .error r => s.faulted c.g r
  | .ok (accs, s) =>
    let same := fun (vs : List (Nat × Nat)) i => vs.any fun x => x.1 == i && x.2 == c.expected i
    let limit := (c.g.reg c.f.srcc.toNat c.lead).toNat
    let late := limit != 0 && limit ≤ (s.clock - start).toNat
    let news := accs.map fun a => (a.lane, s.valueAt c.g.cu (c.f.mod.toNat / 2) a)
    if asleep && !late && (lanesOf c.parts).any (same news) then sleep s
    else
      match s.readsNow c.g accs [] with
      | .gone => .trapAfter (s.peerRecord c.parts c.addr) false s
      | .waits ask => .hold ask
      | .got vs s =>
        if !((lanesOf c.parts).any (same vs)) then .done (s.writeResults c (c.each fun _ => 0))
        else if late then .done (s.writeResults c (c.each fun i => if same vs i then 1 else 0))
        else sleep s

/-- MWAIT (R121). -/
def execMwait (f : Fields) (s : State) : Host.Outcome State Fault Refusal :=
  once (.mwait f) f (mwaitOwn false s.clock) s

/-- The group is on its CU, and its context runs (R442, R446). -/
def State.running (s : State) (g : Group) : Bool :=
  s.resident g.team && ((s.contextOf? g).map fun c => c.state == .running && !c.ckptWanted).getD false

/-- The effect of a sleeping MWAIT that makes its check again. One that is swapped out does so when it resumes (R121). -/
def State.mwaitAgain (s : State) (g : Group) (half : Nat) : Option Effect :=
  match g.wait half with
  | .mwait start f lanes word =>
    let p := g.posOf lanes
    if s.running g then some (s.act ⟨g.id, lanes, p.pc, p.hdr, p.word, word⟩ f .grouped (mwaitOwn true start) half lanes) else none
  | _ => none

/-- A sleeping MWAIT ends, sleeps on, asks for the tokens of its words, or faults as its first check would. -/
def State.recheckWait (s : State) (gid half : Nat) : State :=
  match (s.group? gid).bind fun g => (s.mwaitAgain g half).map fun e => (g, e) with
  | none => s
  | some (g, e) =>
    match e with
    | .done t => t
    | .wait _ t => t
    | .hold ask => ask s
    | .trap r => s.takeFault (g.setWait half .none) r
    | .trapImage r => s.takeFault (g.setWait half .none) r true
    | .trapAfter r image t => (s.translatedBy g.cu t).takeFault (g.setWait half .none) r image
    | .stall => s

/-- A sleeping MWAIT has more to do than to sleep on: it ends, faults, or asks for tokens. -/
def State.wakes (s : State) (g : Group) (half : Nat) : Bool :=
  match s.mwaitAgain g half with
  | none => false
  | some e =>
    match e with
    | .done t => (t.group? g.id).all fun h => match h.wait half with | .mwait _ _ _ _ => false | _ => true
    | .wait _ _ => false
    | .hold ask => (ask s).attempts != s.attempts || (ask s).ports != s.ports || (ask s).lines != s.lines
    | .stall => false
    | _ => true

/-- MWAIT_WAKE (R121): a write to a watched line, or a resume. -/
def execMwaitWake (g half : Nat) (s : State) : Host.Outcome State Fault Refusal := .next (s.recheckWait g half)
/-- MWAIT_TIMEOUT (R121): the timeout falls due; the values are checked first. -/
def execMwaitTimeout (g half : Nat) (s : State) : Host.Outcome State Fault Refusal := .next (s.recheckWait g half)

/-! ### SPAWN (R45, R46, R123) -/

/-- SPAWN: one record for each participant goes to the die launch unit; every issuing lane awaits a status. -/
def execSpawn (f : Fields) (s : State) : Host.Outcome State Fault Refusal :=
  plain (.spawn f) f (fun c s =>
    let rec' := fun i => (⟨i, c.a64 i, (List.range 4).map fun k => c.g.reg (f.srcb.toNat + k) i⟩ : ThreadRecord)
    .done (s.start c [f.dst.toNat] c.lanes (.spawn ((lanesOf c.parts).map rec') f.dst.toNat))) s

/-! ### Traps (R142) -/

/-- TRAP and BKPT: a fault where the instruction has a participant. -/
def codeTrap (code : Nat) (c : Ictx) (s : State) : Effect :=
  if c.parts == 0 then .done s else .trap (recordOf code c.parts c.addr 0 c.f.imm.toNat)

/-- TRAP (R142). -/
def execTrap (f : Fields) (s : State) : Host.Outcome State Fault Refusal := plain (.trap f) f (codeTrap fSoftwareTrap) s
/-- BKPT (R142). -/
def execBkpt (f : Fields) (s : State) : Host.Outcome State Fault Refusal := plain (.bkpt f) f (codeTrap fBreakpoint) s

/-- ASSERT (R142). -/
def execAssert (f : Fields) (s : State) : Host.Outcome State Fault Refusal :=
  plain (.assert f) f (fun c s =>
    let fails := maskOf fun i => c.parts.has i && c.a i == 0
    match lowest fails with
    | none => .done s
    | some i => .trap (recordOf fAssertFail fails c.addr (c.b64 i) i)) s

/-! ### Special registers (R125, R126) -/

/-- A special register's value in a lane (R125, R160). -/
def State.special (s : State) (g : Group) (i n : Nat) : DWord :=
  let num := fun x : Nat => BitVec.ofNat 64 x
  let team := s.team? g.team
  match n with
  | 0 => num (if g.fwd then i % 16 else i)
  | 1 => num (if g.fwd then 2 * g.index + i / 16 else g.index)
  | 2 => num ((team.map Team.number).getD 0)
  | 3 => num g.role
  | 4 => num (g.cu % 64)
  | 5 => num g.quad
  | 6 => num (g.cu % 64 / 8)
  | 7 => num (g.cu / 64)
  | 8 => num (((s.launchOf? g).map Launch.rank).getD 0)
  | 9 => num g.nregs
  | 10 => num (fieldOf s.devCap 0 32)
  | 11 => s.clock
  | 12 => num g.record.code.toNat
  | 13 => num g.record.lanes.toNat
  | 14 => num g.record.info.toNat
  | 15 => g.record.pc
  | 16 => g.record.addr
  | 17 => (g.lane i).savepc
  | 18 => num (if g.handler then 1 else 0)
  | 19 => num (if (team.map Team.spawn).getD false then 1 else 0)
  | _ => num ((team.map fun t => t.spos.getD (t.cuIndex g) 0).getD 0)

/-- The 64-bit special registers (R125). -/
def wideSpecial (n : Nat) : Bool := [11, 15, 16, 17].contains n

/-- GETSR (R126). -/
def execGetsr (f : Fields) (s : State) : Host.Outcome State Fault Refusal :=
  plain (.getsr f) f (fun c s =>
    let v := fun i => s.special c.g i f.srcc.toNat
    .done (s.writeResults c (if wideSpecial f.srcc.toNat then c.each64 v else c.each fun i => (v i).extractLsb' 0 32))) s

/-- SETSR (R126): `sr.savepc` is the one register that can be written. -/
def execSetsr (f : Fields) (s : State) : Host.Outcome State Fault Refusal :=
  plain (.setsr f) f (fun c s =>
    if !c.g.handler then .trap (handlerState c)
    else
      .done (s.modGroup c.g.id fun g =>
        { g with lanes := (List.range 32).map fun i =>
            if c.parts.has i then { g.lane i with save := Pos.target (c.a64 i) c.addr, setsr := true } else g.lane i })) s

/-! ### TRAPRET (R141) -/

/-- Lanes that TRAPRET returns. -/
def Group.returning (g : Group) : Mask := maskOf fun i => !(g.lane i).exited && (g.lane i).entered

/-- A half's wait goes on where every lane of it returns to the instruction at which it was saved. R140 and R141 say of the wait
of the half that did not fault neither that it ends at the handler's entry nor that it goes on (DESIGN CHOICE, log 61). -/
def Group.resumes (g : Group) (skip : Bool) (h : Nat) : Bool :=
  (lanesOf (g.returning &&& (if g.fwd then halfMask h else Mask.all))).all fun i =>
    !(g.lane i).setsr && !(skip && (g.lane i).savepc == g.record.pc && !noSkip g.record)

/-- The group after TRAPRET at `here` (R141): its lanes return, the waits of the handler end and its own go on, and it leaves
handler mode. -/
def Group.leaveHandler (g : Group) (skip : Bool) (here : DWord) : Group :=
  let g' := g.modLanes g.returning fun l => l.returnTo skip g.record here
  let g' := { g' with handler := false, saveWait0 := .none, saveWait1 := .none, saveSlot0 := 0, saveSlot1 := 0 }
  let back := fun (g' : Group) (h : Nat) (w : Wait) (k : Nat) =>
    if g.resumes skip h then g'.setWait h w k else g'.setWait h .none
  let g' := back g' 0 g.saveWait0 g.saveSlot0
  if g.fwd then back g' 1 g.saveWait1 g.saveSlot1 else g'

/-- TRAPRET (R26, R140, R141): a revocation that waits for it sends the group to its handler instead. -/
def trapretOwn (skip : Bool) (c : Ictx) (s : State) : Effect :=
  if !c.g.handler then .trap (handlerState c)
  else
    match c.g.redirect with
    | some r => .done (s.putGroup { ({ c.g with ops := ((s.group? c.g.id).map Group.ops).getD c.g.ops }).redirectTo r with handler := false })
    | none =>
      let g' := ((s.group? c.g.id).getD c.g).leaveHandler skip c.addr
      match s.escape g' c.addr c.g.returning with
      | some r => .trap r
      | none => (s.putGroup g').settled c.g.id 0

/-- TRAPRET.replay (R141). -/
def execTrapretReplay (f : Fields) (s : State) : Host.Outcome State Fault Refusal :=
  plain (.trapretReplay f) f (trapretOwn false) s
/-- TRAPRET.skip (R141). -/
def execTrapretSkip (f : Fields) (s : State) : Host.Outcome State Fault Refusal :=
  plain (.trapretSkip f) f (trapretOwn true) s

end Sys2Proof.Machine
end

