-- ==== Sys2Proof/Machine/Memory.lean ====
section
/-!
DEFINITION. Row 4 (18, R312 to R335): loads, stores, atomics, the synchronisation line, fences, monitors, prefetch, cache
control and page zeroing, up to their checks and the operation each leaves outstanding. What such an operation does when
it completes is in Complete.lean.
-/
namespace Sys2Proof.Machine

/-- The bytes of a type code (R314). -/
def typeSize (t : Nat) : Nat :=
  match t with
  | 0 => 1
  | 1 => 1
  | 2 => 2
  | 3 => 2
  | 4 => 4
  | 5 => 8
  | _ => 16

/-- A type code sign-extends. -/
def typeSigned (t : Nat) : Bool := t == 1 || t == 3

/-- The registers of an access of `z` bytes. -/
def regsOf (first z : Nat) : List Nat := (List.range (max 1 (z / 4))).map (first + ·)

/-- The bytes of an access of `z` bytes in a lane's registers. -/
def Ictx.dataOf (c : Ictx) (first z i : Nat) : List Byte :=
  ((List.range (max 1 (z / 4))).flatMap fun k => bytesOfNat 4 (c.g.reg (first + k) i).toNat).take z

/-- Virtual addresses of the participants, with an offset (R315). -/
def Ictx.vas (c : Ictx) (off : BitVec 8) (z : Nat) : List (Nat × DWord) :=
  (lanesOf c.parts).map fun i => (i, c.a64 i + BitVec.ofInt 64 (off.toInt * z))

/-- Scratchpad offsets of the participants (R315). -/
def Ictx.offs (c : Ictx) (off : BitVec 8) (z : Nat) : List (Nat × Nat) :=
  (lanesOf c.parts).map fun i => (i, (c.a i + BitVec.ofInt 32 (off.toInt * z)).toNat)

/-- Accesses to memory by lanes become outstanding (R312). -/
def laneAccess (z : Nat) (kind : AccessKind) (xs : Ictx → List (Nat × DWord)) (op : Ictx → Nat → AccessOp) (noL1 : Bool)
    (rets : List Nat) (c : Ictx) (s : State) (stream : Bool := false) : Effect :=
  if c.parts == 0 then .done s
  else
    match s.reach c z kind (xs c) (op c) noL1 rets stream with
    | .error r => s.faulted c.g r
    | .ok (accs, s) => .done (s.start c rets c.parts (.access (highestStores accs) []))

/-- Accesses to team scratchpad by lanes become outstanding. -/
def laneScratch (z : Nat) (write : Bool) (xs : Ictx → List (Nat × Nat)) (op : Ictx → Nat → AccessOp) (rets : List Nat)
    (c : Ictx) (s : State) : Effect :=
  if c.parts == 0 then .done s
  else
    match s.reachScratch c z write (xs c) (op c) rets with
    | .error r => s.faulted c.g r
    | .ok accs => .done (s.start c rets c.parts (.access (highestStores accs) []))

/-! ### Loads and stores (R317 to R321) -/

/-- LD (R317). -/
def execLd (f : Fields) (s : State) : Host.Outcome State Fault Refusal :=
  let z := typeSize f.srcc.toNat
  plain (.ld f) f (fun c s => laneAccess z .read (fun c => c.vas f.srcb z) (fun _ _ => .load z (typeSigned f.srcc.toNat))
    (low f.mod == 2) (regsOf f.dst.toNat z) c s (low f.mod == 1)) s

/-- ST (R318). -/
def execSt (f : Fields) (s : State) : Host.Outcome State Fault Refusal :=
  let z := typeSize f.srcc.toNat
  plain (.st f) f (fun c s => laneAccess z .write (fun c => c.vas f.dst z) (fun c i => .store (c.dataOf f.srcb.toNat z i))
    (low f.mod == 2) [] c s (low f.mod == 1)) s

/-- SPLD (R320). -/
def execSpld (f : Fields) (s : State) : Host.Outcome State Fault Refusal :=
  let z := typeSize f.srcc.toNat
  plain (.spld f) f (laneScratch z false (fun c => c.offs f.srcb z) (fun _ _ => .load z (typeSigned f.srcc.toNat))
    (regsOf f.dst.toNat z)) s

/-- SPST (R320). -/
def execSpst (f : Fields) (s : State) : Host.Outcome State Fault Refusal :=
  let z := typeSize f.srcc.toNat
  plain (.spst f) f (laneScratch z true (fun c => c.offs f.dst z) (fun c i => .store (c.dataOf f.srcb.toNat z i)) []) s

/-- LDP (R321): an offset below zero lies outside the block, as one at or beyond its size does (DEDUCED, log 28). -/
def execLdp (f : Fields) (s : State) : Host.Outcome State Fault Refusal :=
  let z := typeSize f.srcc.toNat
  plain (.ldp f) f (fun c s =>
    if c.parts == 0 then .done s
    else
      let xs := (lanesOf c.parts).map fun i =>
        (i, (BitVec.ofInt 64 ((c.a i).toNat + f.srcb.toInt * z)).toNat)
      match alignCheck c z xs with
      | some r => .trap r
      | none =>
        let accs := xs.map fun x =>
          (⟨x.1, BitVec.ofNat 64 x.2, .param x.2, .load z (typeSigned f.srcc.toNat), false, false, none,
            regsOf f.dst.toNat z, false⟩ : Access)
        .done (s.start c (regsOf f.dst.toNat z) c.parts (.access (accs.flatMap Access.pieces) []))) s

/-! ### Atomics (R322 to R324) -/

/-- The width of an atomic in bytes. -/
def atomSize (f : Fields) : Nat := if f.mod == 1 then 8 else 4

/-- A lane's operand of an atomic. -/
def Ictx.atomArg (c : Ictx) (first i : Nat) : BitVec 64 :=
  BitVec.ofNat 64 (natOfBytes (c.dataOf first (atomSize c.f) i))

/-- The operation of ATOM, RED and ATOMS in a lane. -/
def Ictx.atomOp (c : Ictx) (i : Nat) : AccessOp := .atom c.f.srcc.toNat (c.f.mod == 1) (c.atomArg c.f.srcb.toNat i)
/-- The operation of CAS and CASS in a lane. -/
def Ictx.casOp (c : Ictx) (i : Nat) : AccessOp :=
  .cas (c.f.mod == 1) (c.atomArg c.f.srcb.toNat i) (c.atomArg c.f.srcc.toNat i)

/-- ATOM (R322, R323). -/
def execAtom (f : Fields) (s : State) : Host.Outcome State Fault Refusal :=
  plain (.atom f) f (laneAccess (atomSize f) .readWrite (fun c => c.vas 0 1) Ictx.atomOp false
    (regsOf f.dst.toNat (atomSize f))) s
/-- RED (R322, R323). -/
def execRed (f : Fields) (s : State) : Host.Outcome State Fault Refusal :=
  plain (.red f) f (laneAccess (atomSize f) .readWrite (fun c => c.vas 0 1) Ictx.atomOp false []) s
/-- CAS (R324). -/
def execCas (f : Fields) (s : State) : Host.Outcome State Fault Refusal :=
  plain (.cas f) f (laneAccess (atomSize f) .readWrite (fun c => c.vas 0 1) Ictx.casOp false
    (regsOf f.dst.toNat (atomSize f))) s
/-- ATOMS (R322, R323). -/
def execAtoms (f : Fields) (s : State) : Host.Outcome State Fault Refusal :=
  plain (.atoms f) f (laneScratch (atomSize f) true (fun c => c.offs 0 1) Ictx.atomOp (regsOf f.dst.toNat (atomSize f))) s
/-- CASS (R324). -/
def execCass (f : Fields) (s : State) : Host.Outcome State Fault Refusal :=
  plain (.cass f) f (laneScratch (atomSize f) true (fun c => c.offs 0 1) Ictx.casOp (regsOf f.dst.toNat (atomSize f))) s

/-! ### Release, acquire and fence (R325 to R331) -/

/-- FENCE (R331): it raises no counter. -/
def execFence (f : Fields) (s : State) : Host.Outcome State Fault Refusal :=
  once (.fence f) f (fun c s => .done (s.start c [] 0 (.fence f.srcc.toNat (f.mod.toNat % 4)))) s

/-- The group operand's address as the access of the lowest participant (DEDUCED, log 45). -/
def Ictx.leadVa (c : Ictx) : List (Nat × DWord) := [(c.lead, c.a64 c.lead)]

/-- REL (R328): the signature is captured and reset at issue where the scope is TEAM or wider. -/
def execRel (f : Fields) (s : State) : Host.Outcome State Fault Refusal :=
  once (.rel f) f (fun c s =>
    let wide := f.mod.toNat % 4 != 0
    let add := f.mod.getLsbD 2
    let op := AccessOp.rel add (c.g.reg64 f.srcb.toNat c.lead) (if wide then some c.g.sig else none)
    match s.reach c 128 (if add then .readWrite else .write) c.leadVa (fun _ => op) true [] with
    | .error r => s.faulted c.g r
    | .ok (accs, s) =>
      let s := if wide then s.modGroup c.g.id fun g => { g with sig := 0 } else s
      .done (s.start c [] 0 (.access accs []))) s

/-- ACQ (R329): it reads VALUE, SAT and SIGNATURE. -/
def execAcq (f : Fields) (s : State) : Host.Outcome State Fault Refusal :=
  once (.acq f) f (fun c s =>
    match s.reach c 128 .read c.leadVa (fun _ => .rel true 0 (some 0)) true [] with
    | .error r => s.faulted c.g r
    | .ok (accs, s) =>
      match accs with
      | [⟨_, _, .mem pa, _, _, _, _, _, _⟩] =>
        .done (s.start c [f.dst.toNat, f.dst.toNat + 1] c.parts (.acquire pa (f.mod.toNat % 4) f.dst.toNat none))
      | _ => .done s) s

/-- An access's place moved on by `n` bytes. -/
def Access.shift (a : Access) (n : Nat) : Access :=
  match a.place with
  | .mem pa => { a with place := .mem (pa + n) }
  | _ => a

/-- SIGCLR (R330). -/
def execSigclr (f : Fields) (s : State) : Host.Outcome State Fault Refusal :=
  once (.sigclr f) f (fun c s =>
    match s.reach c 128 .write c.leadVa (fun _ => .sigClear) true [] with
    | .error r => s.faulted c.g r
    | .ok (accs, s) => .done (s.start c [] 0 (.access (accs.map fun a => a.shift 8) []))) s

/-! ### Monitors (R332) -/

/-- A monitor of a group. -/
def Group.monitor (g : Group) (k : Nat) : Monitor := g.monitors.getD k ⟨false, false, false, 0, 0, 0⟩
/-- Setting a monitor. -/
def Group.setMonitor (g : Group) (k : Nat) (m : Monitor) : Group := { g with monitors := g.monitors.set k m }

/-- A MARM whose effect is made at issue is outstanding in `oc.mem` until it completes (R312). -/
def State.marmed (s : State) (c : Ictx) : Effect := .done (s.start c [] 0 (.result [] []))

/-- MARM.arm: the word is checked at arming, past the L1 (R343). -/
def armOwn (wide : Bool) (c : Ictx) (s : State) : Effect :=
  let z := if wide then 8 else 4
  if c.ownAccess z c.leadVa s then .wait (.counter 0 0) s
  else
  match s.reach c z .read c.leadVa (fun _ => .load z false) true [] with
  | .error r => s.faulted c.g r
  | .ok (accs, s) =>
    let x := if wide then c.g.reg64 c.f.srcb.toNat c.lead else (c.g.reg c.f.srcb.toNat c.lead).setWidth 64
    match s.readsNow c.g accs [] with
    | .gone => .trapAfter (s.peerRecord c.parts c.addr) false s
    | .waits ask => .hold ask
    | .got vs s =>
      let differs := (vs.headD (0, 0)).2 != x.toNat
      let k := c.f.srcc.toNat % 4
      let s := s.modGroup c.g.id fun g =>
        g.setMonitor k ⟨true, differs, wide, c.f.srcc.toNat / 4 % 4, c.a64 c.lead, x⟩
      (s.writeResults c (c.each fun _ => if differs then 1 else 0)).marmed c

/-- MARM.arm (R332). -/
def execMarmArm (f : Fields) (s : State) : Host.Outcome State Fault Refusal := once (.marmArm f) f (armOwn false) s
/-- MARM.arm.b64 (R332). -/
def execMarmArmB64 (f : Fields) (s : State) : Host.Outcome State Fault Refusal := once (.marmArmB64 f) f (armOwn true) s

/-- The fired bits of a group's monitors. -/
def Group.firedBits (g : Group) : Word :=
  BitVec.ofNat 32 ((List.range 4).foldl (fun n k => if (g.monitor k).fired then n + 2 ^ k else n) 0)

/-- MARM.test (R332). -/
def execMarmTest (f : Fields) (s : State) : Host.Outcome State Fault Refusal :=
  once (.marmTest f) f (fun c s => (s.writeResults c (c.each fun _ => c.g.firedBits)).marmed c) s

/-- MARM.clr (R332). -/
def execMarmClr (f : Fields) (s : State) : Host.Outcome State Fault Refusal :=
  once (.marmClr f) f (fun c s => (s.modGroup c.g.id fun g =>
    let m := g.monitor (f.srcc.toNat % 4)
    g.setMonitor (f.srcc.toNat % 4) { m with armed := false, fired := false }).marmed c) s

/-- The bytes at a virtual address of a group's context as a scope sees them, where it translates for a read. -/
def State.seen (s : State) (g : Group) (scope : Nat) (va : DWord) (n : Nat) : Option Nat :=
  match s.contextOf? g with
  | none => none
  | some ctx =>
    match s.walk (dieOfCu g.cu) (s.walker ctx (some (portOfCu g.cu))) va .read with
    | .ok (t, _) => some (natOfBytes (s.peekAt g.cu scope (t.pa' va.toNat) n))
    | .error _ => none

/-- A monitor is to fire: it is armed and has not fired, and its word, as its scope sees it, differs from the expected value. -/
def State.monitorDue (s : State) (g : Group) (k : Nat) : Bool :=
  let m := g.monitor k
  m.armed && !m.fired &&
    match s.seen g m.scope m.va (if m.wide then 8 else 4) with
    | some v => v != m.expect.toNat
    | none => false

/-- MONITOR_FIRE (R332). -/
def execMonitorFire (gid k : Nat) (s : State) : Host.Outcome State Fault Refusal :=
  match s.group? gid with
  | none => .next s
  | some g =>
    if s.monitorDue g k then .next (s.putGroup (g.setMonitor k { g.monitor k with fired := true })) else .next s

/-! ### Prefetch, cache control and page zeroing (R333 to R335) -/

/-- The line at a lane's address is requested, or dropped without trace; so is one whose tokens would have to be waited for
(DESIGN CHOICE, log 12). -/
def State.prefetch (s : State) (g : Group) (l2 : Bool) (va : DWord) : State :=
  match s.contextOf? g with
  | none => s
  | some ctx =>
    if s.pageReqs.any fun q => q.asid == ctx.asid && q.va == va.toNat / 4096 * 4096 then s
    else
      match s.translate g.cu .data ctx va .read with
      | (.error _, _) => s
      | (.ok t, s') =>
        let line := t.pa' va.toNat / 128
        let count := ctx.counterOf t va.toNat
        let l2 := l2 || t.attr != 0
        let a : Access := ⟨0, va, .mem (128 * line), .load 128 false, l2, t.attr == 2, count, [], false⟩
        if (wordsOfLine line).any s.poisoned || s'.peerGone (128 * line)
            || s'.accessWaits g.cu ctx.asid (some (g.id, 0)) a (128 * line) false then s
        else
          let s := (wordsOfLine line).zipIdx.foldl (fun (s : State) w =>
            let n := if w.2 = 0 then count else none
            if l2 then (s.loadHome g.cu w.1 (t.attr == 2) n).2 else (s.loadL1 g.cu w.1 n false).2) s'
          s.accessDone ctx.asid (some (g.id, 0)) (s'.portsOf g.cu a (128 * line) false) (s'.requests g.cu a (128 * line) false)

/-- PREF (R333): it completes at issue. -/
def execPref (f : Fields) (s : State) : Host.Outcome State Fault Refusal :=
  plain (.pref f) f (fun c s => .done (foldState (lanesOf c.parts) (fun s i => s.prefetch c.g (f.mod == 1) (c.a64 i)) s)) s

/-- The lines of a CCTL, one after another. -/
def Ictx.lineVas (c : Ictx) : List (Nat × DWord) :=
  (List.range (c.f.srcc.toNat % 16 + 1)).map fun k => (c.lead, c.a64 c.lead + BitVec.ofNat 64 (128 * k))

/-- CCTL with an address: checks 1 and 3 with 128 bytes, needing no right beyond a valid leaf. -/
def cctlOwn (kind : List Nat → List DWord → OpKind) (c : Ictx) (s : State) : Effect :=
  match alignCheck c 128 (c.lineVas.map fun x => (x.1, x.2.toNat)) with
  | some r => .trap r
  | none =>
    match s.translateLanes c .any c.lineVas with
    | .error r => s.faulted c.g r
    | .ok (rs, s) => .done (s.start c [] 0 (kind (rs.map Reached.pa) (rs.map Reached.va)))

/-- CCTL.wb (R334). -/
def execCctlWb (f : Fields) (s : State) : Host.Outcome State Fault Refusal :=
  once (.cctlWb f) f (cctlOwn fun pas _ => .cacheWb pas) s
/-- CCTL.inv (R334). -/
def execCctlInv (f : Fields) (s : State) : Host.Outcome State Fault Refusal :=
  once (.cctlInv f) f (cctlOwn fun pas _ => .cacheInv pas) s
/-- CCTL.invall (R334). -/
def execCctlInvall (f : Fields) (s : State) : Host.Outcome State Fault Refusal :=
  once (.cctlInvall f) f (fun c s => .done (s.start c [] 0 .cacheInvAll)) s
/-- CCTL.iinv (R334). -/
def execCctlIinv (f : Fields) (s : State) : Host.Outcome State Fault Refusal :=
  once (.cctlIinv f) f (cctlOwn fun _ vas => .codeInv vas) s

/-- The lines of a PZERO's page, each zeroed by itself (R335). -/
def Access.zeroLines (a : Access) : List Access :=
  (List.range 32).map fun k => { a.shift (128 * k) with va := a.va + BitVec.ofNat 64 (128 * k) }

/-- PZERO (R335). -/
def execPzero (f : Fields) (s : State) : Host.Outcome State Fault Refusal :=
  once (.pzero f) f (fun c s =>
    match s.reach c 4096 .readWrite c.leadVa (fun _ => .zeroLine) true [] with
    | .error r => s.faulted c.g r
    | .ok (accs, s) => .done (s.start c [] 0 (.access (accs.flatMap Access.zeroLines) []))) s

end Sys2Proof.Machine
end

