-- ==== Sys2Proof/Machine/Complete.lean ====
section
/-!
DEFINITION. Completion: what outstanding operations do when they are performed, and the events that perform them:
MEMORY_ACCESS_COMPLETE, LONG_LATENCY_RESULT, MATRIX_ENGINE_START, MATRIX_COMPLETE, COPY_LAND and SPAWN_RECORD_ARRIVAL.
-/
namespace Sys2Proof.Machine

/-! ### Operations of a group (R22, R73, R77) -/

/-- An operation of a group. -/
def Group.op? (g : Group) (id : Nat) : Option Op := findId Op.id g.ops id
/-- Changing an operation. -/
def Group.modOp (g : Group) (id : Nat) (f : Op → Op) : Group := { g with ops := updId Op.id f g.ops id }

/-- Completed operations leave, those of one counter class in issue order (R22): `blocked` holds the classes with an
earlier operation that has not completed. -/
def retireOps : List Op → List (Option Nat) → List Op
  | [], _ => []
  | o :: os, blocked =>
    if o.done && (o.cls.isNone || !blocked.contains o.cls) then retireOps os blocked
    else o :: retireOps os (o.cls :: blocked)

/-- An operation completes: its registers are pending no longer, its slot and, in order, its counter fall, and a redirect
that waits for the drains writes its cause (R409). -/
def Group.finish (g : Group) (id : Nat) : Group :=
  let g := g.modOp id fun o => { o with done := true, pend := 0 }
  ({ g with ops := retireOps g.ops [] }).writeCause

/-- The completion of an operation counts as progress: that of a memory access, a copy or a collective (R449). -/
def Op.counts (o : Op) : Bool := o.cls == some 0 || o.cls == some 1 || o.cls == some 3

/-- The requests at ports of a group's operation are gone with it. -/
def State.leavePorts (s : State) (gid id : Nat) : State :=
  let other := fun q : PortRequest => q.work != some (gid, id)
  { s with ports := s.ports.filter other, grants := s.grants.filter other }

/-- A context makes progress, as its hang timer sees it (R449). -/
def State.progress (s : State) (gid : Nat) : State :=
  match s.group? gid with
  | none => s
  | some g => s.modContext (s.asidOf g) fun c => { c with lastProgress := s.now }

/-- Completion. -/
def State.finish (s : State) (gid id : Nat) : State :=
  let counts := ((s.group? gid).bind fun g => (g.op? id).map Op.counts).getD false
  let s := (s.modGroup gid fun g => g.finish id).leavePorts gid id
  if counts then s.progress gid else s

/-- Results of an operation reach their registers (R73, R74): all but those that a later instruction has written and that
have been read since; a later operation's results stand over those that earlier ones still owe. -/
def Group.land (g : Group) (id : Nat) (regs : List RegWrite) (forms : List FormWrite) : Group :=
  match g.op? id with
  | none => g
  | some o =>
    let rs := regs.filter fun w => !o.fixed.contains (regKey w.reg w.lane)
    let fs := forms.filter fun w => !o.fixed.contains (regKey (256 + w.reg) w.lane)
    let keys := (rs.map fun w => regKey w.reg w.lane) ++ fs.map fun w => regKey (256 + w.reg) w.lane
    { (g.writeRegs rs).writeForms fs with
      ops := overwritten keys (g.ops.takeWhile fun p => p.id != id) ++ g.ops.dropWhile fun p => p.id != id }

/-- The registers and lanes to which an operation's kind still owes a result; none where they are all those it began with. -/
def OpKind.owes (k : OpKind) : Option (List (Nat × Nat)) :=
  match k with
  | .result regs forms => some ((regs.map fun w => (w.reg, w.lane)) ++ forms.map fun w => (256 + w.reg, w.lane))
  | .access accs _ => some (accs.flatMap fun a => a.rets.map fun r => (r, a.lane))
  | .matrix regs image _ => some ((regs.map fun w => (w.reg, w.lane)) ++ image.flatMap fun a => a.rets.map fun r => (r, a.lane))
  | .acquire _ _ _ (some _) => some []
  | _ => none

/-- The pending registers of an operation, and the lanes in which they are, once some of its results have landed. -/
def Op.settle (o : Op) : Op :=
  match o.kind.owes with
  | none => o
  | some xs =>
    let xs := xs ++ o.late.map fun w => (w.reg, w.lane)
    let dsts := o.dsts.filter fun r => xs.any fun x => x.1 == r
    { o with dsts := dsts, pend := maskOf fun i => xs.any fun x => x.2 == i && dsts.contains x.1 }

/-- What an operation has still to do, and results that are there and not yet written, are something else. -/
def State.setOp (s : State) (gid id : Nat) (k : OpKind) (late : List RegWrite) : State :=
  s.modGroup gid fun g => g.modOp id fun o => { o with kind := k, late := late }.settle

/-- What an operation has still to do is something else. -/
def State.setKind (s : State) (gid id : Nat) (k : OpKind) : State :=
  s.modGroup gid fun g => g.modOp id fun o => { o with kind := k }.settle

/-- The lines of completed writes enter the group's signature (R326). -/
def State.enterLines (s : State) (gid : Nat) (lines : List Nat) : State :=
  s.modGroup gid fun g => { g with sig := lines.foldl (fun x l => x ||| sigBits l) g.sig }

/-- An operation of which nothing is left completes. -/
def State.close (s : State) (gid id : Nat) : State :=
  match (s.group? gid).bind fun g => g.op? id with
  | none => s
  | some o =>
    if o.done || !o.late.isEmpty then s
    else
      match o.kind with
      | .result [] [] => s.finish gid id
      | .access [] lines => (s.enterLines gid lines).finish gid id
      | .formLoad [] _ => s.finish gid id
      | _ => s

/-! ### LONG_LATENCY_RESULT (R73, R74) -/

/-- Of some results, those that a landing writes, and the others: those of the lanes of a mask, or, of no lane, one that a
free value names. -/
def pickResults (m : Mask) (n : Nat) (regs : List RegWrite) (forms : List FormWrite) :
    (List RegWrite × List FormWrite) × List RegWrite × List FormWrite :=
  if m != 0 then
    ((regs.filter fun w => m.has w.lane, forms.filter fun w => m.has w.lane),
      regs.filter fun w => !m.has w.lane, forms.filter fun w => !m.has w.lane)
  else
    let k := n % (regs.length + forms.length)
    if k < regs.length then (((regs.drop k).take 1, []), regs.eraseIdx k, forms)
    else (([], (forms.drop (k - regs.length)).take 1), regs, forms.eraseIdx (k - regs.length))

/-- An ADECK takes its effect on the Deck; its results are known from then on (R247, R248). -/
def State.deckTakes (s : State) (g : Group) (o : Op) : State :=
  match o.kind with
  | .deck mod b dst =>
    let r := s.deckEffect g mod b dst o.pend
    r.2.setOp g.id o.id (.result r.1 []) o.late
  | _ => s

/-- Results land in the lanes of a mask, or one of them in one lane; the last completes the instruction. Of an ADECK, its
effect comes first, by itself where no lane is named. -/
def State.landResult (s : State) (gid id : Nat) (m : Mask) : State :=
  match (s.group? gid).bind fun g => (g.op? id).map fun o => (g, o) with
  | none => s
  | some (g, o) =>
    if o.done then s
    else
      let n := Config.piece s.draws
      let late := fun s : State =>
        let x := pickResults m n o.late []
        ((s.modGroup gid fun g => g.land id x.1.1 []).setOp gid id o.kind x.2.1).close gid id
      match o.kind with
      | .deck mod b dst =>
        if m == 0 then s.deckTakes g o
        else
          let r := s.deckEffect g mod b dst o.pend
          let x := pickResults m n r.1 []
          ((r.2.modGroup gid fun g => g.land id x.1.1 []).setOp gid id (.result x.2.1 []) []).close gid id
      | .result regs forms =>
        let x := pickResults m n (regs ++ o.late) forms
        ((s.modGroup gid fun g => g.land id x.1.1 x.1.2).setOp gid id (.result x.2.1 x.2.2) []).close gid id
      | .matrix regs image true =>
        if m != 0 then s
        else if n % (regs.length + image.length) < regs.length then
          let x := pickResults 0 n regs []
          (s.modGroup gid fun g => g.land id x.1.1 []).setOp gid id (.matrix x.2.1 image true) o.late
        else
          let k := n % (regs.length + image.length) - regs.length
          match image[k]? with
          | none => s
          | some a =>
            let r := s.performAt g a false
            (r.2.modGroup gid fun g => g.land id (a.results r.1) []).setOp gid id (.matrix regs (image.eraseIdx k) true) o.late
      | _ => late s

/-- LONG_LATENCY_RESULT (R73, R74). -/
def execLongLatencyResult (g op : Nat) (lanes : BitVec 32) (s : State) : Host.Outcome State Fault Refusal :=
  .next (s.landResult g op lanes)

/-! ### Accesses (R312, R323, R401, R402) -/

/-- An access has a place in a hold buffer. -/
def State.isHeld (s : State) (gid id lane pa : Nat) : Bool :=
  s.held.any fun h => h.writer == .group gid id lane && h.place == pa

/-- What came of an attempt: performed, with what stood there before each of its operations, or kept. -/
inductive Attempted where
  | performed (old : List (List Byte)) (s : State)
  | kept (s : State)

/-- Accesses to one place performed one after another. -/
def State.performAll (s : State) (g : Group) (home : Bool) : List Access → List (List Byte) × State
  | [] => ([], s)
  | a :: as =>
    let r := s.performAt g a home
    let x := r.2.performAll g home as
    (r.1 :: x.1, x.2)

/-- A position that an access of a group reaches holds no module that can be reached: the context ends with LINK_FAILURE (R19,
R470). -/
def State.unreached (s : State) (g : Group) (id : Nat) (lanes : Mask) : State :=
  s.beginEndOf (s.asidOf g) g (s.peerRecord lanes (((g.op? id).map Op.pc).getD 0))

/-- A release is made only once every registration that its CU has sent is accepted (R328): the state once they are; none where
one of them waits. -/
def State.released (s : State) (c : Nat) (ops : List AccessOp) : Option State :=
  if ops.any fun op => match op with | .rel _ _ (some _) => true | _ => false then s.settleSent c else some s

/-- Accesses of an instruction to one place are performed, or kept: held where a watch filter catches them, waiting where
they stand behind a held write of their word (R401, R402), or for tokens, a port, or acknowledgements (R310, R328, R370).
`n` is where they stand among those of their operation. -/
def State.attempt (s : State) (g : Group) (id n : Nat) (cl : List Access) (bad : List Nat) (home : Bool) : Attempted :=
  match cl with
  | [] => .performed [] s
  | a :: more =>
    match a.place with
    | .mem pa =>
      let ops := cl.map Access.op
      let asid := s.asidOf g
      let work := some (g.id, id)
      if s.isHeld g.id id n pa then .kept s
      else if s.peerGone pa then .kept (s.unreached g id (maskOf fun i => cl.any fun b => b.lane == i))
      else
        match s.released g.cu ops with
        | none => .kept (s.demandSent g.cu)
        | some s =>
          if s.caughtAny pa a.op.size ops then
            .kept (s.hold (.group g.id id n) pa a.op (more.map fun b => (b.lane, b.op)) a.noL1 bad)
          else if writesAny ops (s.peek pa a.op.size) && s.behindHeld pa a.op.size then .kept s
          else if s.accessWaits g.cu asid work a pa home then .kept (s.demandAll g.cu asid work a pa home)
          else
            let r := s.performAll g home cl
            .performed r.1 (r.2.accessDone asid work (s.portsOf g.cu a pa home) (s.requests g.cu a pa home))
    | _ =>
      let r := s.performAll g home cl
      .performed r.1 r.2

/-- The operation is an atomic instruction's (R323). -/
def together (a : Access) : Bool :=
  match a.op with
  | .atom _ _ _ => true
  | .cas _ _ _ => true
  | _ => false

/-- The accesses of an operation by what is performed at once: an atomic instruction's operations on one word, in ascending
lane order (R323), and else single accesses. -/
def clusters (accs : List Access) : List (List Access) :=
  accs.foldl (fun cs a =>
    if together a && cs.any (fun c => c.any fun b => b.place == a.place) then
      cs.map fun c => if c.any fun b => b.place == a.place then c ++ [a] else c
    else cs ++ [[a]]) []

/-- The results of a cluster. -/
def clusterResults (cl : List Access) (old : List (List Byte)) : List RegWrite :=
  (cl.zip old).flatMap fun x => x.1.results x.2

/-- Clusters of an operation are attempted in order; the accesses of those kept remain. The results land at once, or wait to
be written. -/
def State.attemptAll (s : State) (gid id : Nat) (now : Bool) :
    List (List Access) → List Access → List Nat → List RegWrite → List Access × List Nat × List RegWrite × State
  | [], kept, lines, late => (kept, lines, late, s)
  | cl :: cls, kept, lines, late =>
    match s.group? gid with
    | none => (kept, lines, late, s)
    | some g =>
      match s.attempt g id ((cl.head?.map Access.lane).getD 0) cl [] false with
      | .kept s => s.attemptAll gid id now cls (kept ++ cl) lines late
      | .performed old s =>
        let rs := clusterResults cl old
        let s := if now then s.modGroup gid fun g => g.land id rs [] else s
        s.attemptAll gid id now cls kept (lines ++ cl.flatMap Access.lines) (if now then late else late ++ rs)

/-- The accesses of an operation are what is left; when none is, and no result is to be written, the operation completes. -/
def State.leave (s : State) (gid id : Nat) (accs : List Access) (lines : List Nat) (late : List RegWrite) : State :=
  (s.setOp gid id (.access (dropCovered accs) lines) late).close gid id

/-- A CU's L1 loses every valid shared-page word that is not registered to it and whose line a test selects. -/
def State.fullInvalidation (s : State) (g : Group) : State := s.invalidateL1 g.cu fun _ => true

/-- The read of an ACQ. -/
def acquireAccess (pa : Nat) : Access := ⟨0, 0, .mem pa, .load 128 false, true, false, none, [], false⟩

/-- The values that an ACQ's read gives to the lanes of a mask. -/
def acquireRegs (dst : Nat) (m : Mask) (bs : List Byte) : List RegWrite :=
  let x := natOfBytes bs
  (lanesOf m).flatMap fun i => [⟨dst, i, BitVec.ofNat 32 x⟩, ⟨dst + 1, i, BitVec.ofNat 32 (x / 2 ^ 32)⟩]

/-- The invalidation of an ACQ that has read the line's bytes (R329). -/
def State.acquireDrops (s : State) (g : Group) (scope : Nat) (bs : List Byte) : State :=
  let x := natOfBytes bs
  let sig := BitVec.ofNat 512 (x / 2 ^ 128)
  if scope = 0 then s else s.invalidateL1 g.cu fun l => x.testBit 64 || sigHit sig l

/-- ACQ goes on (R329): it reads the line, then invalidates, and writes its register at any time after the read. Its parts
come one by one where `step` holds, and else all that is left of it. -/
def State.acquire (s : State) (g : Group) (o : Op) (pa scope dst : Nat) (read : Option (List Byte)) (step : Bool) : State :=
  let finish := fun (s : State) (bs : List Byte) (late : List RegWrite) =>
    if step then (s.acquireDrops g scope bs).setOp g.id o.id (.result late []) []
    else (((s.acquireDrops g scope bs).modGroup g.id fun g => g.land o.id late []).setOp g.id o.id (.result [] []) []).close
      g.id o.id
  match read with
  | some bs => finish s bs o.late
  | none =>
    let a := acquireAccess pa
    match s.attempt g o.id 0 [a] [] false with
    | .kept s => s
    | .performed old s =>
      let bs := old.headD []
      let late := acquireRegs dst o.pend bs
      if step then s.setOp g.id o.id (.acquire pa scope dst (some bs)) late else finish s bs late

/-- A CCTL's effect (R334). -/
def State.cacheOp (s : State) (g : Group) (k : OpKind) : State :=
  match k with
  | .cacheWb pas => pas.foldl (fun s pa => (wordsOfLine (pa / 128)).foldl (fun (s : State) w =>
      if s.isPrivate g.cu (w / 1024) then s.writeBack g.cu w else s) s) s
  | .cacheInv pas => s.modCu g.cu fun c =>
      { c with l1 := invalidWords (fun w => pas.any fun pa => w / 32 == pa / 128) c.l1 }
  | .cacheInvAll => s.fullInvalidation g
  | .codeInv vas =>
    let asid := s.asidOf g
    let here := (s.groups.filter fun h => s.asidOf h == asid).map Group.cu
    { s with cus := s.cus.map fun x =>
        if here.contains x.1 then
          (x.1, { x.2 with lines := x.2.lines.filter fun l => !(l.asid == asid && vas.any fun va => va.toNat / 128 == l.va) })
        else x }
  | _ => s

/-! ### The matrix engine (R263, R267) -/

/-- The engine starts the instruction at the head of its queue. -/
def State.engineStart (s : State) (c : Nat) : State :=
  match (s.cu c).matrixQueue with
  | [] => s
  | (gid, id) :: _ =>
    s.modGroup gid fun g => g.modOp id fun o =>
      match o.kind with
      | .matrix regs image _ => { o with kind := .matrix regs image true }
      | _ => o

/-- A started instruction writes what is left of its results and of its image, and completes. -/
def State.engineComplete (s : State) (c : Nat) : State :=
  match (s.cu c).matrixQueue with
  | [] => s
  | (gid, id) :: rest =>
    let pop := fun s : State => s.modCu c fun k => { k with matrixQueue := rest }
    match (s.group? gid).bind fun g => (g.op? id).map fun o => (g, o) with
    | none => pop s
    | some (g, o) =>
      match o.kind with
      | .matrix regs image true =>
        let r := s.performAll g false image
        pop (((r.2.modGroup gid fun g => g.land id (regs ++ clusterResults image r.1) []).setOp gid id (.matrix [] [] true)
          []).finish gid id)
      | _ => s

/-- MATRIX_ENGINE_START (R263, R267). -/
def execMatrixEngineStart (cu : Nat) (s : State) : Host.Outcome State Fault Refusal := .next (s.engineStart cu)
/-- MATRIX_COMPLETE (R262, R267). -/
def execMatrixComplete (cu : Nat) (s : State) : Host.Outcome State Fault Refusal := .next (s.engineComplete cu)

/-! ### Copies and collectives (R289 to R297) -/

/-- The bytes of a move's source, and those of them that are poisoned. -/
def State.moveSource (s : State) (g : Group) (image : List Byte) (bad : List Nat) (m : Move) :
    List Byte × List Nat × State :=
  match m.src with
  | .mem pa =>
    let poisoned := (List.range m.size).filter fun k => s.poisoned ((pa + k) / 4)
    let r := s.readMem g.cu ⟨0, 0, m.src, .load m.size false, true, m.srcHome, m.srcCount, [], false⟩ pa m.size
    (r.1, poisoned, r.2)
  | .scratch t i off =>
    let words := s.scratchPoisoned t i off m.size
    (s.scratchBytes t i off m.size,
      (List.range m.size).filter fun k => words.contains ((2 ^ 20 * i + off + k) / 4), s)
  | .param off => ((image.drop off).take m.size, (bad.filter fun k => off ≤ k && k < off + m.size).map (· - off), s)

/-- Words that poisoned bytes feed become poisoned (R289). -/
def State.feedPoison (s : State) (p : Place) (bad : List Nat) : State :=
  match p with
  | .mem pa => bad.foldl (fun s k => s.poisonWord ((pa + k) / 4)) s
  | .scratch t i off => s.modTeam t fun tm =>
      { tm with poison := bad.foldl (fun l k => insertNew ((2 ^ 20 * i + off + k) / 4) l) tm.poison }
  | .param _ => s

/-- What a move writes. -/
def MoveOp.write (op : MoveOp) (bs : List Byte) : AccessOp :=
  match op with
  | .add e => .addTo e bs
  | _ => .store bs

/-- The accesses that a move makes to memory: its reads, and what it writes at its home (R289). -/
def Move.accesses (m : Move) (op : MoveOp) : List Access :=
  (match m.src with
    | .mem _ => [⟨m.n, 0, m.src, .load m.size false, true, m.srcHome, m.srcCount, [], false⟩]
    | _ => [])
  ++ (match op, m.dst with
    | .fetch, _ => []
    | _, .mem _ => [⟨m.n, 0, m.dst, .store (List.replicate m.size 0), true, m.dstHome, m.dstCount, [], false⟩]
    | _, _ => [])

/-- An access of a copy with its physical address. -/
def Access.pa? (a : Access) : Nat :=
  match a.place with
  | .mem pa => pa
  | _ => 0

/-- The accesses of moves that are performed together. -/
def movesAccesses (op : MoveOp) (ms : List Move) : List Access := ms.flatMap fun m => m.accesses op

/-- The ports that accesses of a copy come to. -/
def State.movesPorts (s : State) (g : Group) (as : List Access) : List Nat := as.flatMap fun a => s.portsOf g.cu a a.pa? true

/-- Moves that are performed together wait: for a reclassification, for tokens, for room, or at a port. -/
def State.movesWait (s : State) (g : Group) (id : Nat) (op : MoveOp) (ms : List Move) : Bool :=
  let as := movesAccesses op ms
  (as.any fun a => s.tokensWait g.cu a a.pa? true)
    || (s.passPorts (s.asidOf g) (some (g.id, id)) (s.movesPorts g as)).isNone

/-- What moves wait for is asked for. -/
def State.movesDemand (s : State) (g : Group) (id : Nat) (op : MoveOp) (ms : List Move) : State :=
  let as := movesAccesses op ms
  let asid := s.asidOf g
  let work := some (g.id, id)
  if as.any fun a => s.tokensWait g.cu a a.pa? true then
    (as.filter fun a => s.tokensWait g.cu a a.pa? true).foldl (fun (s : State) a => s.demandAll g.cu asid work a a.pa? true) s
  else s.waitPorts s asid work (s.movesPorts g as)

/-- Moves that are performed together go to a position that holds no module that can be reached (R19). -/
def State.movesGone (s : State) (op : MoveOp) (ms : List Move) : Bool := (movesAccesses op ms).any fun a => s.peerGone a.pa?

/-- The accesses of moves that were performed in the state `before` are over. -/
def State.movesDone (s before : State) (g : Group) (id : Nat) (op : MoveOp) (ms : List Move) : State :=
  (movesAccesses op ms).foldl (fun (s : State) a => s.accessDone (s.asidOf g) (some (g.id, id))
    (before.portsOf g.cu a a.pa? true) (before.requests g.cu a a.pa? true)) s

/-- The bytes at a place as the newest of memory or scratchpad. -/
def State.bytesAt (s : State) (p : Place) (n : Nat) : List Byte :=
  match p with
  | .mem pa => s.peek pa n
  | .scratch t i off => s.scratchBytes t i off n
  | .param _ => []

/-- A place has poison among its words. -/
def State.placePoisoned (s : State) (p : Place) (n : Nat) : Bool :=
  match p with
  | .mem pa => (wordsOf pa n).any s.poisoned
  | .scratch t i off => !(s.scratchPoisoned t i off n).isEmpty
  | .param _ => false

/-- Bytes cut as the runs of some moves are. -/
def cutAs (bs : List Byte) : List Move → List (List Byte)
  | [] => []
  | m :: ms => bs.take m.size :: cutAs (bs.drop m.size) ms

/-- What some moves, performed together, write, and which bytes of each are poisoned. An element of CPYR that lies across a
page bound is added as a whole, and its two parts are stored; an element is poisoned as a whole (R289, R294). -/
def State.movesWrite (s : State) (op : MoveOp) (ms : List Move) (src : List (List Byte × List Nat)) :
    List (AccessOp × List Nat) :=
  match op with
  | .add e =>
    let bad := src.any (fun x => !x.2.isEmpty) || ms.any fun m => s.placePoisoned m.dst m.size
    let all := fun m : Move => if bad then List.range m.size else []
    match ms with
    | [m] => [(.addTo e ((src.map Prod.fst).flatten), all m)]
    | _ =>
      let old := (ms.map fun m => s.bytesAt m.dst m.size).flatten
      let new := ((AccessOp.addTo e ((src.map Prod.fst).flatten)).after old).getD old
      (cutAs new ms).zip ms |>.map fun x => (.store x.1, all x.2)
  | _ => src.map fun x => (.store x.1, x.2)

/-- The access that writes a move's destination. -/
def Move.writes (m : Move) (op : AccessOp) : Access := ⟨m.n, 0, m.dst, op, true, m.dstHome, m.dstCount, [], false⟩

/-- The writes of moves that are performed together are kept by the registry: one is caught, or stands behind a held write
(R401, R402). -/
def State.writesKept (s : State) (as : List Access) : Bool :=
  as.any fun a => match a.place with
    | .mem pa => s.caught pa a.op || s.behindHeld pa a.op.size
    | _ => false

/-- The moves of one unit are performed, or kept; `false` where they are kept. -/
def State.runUnit (s : State) (g : Group) (id : Nat) (op : MoveOp) (image : List Byte) (bad : List Nat) (ms : List Move) :
    Bool × List Nat × State :=
  if ms.any fun m => match m.dst with | .mem pa => s.isHeld g.id id m.n pa | _ => false then (false, [], s)
  else if s.movesGone op ms then (false, [], s.unreached g id 0)
  else if s.movesWait g id op ms then (false, [], s.movesDemand g id op ms)
  else
    let before := s
    let r := ms.foldl (fun (acc : List (List Byte × List Nat) × State) m =>
      let x := acc.2.moveSource g image bad m
      (acc.1 ++ [(x.1, x.2.1)], x.2.2)) ([], s)
    let s := r.2
    let ended := fun s : State => s.movesDone before g id op ms
    match op with
    | .fetch => (true, [], ended s)
    | _ =>
      let s := ms.foldl (fun (s : State) m => match m.dst with
        | .mem pa => s.bringHome g.cu (m.writes (.store [])) pa m.size
        | _ => s) s
      let ws := s.movesWrite op ms r.1
      let as := (ms.zip ws).map fun x => x.1.writes x.2.1
      if s.writesKept as then
        (false, [], ((as.zip ws).filter fun x => 1 < ms.length || s.caught x.1.pa? x.1.op).foldl (fun (s : State) x =>
          s.hold (.group g.id id x.1.lane) x.1.pa? x.1.op [] true x.2.2) s)
      else
        let s := (as.zip ws).foldl (fun (s : State) x => ((s.performAt g x.1 true).2).feedPoison x.1.place x.2.2) s
        (true, as.flatMap Access.lines, ended s)

/-- Words that some moves, performed together and none of whose bytes there is poisoned, have written in full lose their
poison, though no single one covers them (R308). -/
def State.cureWhole (s before : State) (g : Group) (image : List Byte) (bad : List Nat) (op : MoveOp) (ms : List Move) : State :=
  match op with
  | .copy _ =>
    let fed := ms.map fun m => (m, (before.moveSource g image bad m).2.1)
    let clean := fun p : Place => fed.any (fun x => x.1.dst.meets x.1.size p 1)
      && fed.all fun x => x.2.all fun k => !(x.1.dst.shift k).meets 1 p 1
    let s := { s with poison := s.poison.filter fun w => !((List.range 4).all fun k => clean (.mem (4 * w + k))) }
    s.modTeam g.team fun t => { t with poison := t.poison.filter fun w =>
      !((List.range 4).all fun k => clean (.scratch g.team (4 * w / 2 ^ 20) (4 * w % 2 ^ 20 + k))) }
  | _ => s

/-- The moves of a copy, one unit after another; those kept remain. -/
def State.runMoves (s : State) (gid id : Nat) (op : MoveOp) (image : List Byte) (bad : List Nat) :
    List (List Move) → List Move → List Nat → List Move × List Nat × State
  | [], kept, lines => (kept, lines, s)
  | ms :: rest, kept, lines =>
    match s.group? gid with
    | none => (kept, lines, s)
    | some g =>
      let r := s.runUnit g id op image bad ms
      r.2.2.runMoves gid id op image bad rest (if r.1 then kept else kept ++ ms) (lines ++ r.2.1)

/-- A copy's image lies in team scratchpad, where it writes whole words (R293). -/
def toScratch (ms : List Move) : Bool := ms.any fun m => match m.dst with | .scratch _ _ _ => true | _ => false

/-- All the moves that are left of a copy are performed, as far as they can be. An image in team scratchpad is written only
when all of it can be, so that no word of it is written in part. -/
def State.moveAll (s : State) (gid id : Nat) (op : MoveOp) (image : List Byte) (bad : List Nat) (ms : List Move)
    (lines : List Nat) : List Move × List Nat × State :=
  match s.group? gid with
  | none => (ms, lines, s)
  | some g =>
    if toScratch ms && s.movesWait g id op ms then (ms, lines, s.movesDemand g id op ms)
    else
      let r := s.runMoves gid id op image bad (unitsOf op.grain ms) [] lines
      (r.1, r.2.1, r.2.2.cureWhole s g image bad op (ms.filter fun m => !r.1.contains m))

/-- The number under which a copy's counter decrement stands among its writes. -/
def counterAt : Nat := 2 ^ 20

/-- The decrement of a memory counter, as a release of the lines that the copy wrote (R291). -/
def counterAccess (va : DWord) (pa : Nat) (lines : List Nat) : Access :=
  ⟨counterAt, va, .mem pa, .rel true 0xFFFFFFFFFFFFFFFF#64 (some (lines.foldl (fun x l => x ||| sigBits l) 0)), true,
    false, none, [], false⟩

/-- A copy lands (R290): its lines enter the signature, its tag is set or its ring slot receives an arrival, and it
completes. -/
def State.landed (s : State) (g : Group) (id : Nat) (lines : List Nat) (target : Target) : State :=
  let s := s.enterLines g.id lines
  let s := match target with
    | .tag k => s.modTeam g.team fun t =>
        { t with tags := t.tags.set (t.cuIndex g) (t.tags.getD (t.cuIndex g) 0 ||| (1#64 <<< k)) }
    | .ring r k => s.arriveRing g r k
    | _ => s
  s.finish g.id id

/-- A copy that has moved every byte lands; with a counter target it does so when the decrement is performed. -/
def State.landTarget (s : State) (gid id : Nat) (lines : List Nat) (target : Target) : State :=
  match s.group? gid with
  | none => s
  | some g =>
    match target with
    | .counter va pa =>
      match s.attempt g id counterAt [counterAccess va pa lines] [] true with
      | .kept s => s
      | .performed _ s => s.landed g id lines target
    | _ => s.landed g id lines target

/-- A collective's result and its poisoned bytes, once it is there. -/
def State.collImage (s : State) (asid : Nat) (c : CollState) : Option (List Byte × List Nat) :=
  match c.image with
  | some i => some (i, c.bad)
  | none => s.collResult asid c

/-- A collective that is over keeps nothing of what its peers have sent (R297). -/
def State.forget (s : State) (gid id asid coll : Nat) : State :=
  if ((s.group? gid).bind fun g => (g.op? id).filter fun o => !o.done).isSome then s
  else { s with peerData := s.peerData.filter fun p => !(p.asid == asid && p.coll == coll) }

/-- The elements of a collective, as those of a copy. -/
def CollState.op (c : CollState) : MoveOp := .copy (max 1 (halfBytes c.element / 2))

/-- An image with bytes replaced from the byte `k` on. -/
def patch (l : List Byte) (k : Nat) (bs : List Byte) : List Byte := l.take k ++ bs ++ l.drop (k + bs.length)

/-- Runs of a collective's source are read into its image one after another, as far as they can be; those that wait remain
(R289, R296). -/
def State.readRuns (s : State) (g : Group) (id : Nat) (c : CollState) : List Move → CollState × State
  | [] => (c, s)
  | m :: ms =>
    let keep := fun (s : State) => s.readRuns g id { c with src := c.src ++ [m] } ms
    if s.movesGone c.op [m] then keep (s.unreached g id 0)
    else if s.movesWait g id c.op [m] then keep (s.movesDemand g id c.op [m])
    else
      let r := s.moveSource g [] [] m
      (r.2.2.movesDone s g id c.op [m]).readRuns g id
        { c with sent := patch c.sent m.imageAt r.1, bad := c.bad ++ r.2.1.map (m.imageAt + ·) } ms

/-- A collective reads some runs of its source; once it has read the last, it sends what goes over Ethernet (R58, R471). -/
def State.readSource (s : State) (g : Group) (id : Nat) (c : CollState) (now rest : List Move) : CollState × State :=
  let r := s.readRuns g id { c with src := rest } now
  (r.1, if r.1.src.isEmpty then r.2.sendPackets (s.asidOf g) c.pods c.sent.length else r.2)

/-- A copy or collective moves what it can, and lands when nothing is left. -/
def State.copyComplete (s : State) (gid id : Nat) : State :=
  match (s.group? gid).bind fun g => (g.op? id).map fun o => (g, o) with
  | none => s
  | some (g, o) =>
    if o.done then s
    else
      match o.kind with
      | .copy moves op lines target =>
        let r := s.moveAll gid id op [] [] moves lines
        let s := r.2.2.setKind gid id (.copy r.1 op r.2.1 target)
        if r.1.isEmpty then s.landTarget gid id r.2.1 target else s
      | .coll c target =>
        let asid := s.asidOf g
        let x := if c.src.isEmpty then (c, s) else s.readSource g id c c.src []
        let c := x.1
        let s := x.2.setKind gid id (.coll c target)
        match s.collImage asid c with
        | none => s
        | some (image, bad) =>
          let r := s.moveAll gid id c.op image bad c.dst c.lines
          let s := r.2.2.setKind gid id (.coll { c with image := some image, bad := bad, dst := r.1, lines := r.2.1 } target)
          if r.1.isEmpty then (s.landTarget gid id r.2.1 target).forget gid id asid c.collId else s
      | _ => s

/-- COPY_LAND (R290). -/
def execCopyLand (g op : Nat) (s : State) : Host.Outcome State Fault Refusal := .next (s.copyComplete g op)

/-! ### MEMORY_ACCESS_COMPLETE (R312, R318, R319, R323) -/

/-- The accesses of a cluster of an operation keep their order behind earlier ones, and so do the stores that they cover
(R78, R318). -/
def State.clusterTurn (s : State) (g : Group) (id : Nat) (accs cl : List Access) : Bool :=
  cl.all (s.inTurn g id) && (accs.filter fun b => b.isCovered && cl.any fun a => a.place == b.place).all (s.inTurn g id)

/-- The accesses of an operation are made in the lanes of a mask, and their results land; of no lane, one is made that a free
value names, and its results wait to be written (R74, R237, R319). -/
def State.accessLanes (s : State) (g : Group) (o : Op) (accs : List Access) (lines : List Nat) (m : Mask) : State :=
  let cls := (clusters (accs.filter fun a => !a.isCovered)).filter (s.clusterTurn g o.id accs)
  let now := if m == 0 then (choose cls (Config.piece s.draws)).toList else cls.filter fun cl => cl.any fun a => m.has a.lane
  let flat := now.flatten
  let r := s.attemptAll g.id o.id (m != 0) now [] lines o.late
  r.2.2.2.leave g.id o.id ((accs.filter fun a => !flat.contains a) ++ r.1) r.2.1 r.2.2.1

/-- The whole record that a lane has read (R237). -/
def wholeRecord (read : List RecordRead) (lane : Nat) : List Byte :=
  (List.range 8).flatMap fun k =>
    ((read.find? fun r => r.lane == lane && r.off == 8 * k).map RecordRead.bytes).getD []

/-- The 8-byte words of records are read in the lanes of a mask, or of no lane one of them, and the lanes of which none is
left receive their forms (R237). -/
def State.recordLanes (s : State) (g : Group) (o : Op) (accs : List Access) (read : List RecordRead) (m : Mask) : State :=
  let turn := accs.filter (s.inTurn g o.id)
  let now := if m == 0 then (choose turn (Config.piece s.draws)).toList else turn.filter fun a => m.has a.lane
  let r := now.foldl (fun (acc : List Access × List RecordRead × State) a =>
    match acc.2.2.attempt g o.id a.lane [a] [] false with
    | .kept s => (acc.1 ++ [a], acc.2.1, s)
    | .performed old s => (acc.1, acc.2.1 ++ [⟨a.lane, a.va.toNat % 64, old.headD []⟩], s)) ([], read, s)
  let rest := (accs.filter fun a => !now.contains a) ++ r.1
  let done := o.pend &&& maskOf fun i => rest.all fun a => a.lane != i
  let forms : List FormWrite := o.dsts.flatMap fun d =>
    (lanesOf done).map fun i => ⟨d - 256, i, formOf (natOfBytes (wholeRecord r.2.1 i))⟩
  ((r.2.2.modGroup g.id fun g => (g.land o.id [] forms).modOp o.id fun p =>
    { p with kind := .formLoad rest r.2.1, pend := p.pend &&& ~~~done })).close g.id o.id

/-- One unit of a copy or collective is moved, and the rest stays; the last one is left to the landing, and so is what the
registry keeps back, or what a word would need to lose its poison (R293, R294, R299, R308) (DESIGN CHOICE, log 7). -/
def State.copyPiece (s : State) (g : Group) (id : Nat) (moves : List Move) (op : MoveOp) (image : List Byte) (bad : List Nat)
    (kind : List Move → List Nat → OpKind) : State :=
  let n := Config.piece s.draws
  match choose moves n with
  | none => s
  | some m =>
    let u := m.unit op (n / moves.length % max 1 m.size)
    let cut := moves.map fun x => (x, x.split u.1 u.2)
    let parts := cut.flatMap fun x => x.2.1
    let rest := cut.flatMap fun x => x.2.2
    let heldOne := cut.any fun x => !x.2.1.isEmpty && match x.1.dst with | .mem pa => s.isHeld g.id id x.1.n pa | _ => false
    let shared := parts.any fun p => s.placePoisoned p.dst p.size && op != .fetch
      && rest.any fun r => match p.dst, r.dst with
        | .mem a, .mem b => a / 4 ≤ (b + r.size - 1) / 4 && b / 4 ≤ (a + p.size - 1) / 4
        | _, _ => false
    if op == .fetch || rest.isEmpty || heldOne || shared || s.writesKept (parts.map fun p => p.writes (.store (List.replicate p.size 0))) then s
    else
      let r := s.runUnit g id op image bad parts
      if r.1 then (r.2.2.cureWhole s g image bad op parts).setKind g.id id (kind rest r.2.1) else r.2.2

/-- One unit of a collective's source is read, and the rest stays; the last one is left to the landing. -/
def State.sourcePiece (s : State) (g : Group) (id : Nat) (c : CollState) (target : Target) : State :=
  let n := Config.piece s.draws
  match choose c.src n with
  | none => s
  | some m =>
    let u := m.unit c.op (n / c.src.length % max 1 m.size)
    let cut := c.src.map fun x => x.split u.1 u.2
    let rest := cut.flatMap Prod.snd
    if rest.isEmpty then s
    else
      let r := s.readSource g id c (cut.flatMap Prod.fst) rest
      r.2.setKind g.id id (.coll r.1 target)

/-- A memory operation is performed in the lanes of a mask; of no lane, one part of it is. -/
def State.memoryComplete (s : State) (gid id : Nat) (m : Mask) : State :=
  match (s.group? gid).bind fun g => (g.op? id).map fun o => (g, o) with
  | none => s
  | some (g, o) =>
    if o.done then s
    else
      match o.kind with
      | .access accs lines => s.accessLanes g o accs lines m
      | .formLoad accs read => s.recordLanes g o accs read m
      | .acquire pa scope dst read =>
        if o.pendingAccesses.all (s.inTurn g id) then s.acquire g o pa scope dst read (m == 0) else s
      | .fence flags scope =>
        if (flags.testBit 2 && g.counter 1 != 0) || (flags.testBit 3 && g.counter 3 != 0) then s
        else
          match (if flags.testBit 0 && scope != 0 then s.settleSent g.cu else some s) with
          | none => s.demandSent g.cu
          | some s => (if flags.testBit 1 && scope != 0 then s.fullInvalidation g else s).finish gid id
      | .cacheWb _ => (s.cacheOp g o.kind).finish gid id
      | .cacheInv _ => (s.cacheOp g o.kind).finish gid id
      | .cacheInvAll => (s.cacheOp g o.kind).finish gid id
      | .codeInv _ => (s.cacheOp g o.kind).finish gid id
      | .copy moves op lines target =>
        if m == 0 then s.copyPiece g id moves op [] [] fun ms ls => .copy ms op (lines ++ ls) target else s
      | .coll c target =>
        if m != 0 then s
        else if !c.src.isEmpty then s.sourcePiece g id c target
        else match s.collImage (s.asidOf g) c with
        | none => s
        | some (image, bad) =>
          s.copyPiece g id c.dst c.op image bad fun ms ls =>
            .coll { c with image := some image, bad := bad, dst := ms, lines := c.lines ++ ls } target
      | _ => s

/-- MEMORY_ACCESS_COMPLETE (R312, R318, R323). -/
def execMemoryAccessComplete (g op : Nat) (lanes : BitVec 32) (s : State) : Host.Outcome State Fault Refusal :=
  .next (s.memoryComplete g op lanes)

/-! ### A held write is performed (R402, R412) -/

/-- The operations of a held write, in the order in which they are applied (R323). -/
def Held.ops (h : Held) : List AccessOp := h.op :: h.more.map Prod.snd

/-- The access that a held write of a group makes. -/
def Held.access (h : Held) (n : Nat) : Access := ⟨n, 0, .mem h.place, h.op, true, false, none, [], false⟩

/-- A held write whose writer is not here is performed at home: one of a group that has gone is a device agent's and leaves
other CUs' L1 words as they are (R367); one of the host or of a peer invalidates them. None reaches a frame that is being
zeroed (R377). -/
def State.performAlone (s : State) (h : Held) : State :=
  h.ops.foldl (fun (s : State) op =>
    match op.after (s.peek h.place op.size) with
    | none => s
    | some bs =>
      if s.zeroingFrame h.place then s.countError eZeroing
      else
        let wr := match h.writer with
          | .host => State.storeExternal
          | .peer => State.storeExternal
          | _ => State.storeEngine
        let s := s.cover h.place bs.length
        if h.lost.isEmpty then s.writeWords h.place op bs wr
        else
          ((piecesOf h.place bs (bs.length + 1)).filter fun p => !h.lost.contains (p.1 / 8)).foldl (fun (s : State) p =>
            s.writePart h.place op p.1 p.2 wr) s) s

/-- A held write is performed at home in its place: its writer's instruction takes the result and goes on. -/
def State.performHeld (s : State) (h : Held) : State :=
  let s := { s with held := delId Held.id s.held h.id }
  match h.writer with
  | .group gid id n =>
    match (s.group? gid).bind fun g => (g.op? id).map fun o => (g, o) with
    | none => s.performAlone h
    | some (g, o) =>
      let a := h.access n
      let ended := fun t : State => t.accessDone (s.asidOf g) (some (gid, id)) [] (s.requests g.cu a h.place true)
      let copied := fun s : State => (ended (s.performAt g a true).2).feedPoison (.mem h.place) h.bad
      let left := fun ms : List Move => ms.filter fun m => !(m.n == n && m.dst == .mem h.place)
      match o.kind with
      | .access accs lines =>
        let cl := (n :: h.more.map Prod.fst).filterMap fun lane =>
          accs.find? fun b => b.lane == lane && b.place == .mem h.place
        let r := s.performAll g true cl
        ((ended r.2).modGroup gid fun g => g.land id (clusterResults cl r.1) []).leave gid id
          (accs.filter fun b => !cl.contains b) (lines ++ cl.flatMap Access.lines) o.late
      | .copy moves op lines target =>
        if n = counterAt then (copied s).landed g id lines target
        else (copied s).setKind gid id (.copy (left moves) op (lines ++ a.lines) target)
      | .coll c target =>
        if n = counterAt then ((copied s).landed g id c.lines target).forget gid id (s.asidOf g) c.collId
        else (copied s).setKind gid id (.coll { c with dst := left c.dst, lines := c.lines ++ a.lines } target)
      | _ => s
  | .scheduler => s.poke h.place ((h.op.after (s.peek h.place h.op.size)).getD [])
  | _ => s.performAlone h

/-! ### Thread records (R45 to R47) -/

/-- SPAWN_REGS and SPAWN_SCRATCH_KIB of a kernel header word (R53). -/
def spawnRegs (w : Nat) : Nat := w / 2 ^ 48 % 2 ^ 8
def spawnScratch (w : Nat) : Nat := w / 2 ^ 38 % 2 ^ 10

/-- A kernel header word that R53 accepts. -/
def kernelWord (w : Nat) : Bool := w / 2 ^ 56 == 0xCB && w / 2 % 2 ^ 37 == 0

/-- The kernel header word at an entry address, where a spawn may enter it; none: REFUSED (R46). -/
def State.spawnEntry? (s : State) (ctx : Context) (entry : DWord) : Option Nat :=
  if entry.toNat % 8 != 0 then none
  else
    match s.translateSys ctx entry .fetch with
    | .error _ => none
    | .ok t =>
      let w := natOfBytes (s.peek (t.pa' entry.toNat) 8)
      if kernelWord w && spawnRegs w != 0 && spawnScratch w ≤ 896 then some w else none

/-- The pending groups of a die. -/
def State.queued (s : State) (die : Nat) : Nat := (s.pending.filter fun p => p.die == die).length

/-- A bin closes (R47), where its die's queue has room. -/
def State.closeBin (s : State) (b : Bin) : State :=
  if s.queued b.die < Config.pendingGroups then
    { s with
      bins := delId Bin.id s.bins b.id
      pending := s.pending ++ [⟨s.nextId, b.die, b.asid, b.launch, b.entry, b.word, b.records, s.now⟩]
      nextId := s.nextId + 1 }
  else s

/-- The bin of a die with a key. -/
def State.binFor (s : State) (die asid launch : Nat) (entry : DWord) : Option Bin :=
  s.bins.find? fun b => b.die == die && b.asid == asid && b.launch == launch && b.entry == entry

/-- A record enters a bin, which closes at 32 records. -/
def State.enterBin (s : State) (b : Bin) (r : ThreadRecord) : State :=
  let b' := { b with records := b.records ++ [r] }
  let s := { s with bins := updId Bin.id (fun _ => b') s.bins b.id }
  if Config.binRecords ≤ b'.records.length then s.closeBin b' else s

/-- A record opens a bin. -/
def State.openBin (s : State) (die asid : Nat) (l : Launch) (word : Nat) (r : ThreadRecord) : State :=
  { s with bins := s.bins ++ [⟨s.nextId, die, asid, l.id, r.entry, word, [r], l.info.spawnTimer⟩], nextId := s.nextId + 1 }

/-- A thread record arrives at a die launch unit: its status (R45, R46). A full bin closes first where it can. The bins and
pending groups of a frozen context count among the die's (DESIGN CHOICE, log 59). -/
def State.takeRecord (s : State) (die : Nat) (ctx : Context) (l : Launch) (r : ThreadRecord) : Nat × State :=
  let s := match s.binFor die ctx.asid l.id r.entry with
    | some b => if Config.binRecords ≤ b.records.length then s.closeBin b else s
    | none => s
  match s.binFor die ctx.asid l.id r.entry with
  | some b => if Config.binRecords ≤ b.records.length then (1, s) else (0, s.enterBin b r)
  | none =>
    match s.spawnEntry? ctx r.entry with
    | none => (2, s)
    | some w =>
      if (s.bins.filter fun b => b.die == die).length < Config.bins then (0, s.openBin die ctx.asid l w r) else (1, s)

/-- The records of a SPAWN arrive, as a release at DEVICE (R123), and every issuing lane receives a status: FULL where it sent
nothing (R46). -/
def State.spawnComplete (s : State) (gid id : Nat) : State :=
  match s.group? gid with
  | none => s
  | some g =>
    match g.op? id, s.contextOf? g, s.launchOf? g with
    | some o, some ctx, some l =>
      match o.kind with
      | .spawn records dst =>
        if o.done then s
        else match s.settleSent g.cu with
        | none => s.demandSent g.cu
        | some s =>
          let r := records.foldl (fun (acc : List (Nat × Nat) × State) x =>
            let y := acc.2.takeRecord (dieOfCu g.cu) ctx l x
            (acc.1 ++ [(x.lane, y.1)], y.2)) ([], s)
          let regs := (lanesOf o.lanes).map fun i => (⟨dst, i, BitVec.ofNat 32 ((r.1.lookup i).getD 1)⟩ : RegWrite)
          (r.2.modGroup gid fun g => g.land id regs []).finish gid id
      | _ => s
    | _, _, _ => s

/-- SPAWN_RECORD_ARRIVAL (R45, R46). -/
def execSpawnRecordArrival (g op : Nat) (s : State) : Host.Outcome State Fault Refusal := .next (s.spawnComplete g op)

/-! ### Draining a group -/

/-- The engine runs until an operation has left its queue. -/
def State.engineRun (s : State) (c gid id : Nat) : Nat → State
  | 0 => s
  | n + 1 =>
    if (s.cu c).matrixQueue.contains (gid, id) then ((s.engineStart c).engineComplete c).engineRun c gid id n else s

/-- An operation is performed in full, where it can be. -/
def State.completeOp (s : State) (gid id : Nat) : State :=
  match (s.group? gid).bind fun g => (g.op? id).map fun o => (g.cu, o.kind) with
  | none => s
  | some (c, k) =>
    match k with
    | .result _ _ => s.landResult gid id Mask.all
    | .deck _ _ _ => s.landResult gid id Mask.all
    | .matrix _ _ _ => s.engineRun c gid id 17
    | .copy _ _ _ _ => s.copyComplete gid id
    | .coll _ _ => s.copyComplete gid id
    | .spawn _ _ => s.spawnComplete gid id
    | .drop _ => s
    | _ => (s.memoryComplete gid id Mask.all).landResult gid id Mask.all

/-- Every outstanding operation of a group is performed, in issue order: a fence last of all. -/
def State.drainGroup (s : State) (gid : Nat) : State :=
  let ids := fun s : State => ((s.group? gid).map fun g => g.ops.map Op.id).getD []
  let s := (ids s).foldl (fun (s : State) id => s.completeOp gid id) s
  (ids s).foldl (fun (s : State) id => s.completeOp gid id) s

end Sys2Proof.Machine
end

