-- ==== Sys2Proof/Machine/Registry.lean ====
section
/-!
DEFINITION. The assumption registry (24, R395 to R417): handles and slots, ASMK, ASDROP and ASQRY, regions with RENTER
and RLEAVE, the evaluation of caught writes, and revocation.
-/
namespace Sys2Proof.Machine

/-! ### Handles (R396, R397) -/

/-- SLOT, KIND, GEN and ASID of a handle. -/
def handleSlot (h : BitVec 64) : Nat := fieldOf h 0 12
def handleKind (h : BitVec 64) : Nat := fieldOf h 12 2
def handleGen (h : BitVec 64) : Nat := fieldOf h 14 32
def handleAsid (h : BitVec 64) : Nat := fieldOf h 46 10

/-- The handle of a slot's assumption (R396) (DEDUCED, log 14). -/
def Slot.handle (x : Slot) (k : Nat) : BitVec 64 :=
  BitVec.ofNat 64 (k + 2 ^ 12 * x.kind + 2 ^ 14 * x.gen.toNat + 2 ^ 46 * x.asid)

/-- A handle names the assumption that its slot holds or held last (R397). -/
def State.names (s : State) (asid : Nat) (h : BitVec 64) : Bool :=
  let x := s.slot (handleSlot h)
  fieldOf h 56 8 == 0 && handleAsid h == asid && x.asid == asid && x.gen.toNat == handleGen h && x.gen != 0

/-- A handle is current for a context (R397). -/
def State.currentHandle (s : State) (asid : Nat) (h : BitVec 64) : Bool :=
  s.names asid h && (s.slot (handleSlot h)).state != .free

/-- The word of ASQRY (R404). -/
def State.stateWord (s : State) (asid : Nat) (h : BitVec 64) : Word :=
  let x := s.slot (handleSlot h)
  let w := fun reason kind state => BitVec.ofNat 32 (2 ^ 20 * reason + 2 ^ 18 * kind + 2 ^ 12 * state + handleSlot h)
  if s.names asid h then
    match x.state with
    | .live => w 0 x.kind 0
    | .broken => w x.reason x.kind 1
    | .free => w x.reason x.kind 2
  else w 0 (handleKind h) 2

/-! ### Predicates (R395) -/

/-- A watched 8-byte word with a write's bytes merged in. -/
def State.merged (s : State) (pa : Nat) (bs : List Byte) (word : Nat) : Nat :=
  natOfBytes ((s.peek word 8).zipIdx.map fun x =>
    let a := word + x.2
    if pa ≤ a && a < pa + bs.length then bs.getD (a - pa) 0 else x.1)

/-- Two extents of non-zero length overlap, computed exactly. -/
def overlap (p e q f : Nat) : Bool := 0 < e && 0 < f && p < q + f && q < p + e

/-- Some two cells of a list overlap. -/
def anyOverlap : List (Nat × Nat) → Bool
  | [] => false
  | c :: cs => cs.any (fun d => overlap c.1 c.2 d.1 d.2) || anyOverlap cs

/-- The predicate of an assumption after a write of bytes; with none, as its memory stands (R395). -/
def State.holds (s : State) (x : Slot) (pa : Nat) (bs : List Byte) : Bool :=
  let words := x.watches.map fun w => s.merged pa bs w.pa
  match x.kind with
  | 1 => !anyOverlap (words.zip (x.cells.map fun c => c.2.toNat))
  | 2 => words.all fun v => v == x.value.toNat
  | _ => bs.isEmpty

/-! ### Descriptors and watches (R398 to R400) -/

/-- The descriptor of an assumption (R398). -/
structure Descriptor where
  kind   : Nat
  addr   : BitVec 64
  length : BitVec 64
  value  : BitVec 64
  cells  : List (BitVec 64 × BitVec 64)

/-- The fields of a descriptor. -/
def descriptorOf (x : Nat) : Descriptor where
  kind := x % 4
  addr := BitVec.ofNat 64 (x / 2 ^ 64)
  length := BitVec.ofNat 64 (x / 2 ^ 128)
  value := BitVec.ofNat 64 (x / 2 ^ 192)
  cells := (List.range (x / 2 ^ 8 % 16)).map fun k =>
    (BitVec.ofNat 64 (x / 2 ^ (128 * k + 256)), BitVec.ofNat 64 (x / 2 ^ (128 * k + 320)))

/-- A descriptor that R398 admits for an ASMK of a kind. -/
def descriptorOk (x kind : Nat) : Bool :=
  let d := descriptorOf x
  let count := x / 2 ^ 8 % 16
  let cell := fun k : Nat => x / 2 ^ (128 * k + 256) % 2 ^ 128
  let unused := fun n => ((List.range 8).drop n).all fun k => cell k == 0
  x / 2 ^ 1280 == 0 && x / 2 ^ 12 % 2 ^ 52 == 0 && x / 4 % 2 ^ 6 == 0 && d.kind == kind &&
    match kind with
    | 1 =>
      d.addr == 0 && d.length == 0 && d.value == 0 && 2 ≤ count && count ≤ 8 && unused count
        && d.cells.all fun c => c.1.toNat % 8 == 0 && c.2.toNat ≤ 2 ^ 40
    | 2 => count == 0 && unused 0 && d.length == 0 && d.addr.toNat % 8 == 0 && canonical d.addr
    | _ =>
      count == 0 && unused 0 && d.value == 0 && canonical d.addr && 1 ≤ d.length.toNat && d.length.toNat ≤ 2 ^ 40
        && (kind != 3 || d.length.toNat % 32 == 0)

/-- The watched ranges of a descriptor. -/
def Descriptor.ranges (d : Descriptor) : List (Nat × Nat) :=
  match d.kind with
  | 1 => d.cells.map fun c => (c.1.toNat, 8)
  | 2 => [(d.addr.toNat, 8)]
  | _ => [(d.addr.toNat, d.length.toNat)]

/-- A range cut at its leaves: watches, and the first address of each leaf; none where a page has no leaf with R and U
(R399, R400). -/
def State.watchRange (s : State) (ctx : Context) (va n : Nat) : Nat → Option (List (Watch × Nat))
  | 0 => some []
  | fuel + 1 =>
    if n = 0 then some []
    else
      match s.translateSys ctx (BitVec.ofNat 64 va) .read with
      | .error _ => none
      | .ok t =>
        let k := min n (2 ^ t.size - va % 2 ^ t.size)
        match s.watchRange ctx (va + k) (n - k) fuel with
        | none => none
        | some ws => some ((⟨BitVec.ofNat 64 va, t.ipa + va % 2 ^ t.size, t.pa' va, k⟩, va / 2 ^ t.size * 2 ^ t.size) :: ws)

/-- The watches of a list of ranges. -/
def State.watchRanges (s : State) (ctx : Context) : List (Nat × Nat) → Option (List (Watch × Nat))
  | [] => some []
  | r :: rs =>
    match s.watchRange ctx r.1 r.2 (r.2 / 4096 + 2), s.watchRanges ctx rs with
    | some a, some b => some (a ++ b)
    | _, _ => none

/-- The frames of a watch. -/
def Watch.frames (w : Watch) : List Nat :=
  (List.range ((w.pa + w.size - 1) / 4096 + 1 - w.pa / 4096)).map (w.pa / 4096 + ·)

/-- Every registration, sent or accepted, and every dirty L1 word of watched frames is recalled to home, and the frames
become SHARED (R400). -/
def State.recallWatched (s : State) (ws : List Watch) : State :=
  let hit := fun f => ws.any fun w => w.pa / 4096 ≤ f && f ≤ (w.pa + w.size - 1) / 4096
  let s := (ws.flatMap Watch.frames).foldl (fun (s : State) f => s.share f) s
  ((s.lines.map Prod.fst).filter fun l => hit (l / 32)).foldl (fun (s : State) l => s.settleLine l) s

/-- Registrations in flight for words of watched frames: of which CU, and of which line. -/
def State.sentIn (s : State) (ws : List Watch) : List (Nat × Nat) :=
  s.cus.flatMap fun x => (x.2.sentWords.filter fun w =>
    ws.any fun a => a.pa / 4096 ≤ w / 1024 && w / 1024 ≤ (a.pa + a.size - 1) / 4096).map fun w => (x.1, w / 32)

/-- Those of them that have to wait for tokens (R370). -/
def State.sentWaits (s : State) (ws : List Watch) : List (Nat × Nat) :=
  (s.sentIn ws).filter fun x => s.mustWait (.die (dieOfCu x.1)) x.2 true

/-- The watch entries in use. -/
def State.entriesUsed (s : State) : Nat := s.slots.foldl (fun n x => n + x.2.entries) 0

/-- A slot that a context may take (R397, R417). -/
def Slot.freeFor (x : Slot) (asid : Nat) : Bool :=
  x.state == .free && x.revocation.isNone && (!x.reserved || x.asid == asid)

/-- The LIVE and BROKEN slots of a context. -/
def State.slotsHeld (s : State) (asid : Nat) : Nat :=
  (s.slots.filter fun x => x.2.asid == asid && x.2.state != .free).length

/-- The shape of a context's partition: cluster ports, slice groups, second-tier and expander ports (R416). -/
def State.shapeOf (s : State) (ctx : Context) : List Nat :=
  match (s.func ctx.func).bound with
  | none => [0, 0, 0, 0]
  | some p =>
    let q := s.parts.getD p Partition.none
    let count := fun lo n => ((List.range n).filter fun k => q.memports.getLsbD (lo + k)).length
    [popcount q.clusters, count 0 4, count 4 16, count 20 4]

/-- The registrations in flight that ASMK recalls before its watch takes effect, and that have to wait for tokens (R400). -/
def State.watchWaits (s : State) (ctx : Context) (kind x : Nat) : List (Nat × Nat) :=
  if !descriptorOk x kind then []
  else (((s.watchRanges ctx (descriptorOf x).ranges).getD []).map Prod.fst |> s.sentWaits)

/-- The effect of ASMK after its descriptor is read: status, handle and state, by the rows of R399 in table
order (DEDUCED, log 46). -/
def State.makeAssumption (s : State) (ctx : Context) (kind x : Nat) : Nat × BitVec 64 × State :=
  if !descriptorOk x kind then (3, 0, s)
  else if ctx.quota ≤ s.slotsHeld ctx.asid then (1, 0, s)
  else
    let d := descriptorOf x
    match s.watchRanges ctx d.ranges with
    | none => (4, 0, s)
    | some ws =>
      let watches := ws.map Prod.fst
      let entries := (ws.map Prod.snd).eraseDups.length
      if watches.any fun w => inHost w.pa || inPeer w.pa then (5, 0, s)
      else
        match (List.range Config.slots).find? fun k => (s.slot k).freeFor ctx.asid with
        | none => (2, 0, s)
        | some k =>
          if Config.watchEntries < s.entriesUsed + entries then (2, 0, s)
          else
            let old := s.slot k
            let gen := old.issued + 1
            let new : Slot :=
              { gen := gen, issued := gen, asid := ctx.asid, kind := kind, state := .live, reason := 0, addr := d.addr
                length := d.length, value := d.value, cells := d.cells, shape := s.shapeOf ctx, watches := watches
                entries := entries, revocation := none, dropping := false, reserved := old.reserved }
            let s' := s.recallWatched watches
            if s'.holds new 0 [] then (0, new.handle k, s'.modSlot k fun _ => new) else (6, 0, s')

/-- The guard of ASMK: `.topo` needs privilege (R399). -/
def asmkGuard (_ : State) (_ : Group) (f : Fields) : Guard := { Guard.plain with priv := f.mod == 3 }

/-- ASMK (R399). -/
def execAsmk (f : Fields) (s : State) : Host.Outcome State Fault Refusal :=
  issue (.asmk f) f .grouped asmkGuard (fun c s =>
    match s.contextOf? c.g with
    | none => .done s
    | some ctx =>
      match s.reach c 256 .read c.leadVa (fun _ => .load 256 false) true [] with
      | .error r => s.faulted c.g r
      | .ok (accs, s) =>
        match s.readsNow c.g accs [] with
        | .gone => .trapAfter (s.peerRecord c.parts c.addr) false s
        | .waits ask => .hold ask
        | .got vs s =>
        let x := vs.foldr (fun v n => v.2 + 2 ^ 64 * n) 0
        let kind := f.mod.toNat % 4
        let lacks := s.watchWaits ctx kind x
        if !lacks.isEmpty then .hold fun s => lacks.foldl (fun (s : State) y => s.demand (.die (dieOfCu y.1)) y.2 true none) s
        else
        let m := s.makeAssumption ctx kind x
        let vals := [m.2.1.extractLsb' 0 32, m.2.1.extractLsb' 32 32, BitVec.ofNat 32 m.1, 0#32]
        .done (m.2.2.start c ((List.range 4).map (f.dst.toNat + ·)) c.parts
          (.result ((lanesOf c.parts).flatMap fun i => vals.zipIdx.map fun v => ⟨f.dst.toNat + v.2, i, v.1⟩) []))) s

/-- ASQRY (R404). -/
def execAsqry (f : Fields) (s : State) : Host.Outcome State Fault Refusal :=
  plain (.asqry f) f (fun c s =>
    .done (s.start c [f.dst.toNat] c.parts (.result (c.each fun i => s.stateWord (s.asidOf c.g) (c.a64 i)) []))) s

/-! ### Breaking an assumption (R409, R414) -/

/-- The cause word (R414). -/
def causeWord (when' reason kind idx slot : Nat) : BitVec 32 :=
  BitVec.ofNat 32 (2 ^ 24 * when' + 2 ^ 20 * reason + 2 ^ 18 * kind + 2 ^ 15 * idx + slot)

/-- The position of a slot's assumption in the region in which a group is resident (R409). -/
def State.position (s : State) (g : Group) (k : Nat) : Option Nat :=
  match g.region, s.launchOf? g with
  | some r, some l =>
    match l.regions[r]? with
    | none => none
    | some d => (List.range d.idx.length).find? fun i =>
        let h := l.handles.getD (d.idx.getD i 0) 0
        s.currentHandle l.asid h && handleSlot h == k
  | _, _ => none

/-- The dependants of an assumption, with its position in their regions. -/
def State.dependants (s : State) (k : Nat) : List (Nat × Nat) :=
  s.groups.filterMap fun g => if s.asidOf g = (s.slot k).asid then (s.position g k).map fun i => (g.id, i) else none

/-- A LIVE assumption is marked BROKEN and its dependants are fixed (R409 step 1). -/
def State.breakSlot (s : State) (k reason : Nat) : State :=
  if (s.slot k).state == .live then
    let deps := s.dependants k
    s.modSlot k fun x => { x with state := .broken, reason := reason, revocation := some ⟨reason, deps, []⟩ }
  else s

/-- The slots that satisfy a test break. -/
def State.breakAll (s : State) (p : Slot → Bool) (reason : Nat) : State :=
  ((s.slots.filter fun x => x.2.state == .live && p x.2).map Prod.fst).foldl (fun (s : State) k => s.breakSlot k reason) s

/-- A context's TOPO assumptions break where the partition's shape differs from the one recorded (R416)
(DEDUCED, log 24). -/
def State.breakShape (s : State) (ctx : Context) : State :=
  let shape := s.shapeOf ctx
  s.breakAll (fun x => x.asid == ctx.asid && x.kind == 3 && x.shape != shape) 4

/-- Every ASDROP that awaits a slot completes (R403). -/
def State.finishDrops (s : State) (k : Nat) : State :=
  let drops := s.groups.flatMap fun g => (g.ops.filter fun o => !o.done && (match o.kind with | .drop j => j == k | _ => false)).map
    fun o => (g.id, o.id)
  drops.foldl (fun (s : State) d => s.finish d.1 d.2) s

/-- An assumption becomes DROPPED: its slot is free, its watch is removed, and what awaited its drop completes (R397, R400,
R403). -/
def State.dropSlot (s : State) (k : Nat) : State :=
  (s.modSlot k fun x => { x with state := .free, watches := [], entries := 0, dropping := false }).finishDrops k

/-- ASDROP (R403): ignored, dropped at once, or a break with reason DROP that it awaits. -/
def execAsdrop (f : Fields) (s : State) : Host.Outcome State Fault Refusal :=
  once (.asdrop f) f (fun c s =>
    let h := c.a64 c.lead
    let k := handleSlot h
    if !s.currentHandle (s.asidOf c.g) h then .done s
    else if (s.slot k).state == .broken then .done (s.dropSlot k)
    else .done (((s.breakSlot k 5).modSlot k fun x => { x with dropping := true }).start c [] 0 (.drop k))) s

/-! ### Regions (R405 to R408) -/

/-- The region of a group's launch that holds an address. -/
def State.regionAt (s : State) (g : Group) (pc : DWord) : Option (Nat × Region) :=
  match s.launchOf? g with
  | none => none
  | some l => ((l.regions.zipIdx.find? fun r => r.1.start.toNat ≤ pc.toNat && pc.toNat < r.1.stop.toNat).map fun r => (r.2, r.1))

/-- The first assumption of a region that is not LIVE, with its cause word (R407). -/
def State.notLive (s : State) (g : Group) (r : Region) : Option (BitVec 32) :=
  let hs := ((s.launchOf? g).map Launch.handles).getD []
  (List.range r.idx.length).findSome? fun k =>
    let h := hs.getD (r.idx.getD k 0) 0
    let x := s.slot (handleSlot h)
    if s.currentHandle (s.asidOf g) h then
      if x.state == .broken then some (causeWord 2 x.reason x.kind k (handleSlot h)) else none
    else some (causeWord 2 0 (handleKind h) k (handleSlot h))

/-- REGION_ESCAPE at RENTER or RLEAVE. -/
def regionFault (c : Ictx) (info : Nat) : FaultRecord := recordOf fRegionEscape c.all c.addr c.addr info

/-- RENTER (R407): where an assumption is not LIVE, the cause is written and the lanes go to the handler, once no register of the
group is pending (R75). -/
def execRenter (f : Fields) (s : State) : Host.Outcome State Fault Refusal :=
  plain (.renter f) f (fun c s =>
    match s.regionAt c.g c.addr with
    | none => .trap (regionFault c 0xFFFFFFFF)
    | some (k, r) =>
      if c.g.live &&& ~~~c.all != 0 then .trap (regionFault c k)
      else if c.g.nregs ≤ r.cause then .trap (recordOf fIllegalReg c.all c.addr c.word r.cause)
      else
        match s.notLive c.g r with
        | none => .done (s.modGroup c.g.id fun g => { g with region := some k })
        | some w =>
          if !c.g.noPending then .hold id
          else .done ((s.writeNoted c ((lanesOf c.g.live).map fun i => ⟨r.cause, i, w⟩)).modGroup c.g.id fun g =>
            { (g.modLanes g.live fun l => { l with pos := Pos.entry r.handler }) with region := none })) s

/-- RLEAVE (R408). -/
def execRleave (f : Fields) (s : State) : Host.Outcome State Fault Refusal :=
  plain (.rleave f) f (fun c s =>
    match s.regionAt c.g c.addr with
    | none => .done s
    | some (k, _) =>
      if c.g.live &&& ~~~c.all != 0 then .trap (regionFault c k)
      else .done (s.modGroup c.g.id fun g => { g with region := none })) s

/-! ### Caught writes (R402) -/

/-- Two held writes touch a word both. -/
def Held.meets (a b : Held) : Bool :=
  a.place / 4 ≤ (b.place + b.op.size - 1) / 4 && b.place / 4 ≤ (a.place + a.op.size - 1) / 4

/-- The entries before one in a list. -/
def before (id : Nat) : List Held → List Held
  | [] => []
  | h :: hs => if h.id = id then [] else h :: before id hs

/-- The held write is next to be evaluated: no earlier one awaits evaluation, and none of its words stands behind another
held write unless every assumption that watches it is being revoked (DEDUCED, log 42). -/
def State.evaluable (s : State) (h : Held) : Bool :=
  let earlier := before h.id s.held
  !h.evaluated && earlier.all Held.evaluated
    && (!(earlier.any h.meets) || !((s.watchers h.place h.op.size).any fun k => (s.slot k).state == .live))

/-- A held write that is performed waits for its tokens as any write at home does (R370 to R374): of whom, of which lines, and
whether it is to write. -/
def State.heldLacks (s : State) (h : Held) : List (Holder × Nat × Bool) :=
  let of := fun who : Holder => ((linesOf h.place h.op.size).filter fun l => s.mustWait who l true).map fun l => (who, l, true)
  match h.writer with
  | .group gid _ n =>
    match s.group? gid with
    | none => of .home
    | some g => s.lacking g.cu (h.access n) h.place true
  | .scheduler => of .home
  | .host => of .host
  | .peer => of .link

/-- Held writes that wait for no revocation are performed in their places, in order of arrival (R412). -/
def State.releaseReady (s : State) : List Held → State
  | [] => s
  | h :: hs =>
    match findId Held.id s.held h.id with
    | none => s.releaseReady hs
    | some h =>
      if h.evaluated && h.slots.isEmpty && !((before h.id s.held).any h.meets) then
        if (s.heldLacks h).isEmpty then (s.performHeld h).releaseReady hs
        else ((s.heldLacks h).foldl (fun (s : State) x => s.demand x.1 x.2.1 x.2.2 none) s).releaseReady hs
      else s.releaseReady hs

/-- What stands in memory after each operation of a list that writes. -/
def leavings : List AccessOp → List Byte → List (List Byte)
  | [], _ => []
  | op :: ops, old =>
    match op.after old with
    | none => leavings ops old
    | some new => new :: leavings ops new

/-- The evaluation of a caught write (R402): it breaks each LIVE assumption whose predicate its bytes leave false, joins
every revocation under way, and is released at once where there is none. -/
def State.evaluate (s : State) (h : Held) : State :=
  let left := leavings h.ops (s.peek h.place h.op.size)
  let r := (s.watchers h.place h.op.size).foldl (fun (acc : List Nat × State) k =>
    let x := acc.2.slot k
    match x.state, x.revocation with
    | .broken, some _ => (acc.1 ++ [k], acc.2)
    | .live, _ =>
      if left.all fun bs => acc.2.holds x h.place bs then acc
      else (acc.1 ++ [k], acc.2.breakSlot k (if x.kind = 3 then 3 else 1))
    | _, _ => acc) ([], s)
  let joined := (before h.id s.held).filter h.meets |>.flatMap Held.slots
  let s := { r.2 with held := updId Held.id (fun h =>
      { h with evaluated := true, slots := (r.1 ++ joined).eraseDups }) r.2.held h.id }
  s.releaseReady s.held

/-- CAUGHT_WRITE_EVALUATE (R402): an evaluated write that waits for tokens is tried again. -/
def execCaughtWriteEvaluate (id : Nat) (s : State) : Host.Outcome State Fault Refusal :=
  match findId Held.id s.held id with
  | none => .next s
  | some h => .next (if s.evaluable h then s.evaluate h else if h.evaluated then s.releaseReady s.held else s)

/-! ### Delivery and acknowledgement (R25, R26, R409 to R411) -/

/-- A revocation of a slot. -/
def State.modRevocation (s : State) (k : Nat) (f : Revocation → Revocation) : State :=
  s.modSlot k fun x => { x with revocation := x.revocation.map f }

/-- The region in which a group is resident names the assumption that a slot holds or held last. -/
def State.inRegionOf (s : State) (g : Group) (k : Nat) : Bool :=
  match g.region, s.launchOf? g with
  | some r, some l => (l.regions[r]?).any fun d => d.idx.any fun i =>
      let h := l.handles.getD i 0
      s.names l.asid h && handleSlot h == k
  | _, _ => false

/-- A group can no longer be redirected for a slot: it has exited, its context ends, or it is in no region that names the
assumption. -/
def State.beyond (s : State) (g : Group) (k : Nat) : Bool :=
  g.live == 0 || !s.inRegionOf g k || ((s.contextOf? g).map fun c => c.state == .ending).getD true

/-- REVOCATION_DELIVER (R409 step 2): the dependant stops at its next issue slot, a fault that has not entered its handler
is dropped, and its waits end; a group in handler mode runs on (R26). -/
def execRevocationDeliver (k gid : Nat) (s : State) : Host.Outcome State Fault Refusal :=
  match (s.slot k).revocation with
  | none => .next s
  | some v =>
    match v.toSend.find? fun d => d.1 == gid with
    | none => .next s
    | some d =>
      let rest := v.toSend.filter fun e => e.1 != gid
      match s.group? gid with
      | none => .next (s.modRevocation k fun v => { v with toSend := rest })
      | some g =>
        if s.beyond g k then .next (s.modRevocation k fun v => { v with toSend := rest })
        else
          let s := s.modRevocation k fun v => { v with toSend := rest, waiting := v.waiting ++ [d] }
          let region := g.region.bind fun r => (s.launchOf? g).bind fun l => l.regions[r]?
          let redirect := match g.redirect, region with
            | some r, _ => some r
            | none, some r => some ⟨r.handler, r.cause, causeWord 1 v.reason (s.slot k).kind d.2 k, false⟩
            | none, none => none
          let g := { g with redirect := redirect }
          .next (s.putGroup (if g.handler then g
            else { g with wait0 := .none, wait1 := .none, waitSlot0 := 0, waitSlot1 := 0, trapWait := none }))

/-- Every read of a group that could return a held word has been performed (R410). -/
def State.readsDone (s : State) (g : Group) : Bool :=
  g.ops.all fun o => o.done ||
    match o.kind with
    | .access accs _ => accs.all fun a => s.heldAt g.id o.id a || (!a.op.readsOnly && s.keptBack g.id o.id a) || !(match a.op with
        | .load _ _ => true
        | .atom _ _ _ => true
        | .cas _ _ _ => true
        | _ => false)
    | .formLoad accs _ => accs.isEmpty
    | .acquire _ _ _ read => read.isSome
    | .coll c _ => c.src.isEmpty
    | .copy moves op _ _ => op == .fetch || moves.all fun m => s.heldAt g.id o.id (m.writes (.store [])) || !(match m.src with
        | .mem _ => true
        | _ => false)
    | _ => true

/-- A group is a dependant whose redirect is still to come: it was fixed as one, and has been sent nothing or has not
acknowledged it (R409). -/
def State.toRedirect (s : State) (gid : Nat) : Bool :=
  s.slots.any fun x => (x.2.revocation.map fun v => (v.toSend ++ v.waiting).any fun d => d.1 == gid).getD false

/-- A context has an assumption broken with reason SHAPE whose dependants are not all patched: none of its groups issues on the
new partition before they are (R416). -/
def State.shapePending (s : State) (asid : Nat) : Bool :=
  s.slots.any fun x => x.2.asid == asid && x.2.reason == 4
    && (x.2.revocation.map fun v => !(v.toSend.isEmpty && v.waiting.isEmpty)).getD false

/-- The acknowledgement for a dependant: it goes to its handler, or, in handler mode, its residency ends and the redirect
awaits its TRAPRET (R26, R409 step 4). -/
def State.acknowledge (s : State) (k gid : Nat) : State :=
  let s := s.modRevocation k fun v => { v with waiting := v.waiting.filter fun d => d.1 != gid }
  match s.group? gid with
  | none => s
  | some g =>
    if g.live == 0 || ((s.contextOf? g).map fun c => c.state == .ending).getD true then
      s.putGroup { g with redirect := none, region := none }
    else
      match g.redirect with
      | none => s
      | some r =>
        if g.handler then s.putGroup { g with region := none }
        else if r.moved then s
        else s.putGroup (g.redirectTo r)

/-- A group is in its saved image: swapped out, its team frozen, or parked on a fault (R409 step 5). -/
def State.saved (s : State) (g : Group) : Bool := !s.resident g.team || g.parked.isSome

/-- A group to which a revocation has been delivered has not acknowledged it: its team does not leave its CU before (R26). -/
def State.unacked (s : State) (g : Group) : Bool :=
  s.slots.any fun x => (x.2.revocation.map fun v => v.waiting.any fun d => d.1 == g.id).getD false

/-- A dependant awaits its acknowledgement. -/
def State.awaits (s : State) (k gid : Nat) : Bool :=
  ((s.slot k).revocation.map fun v => v.waiting.any fun d => d.1 == gid).getD false

/-- REVOCATION_ACK (R409 step 3, R410). -/
def execRevocationAck (k gid : Nat) (s : State) : Host.Outcome State Fault Refusal :=
  match s.group? gid with
  | none => .next (s.modRevocation k fun v => { v with waiting := v.waiting.filter fun d => d.1 != gid })
  | some g => .next (if s.awaits k gid && !s.saved g && (s.readsDone g || g.live == 0) then s.acknowledge k gid else s)

/-- IMAGE_PATCH (R409 step 5, R411), once the reads that the group has outstanding are performed (R410). -/
def execImagePatch (k gid : Nat) (s : State) : Host.Outcome State Fault Refusal :=
  match s.group? gid with
  | none => .next s
  | some g => .next (if s.awaits k gid && s.saved g && s.readsDone g then s.acknowledge k gid else s)

/-- A revocation has every acknowledgement. -/
def State.acked (s : State) (k : Nat) : Bool :=
  ((s.slot k).revocation.map fun v => v.toSend.isEmpty && v.waiting.isEmpty).getD false

/-- A revocation completes (R400, R403, R412): the watch is removed, an assumption being dropped is DROPPED and its ASDROP
completes, and held writes that wait for nothing else are performed. -/
def State.completeRevocation (s : State) (k : Nat) : State :=
  let dropping := (s.slot k).dropping
  let s := s.modSlot k fun x => { x with revocation := none, watches := [], entries := 0 }
  let s := if dropping then s.dropSlot k else s
  let s : State := { s with held := s.held.map fun (h : Held) => { h with slots := h.slots.filter (· != k) } }
  s.releaseReady s.held

/-- HELD_WRITE_RELEASE (R409 step 6, R412). -/
def execHeldWriteRelease (k : Nat) (s : State) : Host.Outcome State Fault Refusal :=
  .next (if s.acked k then s.completeRevocation k else s)

/-- A slot forgets whose its last assumption was; the count of its generations stays (R397). -/
def Slot.forget (x : Slot) : Slot := { x with gen := 0, asid := 0, reason := 0, reserved := false }

/-- Every assumption of a context is dropped without revocation, and its revocations complete; no other context will name
them (R397, R448). -/
def State.dropContext (s : State) (asid : Nat) : State :=
  let ks := (s.slots.filter fun x => x.2.asid == asid && (x.2.state != .free || x.2.revocation.isSome)).map Prod.fst
  let s := ks.foldl (fun (s : State) k => (if (s.slot k).revocation.isSome then s.completeRevocation k else s).dropSlot k) s
  { s with slots := s.slots.map fun (x : Nat × Slot) => (x.1, if x.2.asid == asid then x.2.forget else x.2) }

end Sys2Proof.Machine
end

