-- ==== Sys2Proof/Machine/Accept.lean ====
section
/-!
DEFINITION. Acceptance (26, R422 to R428; 02, R50 to R58): queue headers and entries, launch records with their tables and
checks, graphs, and the meanings of DOORBELL, QUEUE_ENTRY_CONSIDER, GRAPH_NODE_START and LAUNCH.
-/
namespace Sys2Proof.Machine

/-- Bits `lo` to `lo + n - 1` of a number. -/
def bitsAt (x lo n : Nat) : Nat := x / 2 ^ lo % 2 ^ n

/-! ### Launch queues (R422 to R424) -/

/-- A queue header (R422). -/
structure Queue where
  base : Nat
  log2 : Nat
  head : Nat
  tail : Nat
  deriving DecidableEq, Repr

/-- The entries of a queue: (TAIL − HEAD) mod 2^16. -/
def Queue.count (q : Queue) : Nat := (q.tail + 2 ^ 16 - q.head) % 2 ^ 16
/-- The entry of an index. -/
def Queue.entry (q : Queue) (i : Nat) : DWord := BitVec.ofNat 64 (q.base + 32 * (i % 2 ^ q.log2))

/-- The address of a context's queue header. -/
def Context.header (c : Context) (q : Nat) : DWord := c.qtable + BitVec.ofNat 64 (32 * q)

/-- A queue that the scheduler does not ignore (R422). -/
def State.queue? (s : State) (c : Context) (q : Nat) : Option Queue :=
  match s.readVa c (c.header q) 32 with
  | none => none
  | some bs =>
    let x := natOfBytes bs
    let log2 := bitsAt x 64 4
    if bitsAt x 160 96 != 0 || bitsAt x 68 60 != 0 || log2 < 4 || 12 < log2 then none
    else some ⟨bitsAt x 0 64, log2, bitsAt x 128 16, bitsAt x 144 16⟩

/-- Writing HEAD or TAIL of a queue. -/
def State.setHead (s : State) (c : Context) (q n : Nat) : State := s.writeVa c (c.header q + 16) (bytesOfNat 2 n)
def State.setTail (s : State) (c : Context) (q n : Nat) : State := s.writeVa c (c.header q + 18) (bytesOfNat 2 n)

/-- Writing STATE, with CAUSE and FCODE where one is written, of the entry at an index (R423). -/
def State.setEntry (s : State) (c : Context) (q i state : Nat) (cause fcode : Option Nat) : State :=
  match s.queue? c q with
  | none => s
  | some h =>
    let va := h.entry i
    match s.readVa c (va + 8) 1 with
    | none => s
    | some bs =>
      let graph := natOfBytes bs % 2
      let s := match cause with
        | some n => s.writeVa c (va + 9) (bytesOfNat 1 n)
        | none => s
      let s := match fcode with
        | some n => s.writeVa c (va + 28) (bytesOfNat 4 n)
        | none => s
      s.writeVa c (va + 8) (bytesOfNat 1 (graph + 2 * state))

/-- The scheduler's writes of a queue's header, and of the entry at an index (R422, R423): where, and of how many bytes. -/
def Queue.writes (h : Queue) (c : Context) (q i : Nat) : List (DWord × Nat) := [(c.header q, 32), (h.entry i, 32)]

/-- DOORBELL (R424): what function `fn` writes is in the input; 64 is the physical function. One whose write of TAIL has to wait
for tokens waits (R369). -/
def execDoorbell (s : State) : Host.Outcome State Fault Refusal :=
  let x := s.input.value.toNat
  let q := bitsAt x 10 3
  let tail := bitsAt x 32 16
  let dropped := s.countError eDoorbell
  if bitsAt x 48 16 != 0 || bitsAt x 13 19 != 0 || q = 7 then .next dropped
  else
    match s.context? (bitsAt x 0 10) with
    | none => .next dropped
    | some c =>
      if s.input.fn != 64 && c.func != s.input.fn then .next dropped
      else
        match s.queue? c q with
        | none => .next dropped
        | some h =>
          if 2 ^ h.log2 < { h with tail := tail }.count then .next dropped
          else if s.writesFree c [(c.header q, 32)] then .next (s.setTail c q tail)
          else .next { s.writesDemand c [(c.header q, 32)] with waiting := s.waiting ++ [⟨.doorbell, s.input⟩] }

/-! ### Records (R50 to R53) -/

/-- GROUPS and REGS of a role entry (R51). -/
def roleEntry (x : Nat) : RoleEntry := ⟨bitsAt x 0 9, bitsAt x 16 8⟩

/-- The fields of a launch record that outlive acceptance. -/
def recordFields (x : Nat) : Record where
  kernel := BitVec.ofNat 64 (bitsAt x 0 64)
  teams := bitsAt x 64 32
  teamCus := bitsAt x 96 8
  prio := bitsAt x 104 8
  sclass := bitsAt x 112 8
  debug := x.testBit 120
  ckpt := x.testBit 121
  roles := (List.range 4).map fun k => roleEntry (bitsAt x (32 * k + 128) 32)
  slots := (List.range 8).map fun k => BitVec.ofNat 64 (bitsAt x (64 * k + 256) 64)
  trap := BitVec.ofNat 64 (bitsAt x 768 64)
  tags := bitsAt x 1152 7
  rings := bitsAt x 1160 4
  barriers := bitsAt x 1168 6
  scratchKib := bitsAt x 1184 10
  spawnTimer := if bitsAt x 1216 32 = 0 then 4096 else bitsAt x 1216 32
  affinePool := bitsAt x 1248 32
  paramSize := bitsAt x 1344 32
  pgt := BitVec.ofNat 64 (bitsAt x 1024 64)
  pgtRanks := bitsAt x 1088 32

/-- The reserved fields of a record and of its role entries are zero (R50, R51). -/
def recordMbz (x : Nat) : Bool :=
  [(1376, 672), (1194, 22), (1174, 10), (1164, 4), (1159, 1), (1120, 32), (992, 32), (122, 6)].all
      (fun f => bitsAt x f.1 f.2 == 0)
    && (List.range 4).all fun k => bitsAt x (32 * k + 152) 8 == 0 && bitsAt x (32 * k + 137) 7 == 0

/-- PARAM, ASM_LIST, ASM_COUNT, REGION_TABLE and REGIONS of a record. -/
def recordParam (x : Nat) : DWord := BitVec.ofNat 64 (bitsAt x 1280 64)
def recordAsmList (x : Nat) : DWord := BitVec.ofNat 64 (bitsAt x 896 64)
def recordAsmCount (x : Nat) : Nat := bitsAt x 976 16
def recordRegionTable (x : Nat) : DWord := BitVec.ofNat 64 (bitsAt x 832 64)
def recordRegions (x : Nat) : Nat := bitsAt x 960 16

/-- CAUSE 0x01: a reserved field, or a field outside its range that no other row names (R425). -/
def recordRange (x : Nat) : Bool :=
  let r := recordFields x
  let timer := bitsAt x 1216 32
  recordMbz x && r.teams != 0 && r.prio ≤ 15 && r.sclass ≤ 3 && r.paramSize ≤ 65536
    && (r.paramSize == 0 || (recordParam x).toNat % 8 == 0)
    && (timer == 0 || (256 ≤ timer && timer ≤ 65536)) && (r.pgt == 0 || r.pgt.toNat % 32 == 0)

/-- A role of the record. -/
def Record.role (r : Record) (k : Nat) : RoleEntry := r.roles.getD k ⟨0, 0⟩
/-- The groups of a team. -/
def Record.groupSum (r : Record) : Nat := (r.roles.map RoleEntry.groups).foldl (· + ·) 0

/-- Role and registers of each group of a team, in its numbering: COPY, MATRIX, VECTOR, GENERAL (R31). -/
def Record.order (r : Record) : List (Nat × Nat) :=
  [1, 2, 3, 0].flatMap fun k => List.replicate (r.role k).groups (k, (r.role k).regs)

/-- The rows of a group (R17). -/
def rowsOf (n : Nat) : Nat := (n + 7) / 8 * 8

/-- The rows that each CU of a team holds (R31, R33). -/
def shapeRows (order : List (Nat × Nat)) (cus k : Nat) : Nat :=
  (order.zipIdx.filter fun g => g.2 % cus == k).foldl (fun n g => n + rowsOf g.1.2) 0
/-- The groups that each CU of a team holds. -/
def shapeGroups (n cus k : Nat) : Nat := (n + cus - 1 - k) / cus

/-- CAUSE 0x05 does not apply: the shape's ranges, and a set of empty CUs could hold it (R12, R33, R52). -/
def Record.shapeOk (r : Record) : Bool :=
  1 ≤ r.teamCus && r.teamCus ≤ 8 && 1 ≤ r.groupSum && r.groupSum ≤ 384 && r.scratchKib ≤ 896
    && (r.groupSum + r.teamCus - 1) / r.teamCus ≤ 48
    && (List.range r.teamCus).all fun k => shapeRows r.order r.teamCus k ≤ 4096

/-- CAUSE 0x06 does not apply: needs per team, and REGS of each role (R12, R51). -/
def Record.needsOk (r : Record) : Bool :=
  r.tags ≤ 64 && r.rings ≤ 8 && r.barriers ≤ 32
    && r.roles.all fun e => if e.groups = 0 then e.regs == 0 else 1 ≤ e.regs && e.regs ≤ 255

/-- CAUSE 0x03 does not apply (R32). -/
def Record.mixtureOk (r : Record) : Bool :=
  let others := [1, 2, 3].any fun k => (r.role k).groups != 0
  ((r.role 0).groups != 0) != others

/-! ### Regions (R405, R406) -/

/-- A region descriptor. -/
def regionOf (x : Nat) : Region where
  start := BitVec.ofNat 64 (bitsAt x 0 64)
  stop := BitVec.ofNat 64 (bitsAt x 64 64)
  handler := BitVec.ofNat 64 (bitsAt x 128 64)
  cause := bitsAt x 320 8
  idx := (List.range (bitsAt x 328 4)).map fun k => bitsAt x (16 * k + 192) 16

/-- A descriptor that R405 and R406 admit. -/
def regionOk (r : Record) (asmCount x : Nat) : Bool :=
  let d := regionOf x
  let n := bitsAt x 328 4
  bitsAt x 332 180 == 0 && 1 ≤ n && n ≤ 8 && d.cause ≤ 254
    && (List.range 8).all (fun k => if k < n then bitsAt x (16 * k + 192) 16 < asmCount else bitsAt x (16 * k + 192) 16 == 0)
    && d.start.toNat % 8 == 0 && d.stop.toNat % 8 == 0 && d.handler.toNat % 8 == 0 && d.start.toNat < d.stop.toNat
    && r.roles.all fun e => e.groups == 0 || d.cause < e.regs

/-- Some two regions overlap. -/
def regionsOverlap : List Region → Bool
  | [] => false
  | r :: rs => rs.any (fun q => r.start.toNat < q.stop.toNat && q.start.toNat < r.stop.toNat) || regionsOverlap rs

/-- Cutting bytes into records of `n` bytes, as numbers. -/
def recordsOf (n count : Nat) (bs : List Byte) : List Nat :=
  (List.range count).map fun k => natOfBytes ((bs.drop (n * k)).take n)

/-- The regions of a record; none: CAUSE 0x09. -/
def State.readRegions (s : State) (c : Context) (x : Nat) : Option (List Region) :=
  let n := recordRegions x
  if 4096 < n then none
  else
    match s.readVa c (recordRegionTable x) (64 * n) with
    | none => none
    | some bs =>
      let xs := recordsOf 64 n bs
      if xs.all (regionOk (recordFields x) (recordAsmCount x)) && !regionsOverlap (xs.map regionOf) then
        some (xs.map regionOf)
      else none

/-- The handles of a record; none: CAUSE 0x08 (R397). -/
def State.readHandles (s : State) (c : Context) (x : Nat) : Option (List (BitVec 64)) :=
  let n := recordAsmCount x
  if c.quota < n then none
  else
    match s.readVa c (recordAsmList x) (8 * n) with
    | none => none
    | some bs =>
      let hs := recordsOf 8 n bs
      if hs.all fun h => bitsAt h 56 8 == 0 && bitsAt h 46 10 == c.asid then some (hs.map (BitVec.ofNat 64)) else none

/-! ### Process-group tables and routes (R57, R58, R470, R471) -/

/-- Rank, share, and the links and pods of the routes. -/
structure Share where
  rank  : Nat
  first : Nat
  count : Nat
  links : List Nat
  pods  : List Nat
  deriving DecidableEq, Repr

/-- An entry of the network table that may be routed to (R471). -/
def State.netOk (s : State) (pod : Nat) : Bool :=
  let x := natOfBytes (s.peek (s.regs.netBase.toNat + 32 * pod) 32)
  bitsAt x 192 64 == 0 && bitsAt x 0 128 != 0

/-- This module's share of a launch; an error is its CAUSE, 0x01, 0x0A or 0x0B (DEDUCED, log 19). -/
def State.readShare (s : State) (c : Context) (x : Nat) : Except Nat Share :=
  let r := recordFields x
  if r.pgt = 0 then .ok ⟨0, 0, r.teams, [], []⟩
  else if r.pgtRanks = 0 || 2 ^ 20 < r.pgtRanks then .error 0x0A
  else
    match s.readVa c r.pgt (32 * r.pgtRanks) with
    | none => .error 0x0A
    | some bs =>
      let es := recordsOf 32 r.pgtRanks bs
      match es.zipIdx.filter fun e => bitsAt e.1 0 64 == s.devId.toNat with
      | [(e, k)] =>
        if bitsAt e 152 104 != 0 then .error 0x01
        else if r.teams < bitsAt e 64 32 + bitsAt e 96 32 then .error 0x0A
        else
          let n := r.pgtRanks
          let peers := ([(k + n - 1) % n, (k + 1) % n].filter (· != k)).map fun j => es.getD j 0
          let pod := bitsAt e 128 16
          let near := (peers.filter fun p => bitsAt p 128 16 == pod).map fun p => s.linkTo (bitsAt p 144 8)
          let far := (peers.filter fun p => bitsAt p 128 16 != pod).map fun p => bitsAt p 128 16
          if !(far.all s.netOk) then .error 0x0A
          else if near.any Option.isNone then .error 0x0B
          else .ok ⟨k, bitsAt e 64 32, bitsAt e 96 32, (near.filterMap id).eraseDups, far.eraseDups⟩
      | _ => .error 0x0A

/-! ### Backing and save area (R12, R421, R442) -/

/-- The leaves under a table, with the addresses of their entries, down to a depth. -/
def State.leavesUnder (s : State) (k : Walker) (table va : Nat) : List Nat → List (Nat × Nat × Leaf)
  | [] => []
  | level :: rest =>
    (List.range 512).flatMap fun i =>
      let pa := table + 8 * i
      let e := s.readEntry pa
      let va := va + i * 2 ^ leafSize level
      if !e.testBit 0 || entryReserved e level false then []
      else if e.testBit 1 then [(pa, va, leafOf e level va)]
      else
        match s.tableAt k (entryFrame e) level with
        | .error _ => []
        | .ok t => s.leavesUnder k t va rest

/-- The leaves of a context's tables. -/
def State.leaves (s : State) (c : Context) : List (Nat × Nat × Leaf) :=
  let k := s.walker c none
  match s.tableAt k k.root 0 with
  | .error _ => []
  | .ok t => s.leavesUnder k t 0 [0, 1, 2, 3, 4]

/-- Setting the entries of frames. -/
def State.setFrames (s : State) (fs : List Nat) (x : FrameState) : State := fs.foldl (fun s f => s.setFrame f x) s

/-- A first-tier page of a leaf, which its context's function owns: what a freeze moves (R442). -/
def State.movable (s : State) (fn : Nat) (l : Leaf) : Bool :=
  inT1 l.out && (s.imageAt? l.out).isNone && s.frame (l.out / 4096) == .owned fn

/-- The frames of a list among the `n` from one on. -/
def within (fs : List Nat) (f n : Nat) : Nat := (fs.filter fun x => f ≤ x && x < f + n).length

/-- A run of CLEAN second-tier frames whose first is a multiple of a number. -/
def State.backingRun (s : State) (n align : Nat) : Option Nat :=
  let clean := (s.frames.filter fun x => x.2 == some .clean && s.inT2 (4096 * x.1)).map Prod.fst
  clean.find? fun f => f % align == 0 && within clean f n == n

/-- A run of frames is the part's (R457). -/
def State.holdRun (s : State) (f n : Nat) : State := s.setFrames ((List.range n).map (f + ·)) (.owned 64)

/-- Runs of some sizes for pages of those sizes. -/
def State.takeRuns (s : State) : List Nat → Option (List (Nat × Nat) × State)
  | [] => some ([], s)
  | n :: ns =>
    match s.backingRun n n with
    | none => none
    | some f => ((s.holdRun f n).takeRuns ns).map fun r => ((f, n) :: r.1, r.2)

/-- The aligned blocks of leaves' sizes that frames fill, the largest first: how many frames each has. -/
def blocksIn (fs : List Nat) : List Nat → List Nat
  | [] => []
  | n :: ns =>
    let heads := fs.filter fun f => f % n == 0 && within fs f n == n
    heads.map (fun _ => n) ++ blocksIn (fs.filter fun f => !heads.contains (f / n * n)) ns

/-- The frames OWNED by a function of which a test holds. -/
def State.ownedFrames (s : State) (fn : Nat) (p : Nat → Bool) : List Nat :=
  (s.frames.filter fun x => x.2 == some (.owned fn) && p (4096 * x.1)).map Prod.fst

/-- The sizes of the runs that are to back the first-tier pages that a context may hold, and that it does not hold yet; its
first run is its save area. What it may hold is what its function owns (DESIGN CHOICE, log 29). -/
def State.unbacked (s : State) (c : Context) : List Nat :=
  ((c.reserved.drop 1).map Prod.snd).foldl List.erase (blocksIn (s.ownedFrames c.func inT1) [2 ^ 18, 2 ^ 9, 1])

/-- The save area of a context, where it holds none yet. -/
def State.takeSave (s : State) (c : Context) : Option (List (Nat × Nat) × State) :=
  let n := max 1 (Config.saveFrames c.asid)
  if c.reserved.isEmpty then (s.backingRun n 1).map fun f => ([(f, n)], s.holdRun f n) else some (c.reserved, s)

/-- Backing for the first-tier pages that a context may hold, with the save area for its work, is reserved in the second tier;
none where it cannot be (R12, R421) (DESIGN CHOICE, log 29). -/
def State.reserve (s : State) (c : Context) : Option State :=
  match s.takeSave c with
  | none => none
  | some (runs, s) =>
    (s.takeRuns (s.unbacked c)).map fun r => r.2.modContext c.asid fun c => { c with reserved := runs ++ r.1 }

/-- A context's first checkpoint reserves a second frame for every device-homed page that it may hold, in the second tier; none
where it cannot be (R445) (DESIGN CHOICE, log 29). -/
def State.reserveCkpt (s : State) (c : Context) : Option State :=
  if c.ckptReserved then some s
  else
    (s.takeRuns (blocksIn (s.ownedFrames c.func s.inDevice) [1])).map fun r =>
      r.2.modContext c.asid fun c => { c with ckptFrames := r.1, ckptReserved := true }

/-- What a launch of a context needs is reserved: backing, its save area, and with CKPT the backing of a checkpoint. -/
def State.reserveFor (s : State) (c : Context) (ckpt : Bool) : Option State :=
  (s.reserve c).bind fun s => if ckpt then (s.context? c.asid).bind s.reserveCkpt else some s

/-! ### The checks of a record (R425) -/

/-- What acceptance takes from a record. -/
structure Node where
  info    : Record
  fwd     : Bool
  param   : List (Nat × Byte)
  regions : List Region
  handles : List (BitVec 64)
  share   : Share
  hands   : Nat
  deriving DecidableEq, Repr

/-- The sparse form of a list of bytes. -/
def sparseBytes (bs : List Byte) : List (Nat × Byte) :=
  (bs.zipIdx.filter fun b => b.1 != 0#8).map fun b => (b.2, b.1)

/-- The kernel header word, where its page has a valid leaf with R and U and the read does not fail (R425). -/
def State.kernelAt (s : State) (c : Context) (va : DWord) : Option Nat :=
  match s.translateSys c va .read with
  | .error _ => none
  | .ok t =>
    let pa := t.pa' va.toNat
    if (wordsOf pa 8).any s.poisoned then none else some (natOfBytes (s.peek pa 8))

/-- The hands of an affine pool, rounded up (R50, R226). -/
def handsOf (pool : Nat) : Nat := (pool + 63) / 64

/-- A record's first CAUSE, or what acceptance takes from it; `used` hands go to earlier nodes of the same graph. -/
def State.checkRecord (s : State) (c : Context) (va : DWord) (used : Nat) : Except Nat Node :=
  if va.toNat % 256 != 0 then .error 0x01
  else
    match s.readVa c va 256 with
    | none => .error 0x02
    | some bs =>
      let x := natOfBytes bs
      let r := recordFields x
      let share := s.readShare c x
      let aligned := r.kernel.toNat % 8 == 0
      let word := if aligned then s.kernelAt c r.kernel else some 0
      let param := if r.paramSize = 0 then some [] else s.readVa c (recordParam x) r.paramSize
      if !recordRange x || (match share with | .error e => e == 0x01 | .ok _ => false) then .error 0x01
      else
        match param, word with
        | none, _ => .error 0x02
        | _, none => .error 0x02
        | some ps, some w =>
          let fwd := w % 2 == 1
          if !r.mixtureOk then .error 0x03
          else if !aligned || !kernelWord w then .error 0x04
          else if !r.shapeOk then .error 0x05
          else if !r.needsOk then .error 0x06
          else if fwd && (recordRegions x != 0 || [1, 2, 3].any fun k => (r.role k).groups != 0) then .error 0x07
          else
            match s.readHandles c x with
            | none => .error 0x08
            | some hs =>
              match s.readRegions c x with
              | none => .error 0x09
              | some gs =>
                match share with
                | .error e => .error e
                | .ok sh =>
                  let hands := handsOf r.affinePool
                  if 2 ^ 24 - 64 < r.affinePool || 2 ^ 18 - 1 < c.deckH - 1 + c.deckA + used + hands then .error 0x0C
                  else if (s.reserveFor c r.ckpt).isNone then .error 0x0E
                  else .ok ⟨r, fwd, sparseBytes ps, gs, hs, sh, hands⟩

/-- The nodes of a graph in ascending number; the lowest refused one gives the cause (R427). -/
def State.checkNodes (s : State) (c : Context) : List DWord → Nat → Except Nat (List Node)
  | [], _ => .ok []
  | va :: vas, used =>
    match s.checkRecord c va used with
    | .error e => .error e
    | .ok n =>
      match s.checkNodes c vas (used + n.hands) with
      | .error e => .error e
      | .ok ns => .ok (n :: ns)

/-- What an entry comes to: SERIAL, and its nodes with their predecessors. -/
def State.checkEntry (s : State) (c : Context) (x : Nat) : Except Nat (Bool × List (Node × BitVec 64)) :=
  let va := BitVec.ofNat 64 x
  let graph := x.testBit 64
  if bitsAt x 192 32 != 0 || bitsAt x 80 48 != 0 || bitsAt x 68 4 != 0 || bitsAt x 128 64 % 128 != 0
      || va.toNat % (if graph then 64 else 256) != 0 then .error 0x01
  else if !graph then (s.checkRecord c va 0).map fun n => (false, [(n, 0)])
  else
    match s.readVa c va 64 with
    | none => .error 0x02
    | some bs =>
      let h := natOfBytes bs
      let count := bitsAt h 0 7
      let nodes := bitsAt h 64 64
      let bad := bitsAt h 128 384 != 0 || bitsAt h 9 55 != 0 || h.testBit 7 || count = 0 || 64 < count || nodes % 16 != 0
      match (if count = 0 then some [] else s.readVa c (BitVec.ofNat 64 nodes) (16 * count)) with
      | none => .error 0x02
      | some tb =>
        let es := recordsOf 16 count tb
        if bad then .error 0x0D
        else if es.zipIdx.any fun e => bitsAt e.1 64 64 / 2 ^ e.2 != 0 then .error 0x0D
        else
          (s.checkNodes c (es.map fun e => BitVec.ofNat 64 e) 0).map fun ns =>
            (h.testBit 8, ns.zip (es.map fun e => BitVec.ofNat 64 (e / 2 ^ 64)))

/-! ### Acceptance (R425 to R427) -/

/-- A launch starts: its teams join the waiting set, in which they wait since its acceptance (R429); with CKPT a checkpoint
comes first (R444). -/
def Launch.start (l : Launch) : Launch := { l with started := true }

/-- The launch of a node. -/
def launchOf (id asid q i : Nat) (done : DWord) (graph node now : Nat) (n : Node) (preds : BitVec 64) : Launch where
  id := id
  asid := asid
  queue := q
  entry := i
  done := done
  graph := graph
  node := node
  preds := preds
  info := n.info
  fwd := n.fwd
  param := n.param
  regions := n.regions
  handles := n.handles
  rank := n.share.rank
  firstTeam := n.share.first
  share := n.share.count
  placed := 0
  retired := 0
  links := n.share.links
  pods := n.share.pods
  accepted := now
  started := false
  complete := false

/-- An accepted entry runs: what it needs is reserved, its launches exist, a graph's with a graph run, and the Deck's
allowance grows. -/
def State.accept (s : State) (c : Context) (q i x : Nat) (serial : Bool) (ns : List (Node × BitVec 64)) : State :=
  let done := BitVec.ofNat 64 (x / 2 ^ 128)
  let graph := x.testBit 64
  let header := BitVec.ofNat 64 x
  let run := s.nextId
  let new := ns.zipIdx.map fun n =>
    launchOf (run + 1 + n.2) c.asid q i done (if graph then run else 0) n.2 s.now n.1.1 n.1.2
  let hands := (ns.map fun n => n.1.hands).foldl (· + ·) 0
  let ckpt := ns.any fun n => n.1.info.ckpt
  let s := ((s.reserveFor c ckpt).getD s).setEntry c q i 1 none none
  let s := s.modContext c.asid fun c =>
    { c with
      deckA := c.deckA + hands
      ckptWanted := c.ckptWanted || ckpt }
  { s with
    nextId := run + 1 + ns.length
    launches := s.launches ++ (if graph then new else new.map Launch.start)
    graphs := if graph then
        s.graphs ++ [⟨run, c.asid, q, i, done, header, serial, ns.length, 0⟩]
      else s.graphs }

/-- The entry at an index is accepted with STATE 1, or refused with STATE 3 and its cause. -/
def State.consider (s : State) (c : Context) (q i : Nat) (h : Queue) : Option State :=
  match s.readVa c (h.entry i) 32 with
  | none => none
  | some bs =>
    let x := natOfBytes bs
    match s.checkEntry c x with
    | .ok (serial, ns) => some (s.accept c q i x serial ns)
    | .error e => some (s.setEntry c q i 3 (some e) none)

/-- A context whose queues the scheduler considers: it runs, and no checkpoint of it is under way. -/
def Context.considered (c : Context) : Bool := c.state == .running && !c.ckptWanted

/-- The next entry of a queue: one made pending again by a rollback first (R447), else that at HEAD. -/
def State.nextEntry (s : State) (c : Context) (q : Nat) : Option (Nat × Bool × Queue) :=
  match s.queue? c q with
  | none => none
  | some h =>
    match c.again.find? fun e => e.1 == q with
    | some e => some (e.2, true, h)
    | none => if h.count = 0 then none else some (h.head, false, h)

/-- QUEUE_ENTRY_CONSIDER (R425), once the scheduler can write the entry and the header (R369). -/
def execQueueEntryConsider (asid q : Nat) (s : State) : Host.Outcome State Fault Refusal :=
  match s.context? asid with
  | none => .next s
  | some c =>
    if !c.considered || 8 ≤ q then .next s
    else
      match s.nextEntry c q with
      | none => .next s
      | some (i, again, h) =>
        if !s.writesFree c (h.writes c q i) then .next (s.writesDemand c (h.writes c q i))
        else match s.consider c q i h with
        | none => .next s
        | some t =>
          if again then .next (t.modContext asid fun c => { c with again := c.again.filter (· != (q, i)) })
          else .next (t.setHead c q ((i + 1) % 2 ^ 16))

/-- A node of a running graph that may start: its predecessors have completed, and with SERIAL so has every earlier run of
the same graph (R427). -/
def State.nodeReady (s : State) (l : Launch) : Bool :=
  !l.started && l.graph != 0 &&
    match findId Graph.id s.graphs l.graph with
    | none => false
    | some g => l.preds &&& g.ended == l.preds && !(g.serial && s.graphs.any fun h => h.asid == g.asid && h.header == g.header && h.id < g.id)

/-- GRAPH_NODE_START (R427). -/
def execGraphNodeStart (id : Nat) (s : State) : Host.Outcome State Fault Refusal :=
  match s.launch? id with
  | none => .next s
  | some l => .next (if s.nodeReady l then s.modLaunch id Launch.start else s)

/-! ### LAUNCH (R428) -/

/-- The alignment that LAUNCH requires and does not find: of the record's address, and then of DONE's. -/
def launchAlign (c : Ictx) : Option FaultRecord :=
  (alignCheck c (if c.f.mod == 1 then 64 else 256) [(c.lead, (c.a64 c.lead).toNat)]).or
    (alignCheck c 128 [(c.lead, (c.b64 c.lead).toNat)])

/-- The entry that LAUNCH writes (R423). -/
def launchEntry (c : Ictx) : List Byte :=
  bytesOfNat 8 (c.a64 c.lead).toNat ++ bytesOfNat 8 (if c.f.mod == 1 then 1 else 0)
    ++ bytesOfNat 8 (c.b64 c.lead).toNat ++ bytesOfNat 8 0

/-- LAUNCH (R428): the index is known at issue and lands later. It releases at DEVICE: what its CU has sent is accepted first; it
waits for the tokens of that, and of its own writes (R369). A full queue, and one that R422 ignores, take no entry. -/
def execLaunch (f : Fields) (s : State) : Host.Outcome State Fault Refusal :=
  once (.launch f) f (fun c s =>
    match launchAlign c, s.contextOf? c.g with
    | some r, _ => .trap r
    | none, none => .done s
    | none, some ctx =>
      let answer := fun (s : State) (r : Word) =>
        Effect.done (s.start c [f.dst.toNat] c.parts (.result (c.each fun _ => r) []))
      match s.settleSent c.g.cu with
      | none => .hold fun s => s.demandSent c.g.cu
      | some s =>
      match s.queue? ctx 7 with
      | none => answer (s.countError eDoorbell) 0xFFFFFFFF#32
      | some h =>
        if 2 ^ h.log2 ≤ h.count then answer s 0xFFFFFFFF#32
        else if !s.writesFree ctx (h.writes ctx 7 h.tail) then .hold fun s => s.writesDemand ctx (h.writes ctx 7 h.tail)
        else
          let s := s.writeVa ctx (h.entry h.tail) (launchEntry c)
          answer (s.setTail ctx 7 ((h.tail + 1) % 2 ^ 16)) (BitVec.ofNat 32 h.tail)) s

end Sys2Proof.Machine
end

