-- ==== Sys2Proof/Machine/Schedule.lean ====
section
/-!
DEFINITION. Placement and completion (26, R429 to R432; 02, R30 to R34, R47 to R49, R59; 17, R303 to R305): the waiting
set, the sets of CUs that can hold a team, placing, swapping out, retiring, and the meanings of TEAM_PLACE,
SPAWN_GROUP_LAUNCH, SPAWN_BIN_TIMER_EXPIRY, SRAM_WAY_CONVERT, FORWARD_PROGRESS_SWAP, PREEMPT_BY_CLASS, BANK_SWITCH,
ROW_SWAP, WASTE_ROW_SPILL, GROUP_RETIRE and LAUNCH_COMPLETE.
-/
namespace Sys2Proof.Machine

/-! ### The waiting set (R429) -/

/-- Work that waits: the next team of a launch, a team swapped out, or a pending spawn group. -/
inductive Job where
  | first (l : Nat)
  | back (t : Nat)
  | spawn (p : Nat)
  deriving DecidableEq, Repr

/-- Work with what orders it and what it needs: CUs, number within the team and registers of each group, scratchpad and
tags. -/
structure Work where
  job     : Job
  asid    : Nat
  sclass  : Nat
  prio    : Nat
  start   : Nat
  cus     : Nat
  order   : List (Nat × Nat)
  scratch : Nat
  tags    : Nat
  /-- The die that a spawn group must run on (R49). -/
  die     : Option Nat
  /-- The CUs in whose Waste its rows lie: it can be placed on no others (R436). -/
  own     : Option (List Nat)
  deriving DecidableEq, Repr

/-- The launch and context of some work run, no checkpoint holds them, and no break for the partition's shape has dependants
still to patch (R416). -/
def State.mayPlace (s : State) (asid : Nat) : Bool :=
  match s.context? asid with
  | some c => c.considered && !s.shapePending asid
  | none => false

/-- A team's tags (R48). -/
def State.tagNeed (s : State) (t : Team) : Nat :=
  if t.spawn then 0 else ((s.launch? t.launch).map fun l => l.info.tags).getD 0

/-- The waiting work of launches that have unplaced teams. -/
def State.firstWork (s : State) : List Work :=
  (s.launches.filter fun l => l.started && l.placed < l.share).map fun l =>
    ⟨.first l.id, l.asid, l.info.sclass, l.info.prio, l.accepted, l.info.teamCus,
      l.info.order.zipIdx.map fun g => (g.2, g.1.2), l.info.scratchKib,
      l.info.tags, none, none⟩

/-- An instruction that orders others: ACQ, REL or FENCE. -/
def Op.orders (o : Op) : Bool :=
  match o.kind with
  | .access accs _ => accs.any fun a => match a.op with | .rel _ _ _ => true | _ => false
  | .acquire _ _ _ _ => true
  | .fence _ _ => true
  | _ => false

/-- A swapped-out team may be offered: no ordering instruction that one of its groups issued is outstanding (R362), and none
of its groups is a dependant whose image is still to be patched (R411). -/
def State.mayReturn (s : State) (t : Team) : Bool :=
  (s.groups.filter fun g => g.team == t.id).all fun g => !s.toRedirect g.id && g.ops.all fun o => o.done || !o.orders

/-- The work of a team swapped out. -/
def State.workOfTeam (s : State) (t : Team) : Work :=
  let rec' := (s.launch? t.launch).map Launch.info
  ⟨.back t.id, t.asid, (rec'.map Record.sclass).getD 0, (rec'.map Record.prio).getD 0, t.waitStart, t.cus.length,
    (s.groups.filter fun g => g.team == t.id).map fun g => (g.index, g.nregs), t.scratchKib, s.tagNeed t, none,
    if t.residency == .waste then some t.cus else none⟩

/-- The teams swapped out. -/
def State.backWork (s : State) : List Work :=
  (s.teams.filter fun t => (t.residency == .waiting || t.residency == .waste) && s.mayReturn t).map s.workOfTeam

/-- The pending groups of the dies (R49). -/
def State.spawnWork (s : State) : List Work :=
  s.pending.map fun p =>
    let rec' := (s.launch? p.launch).map Launch.info
    ⟨.spawn p.id, p.asid, (rec'.map Record.sclass).getD 0, (rec'.map Record.prio).getD 0, p.closed, 1,
      [(0, spawnRegs p.word)], spawnScratch p.word, 0, some p.die, none⟩

/-- The order in which teams are offered (R429). -/
def Work.before (a b : Work) : Bool :=
  if a.sclass != b.sclass then b.sclass < a.sclass
  else if a.prio != b.prio then b.prio < a.prio
  else a.start ≤ b.start

/-- The waiting set in the order in which it is offered. -/
def State.works (s : State) : List Work :=
  sortBy Work.before ((s.firstWork ++ s.backWork ++ s.spawnWork).filter fun w => s.mayPlace w.asid)

/-! ### Where a team fits (R30, R33, R430, R453, R454) -/

/-- The resident teams of a CU. -/
def State.teamsOn (s : State) (c : Nat) : List Team := s.teams.filter fun t => t.residency == .resident && t.cus.contains c
/-- The resident groups of a CU. -/
def State.groupsOn (s : State) (c : Nat) : List Group := s.groups.filter fun g => g.cu == c && s.resident g.team
/-- 64 KiB blocks of a need. -/
def blocksOf (kib : Nat) : Nat := (kib + 63) / 64
/-- Blocks that the resident teams of a CU need. -/
def State.blocksNeeded (s : State) (c : Nat) : Nat := (s.teamsOn c).foldl (fun n t => n + blocksOf t.scratchKib) 0

/-- A CU may take new teams: it is neither hot nor barred (R430). -/
def State.eligible (s : State) (c : Nat) : Bool := !(s.cu c).hot && (s.cu c).barUntil ≤ s.now

/-- A logical CU of the work, to which its groups go by their numbers (R31), fits a CU (R33): rows, groups, scratchpad with
two L1 blocks left, and tags. A team's 32 barriers bound it alone: R33 asks for none on the CU (R22) (DESIGN CHOICE,
log 54). -/
def State.fits (s : State) (w : Work) (c k : Nat) : Bool :=
  let mine := (w.order.filter fun g => g.1 % w.cus == k).map Prod.snd
  let there := s.groupsOn c
  s.eligible c
    && (there.map fun g => rowsOf g.nregs).foldl (· + ·) 0 + (mine.map rowsOf).foldl (· + ·) 0 ≤ 4096
    && there.length + mine.length ≤ 48
    && s.blocksNeeded c + blocksOf w.scratch ≤ 14
    && (s.teamsOn c).foldl (fun n t => n + s.tagNeed t) 0 + w.tags ≤ 64

/-- Giving each logical CU a CU of its own. -/
def assign (fits : Nat → Nat → Bool) : List Nat → List Nat → Option (List Nat)
  | [], _ => some []
  | k :: ks, free => free.findSome? fun c =>
      if fits c k then (assign fits ks (free.erase c)).map (c :: ·) else none

/-- A cluster on which a context's teams may run: its function's partition uses the cluster's port (R453, R454), and no reclaim of it
is under way (R456). -/
def State.clusterOpen (s : State) (asid cluster : Nat) : Bool :=
  match s.context? asid with
  | some c => cluster < 32 && !s.reclaiming cluster && (s.func c.func).bound.isSome && s.portPart cluster == (s.func c.func).bound
  | none => false

/-- A CU is one on which the work can be, its rows being in no Waste or in the Waste there (R436). -/
def Work.at (w : Work) (c k : Nat) : Bool := w.own.all fun cus => cus.getD k 256 == c

/-- A set of CUs of a cluster that holds the work, one of them `must` where that is named. -/
def State.setOf (s : State) (w : Work) (cluster : Nat) (must : Option Nat) : Option (List Nat) :=
  let cus := (List.range 8).map (8 * cluster + ·)
  let fits := fun c k => w.at c k && s.fits w c k
  let die := match w.die with
    | some d => cluster / 8 == d
    | none => true
  if !die || !s.clusterOpen w.asid cluster then none
  else
    match must with
    | none => assign fits (List.range w.cus) cus
    | some c =>
      (List.range w.cus).findSome? fun j => assign (fun d k => (k == j) == (d == c) && fits d k) (List.range w.cus) cus

/-- Some cluster holds the work. -/
def State.placeable (s : State) (w : Work) : Bool := (List.range 32).any fun cl => (s.setOf w cl none).isSome

/-- The work that is placed next: a team that cannot be placed holds no later one back (R429). -/
def State.nextWork (s : State) : Option Work := s.works.find? s.placeable

/-! ### Placing (R30, R31, R34, R303 to R305, R362, R440) -/

/-- The quadrant of a new group (R31). -/
def State.quadFor (s : State) (c : Nat) : Nat :=
  let n := fun q => ((s.groupsOn c).filter fun g => g.quad == q).length
  [1, 2, 3].foldl (fun b q => if n q < n b then q else b) 0

/-- The lines of an L1 that no longer fit its ways (R304): in each of its 512 sets, those beyond them (DESIGN
CHOICE, log 6). -/
def linesBeyond (ws : List (Nat × L1Word)) (ways : Nat) : List Nat :=
  let lines := (ws.map fun w => w.1 / 32).eraseDups
  lines.filter fun l => ways ≤ (lines.filter fun m => m % 512 == l % 512 && m < l).length

/-- A way of a CU's L1 becomes scratchpad (R305): the lines it leaves without a place are written home and invalidated. -/
def State.convertWay (s : State) (c : Nat) : State :=
  let left := 15 - (s.cu c).scratchBlocks
  let gone := linesBeyond (s.cu c).l1 left
  (s.evictAll c fun w => gone.contains (w / 32)).modCu c fun k => { k with scratchBlocks := k.scratchBlocks + 1 }

/-- The converted blocks that the work awaits on a CU are there. -/
def State.converted (s : State) (w : Work) (c : Nat) : Bool :=
  s.blocksNeeded c + blocksOf w.scratch ≤ (s.cu c).scratchBlocks

/-- Every block that no resident team holds returns to the L1, empty (R304). -/
def State.returnBlocks (s : State) (cus : List Nat) : State :=
  cus.foldl (fun (s : State) c => s.modCu c fun k => { k with scratchBlocks := s.blocksNeeded c }) s

/-- What placement does to a CU: the L1 is invalidated in full (R362, R428), and the forward-progress timer starts
(DEDUCED, log 31). -/
def State.prepare (s : State) (cus : List Nat) : State :=
  cus.foldl (fun (s : State) c => (s.invalidateL1 c fun _ => true).modCu c fun k => { k with lastIssue := s.now }) s

/-- After a switch in, the codebooks that launches read on some CUs are read again (R178). -/
def State.rereadBooks (s : State) (launches : List Nat) (cus : List Nat) : State :=
  cus.foldl (fun (s : State) c => s.modCu c fun k => { k with books := k.books.filter fun b => !launches.contains b.1 }) s

/-- A group joins its quadrant (R31). -/
def State.addGroup (s : State) (team index role nregs : Nat) (fwd : Bool) (cu : Nat) (lanes : List Lane)
    (regs : List (Nat × Word)) : State :=
  let g := Group.fresh s.nextId team index role nregs fwd cu (s.quadFor cu) lanes
  { s with groups := s.groups ++ [{ g with regs := regs, lastIssue := s.now }], nextId := s.nextId + 1 }

/-- A team that nothing has run in, placed now, and what its wait began with. -/
def Team.new (id launch asid number : Nat) (spawn : Bool) (cus : List Nat) (scratchKib start now : Nat) : Team where
  id := id
  launch := launch
  asid := asid
  number := number
  spawn := spawn
  cus := cus
  spos := cus.map (· % 8)
  scratchKib := scratchKib
  scratch := []
  poison := []
  tags := cus.map fun _ => 0
  barriers := []
  rings := []
  residency := .resident
  waitStart := start
  placedAt := now
  blockedAt := none

/-- The next team of a launch is placed on CUs. -/
def State.placeFirst (s : State) (l : Launch) (cus : List Nat) : State :=
  let s := s.prepare cus
  let t := s.nextId
  let s := { s with
    teams := s.teams ++ [Team.new t l.id l.asid (l.firstTeam + l.placed) false cus l.info.scratchKib l.accepted s.now]
    nextId := t + 1 }
  let s := s.modLaunch l.id fun l => { l with placed := l.placed + 1 }
  let lanes := List.replicate 32 (Lane.start (l.info.kernel + 8))
  l.info.order.zipIdx.foldl (fun (s : State) g =>
    s.addGroup t g.2 g.1.1 g.1.2 l.fwd (cus.getD (g.2 % cus.length) 0) lanes []) s

/-- A team that was swapped out is placed (R440): its groups go to their logical CUs, and to quadrants anew; one
parked on a fault makes its step again (R152). -/
def State.placeBack (s : State) (t : Team) (cus : List Nat) : State :=
  let s := (s.prepare cus).rereadBooks [t.launch] cus
  let mine := (s.groups.filter fun g => g.team == t.id).map Group.id
  let s := s.modTeam t.id fun t => { t with cus := cus }
  let s := mine.foldl (fun (s : State) id => s.modGroup id fun g => { g with cu := 256 }) s
  let s := s.modTeam t.id fun t => { t with residency := .resident, placedAt := s.now, blockedAt := none }
  mine.foldl (fun (s : State) id =>
    match s.group? id with
    | none => s
    | some g =>
      let c := cus.getD (g.index % cus.length) 0
      s.putGroup { g with cu := c, quad := s.quadFor c, parked := none }) s

/-- The number of a new spawn team: the least that no live spawn team of the launch has (R48); the spec asks only that it be
unique among them (DESIGN CHOICE, log 55). -/
def State.spawnNumber (s : State) (launch : Nat) : Nat :=
  let used := (s.teams.filter fun t => t.spawn && t.launch == launch).map Team.number
  ((List.range (used.length + 1)).find? fun n => !used.contains n).getD 0

/-- The arguments of a spawned group's lanes (R48). -/
def spawnArgs (nregs : Nat) (records : List ThreadRecord) : List (Nat × Word) :=
  records.zipIdx.foldl (fun m r =>
    ((r.1.args.take (min 4 nregs)).zipIdx).foldl (fun m a => sset 0#32 m (regKey a.2 r.2) a.1) m) []

/-- A pending group is placed as a spawn team of one group (R48, R49). -/
def State.placeSpawn (s : State) (p : Pending) (cu : Nat) : State :=
  let s := s.prepare [cu]
  let t := s.nextId
  let s := { s with
    pending := delId Pending.id s.pending p.id
    teams := s.teams ++ [Team.new t p.launch p.asid (s.spawnNumber p.launch) true [cu] (spawnScratch p.word) p.closed s.now]
    nextId := t + 1 }
  let lanes := (List.range 32).map fun i => if i < p.records.length then Lane.start (p.entry + 8) else Lane.gone
  s.addGroup t 0 0 (spawnRegs p.word) (p.word % 2 == 1) cu lanes (spawnArgs (spawnRegs p.word) p.records)

/-- An operation of a group that does not keep its team: it is performed, or goes on from the saved state: an ASDROP, a
collective where those may (R442), or a write that is kept for a revocation (R22, R264, R402, R412). -/
def State.atRest (s : State) (coll : Bool) (g : Group) (o : Op) : Bool :=
  o.done || (o.late.isEmpty &&
    match o.kind with
    | .coll _ _ => coll
    | .drop _ => true
    | .access accs _ => accs.all (s.keptLong g.id o.id)
    | .copy [] op lines (.counter va pa) => op != .fetch && s.keptLong g.id o.id (counterAccess va pa lines)
    | .copy ms op _ _ => op != .fetch && !ms.isEmpty
        && ms.all fun m => s.keptLong g.id o.id (m.writes (.store (List.replicate m.size 0)))
    | _ => false)

/-- The groups of a team. -/
def State.groupsOf (s : State) (t : Nat) : List Group := s.groups.filter fun g => g.team == t

/-- Every operation of a team is performed or goes on from the saved state. -/
def State.teamRests (s : State) (coll : Bool) (t : Nat) : Bool := (s.groupsOf t).all fun g => g.ops.all (s.atRest coll g)

/-- The registrations that some CUs have sent are accepted, where they can be. -/
def State.settleCus (s : State) : List Nat → Option State
  | [] => some s
  | c :: cs => (s.settleSent c).bind fun s => s.settleCus cs

/-- What the registrations of some CUs wait for is asked for. -/
def State.demandCus (s : State) (cus : List Nat) : State := cus.foldl State.demandSent s

/-- The words that a group's sleeping MWAITs and armed monitors watch, each by its address and size (R121, R332). -/
def Group.watching (g : Group) : List (DWord × Nat) :=
  ((List.range 2).flatMap fun h => match g.wait h with
    | .mwait _ f lanes _ => ((List.range 32).filter lanes.has).map fun i =>
        (g.reg64 f.srca.toNat i, if f.mod.getLsbD 0 then 8 else 4)
    | _ => [])
    ++ ((List.range 4).filter fun k => (g.monitor k).armed).map fun k =>
        ((g.monitor k).va, if (g.monitor k).wide then 8 else 4)

/-- The CUs that have sent a registration for a word that a team watches: a store that has completed there is not missed when
the team resumes (R332, R356). -/
def State.sentToWatched (s : State) (t : Team) : List Nat :=
  match s.context? t.asid with
  | none => []
  | some c =>
    let ws := (s.groupsOf t.id).flatMap fun g => g.watching.filterMap fun x =>
      match s.translateSys c x.1 .read with
      | .ok e => some ⟨x.1, 0, e.pa' x.1.toNat, x.2⟩
      | .error _ => none
    ((s.sentIn ws).map Prod.fst).eraseDups

/-- A team that was swapped out is placed once what it watches has been brought up to date (R356), and, where its rows lie in
the Waste, once what it had issued has been performed (R75, R436). -/
def State.bringBack (s : State) (t : Team) (cus : List Nat) : State :=
  if !(t.residency == .waiting || (t.residency == .waste && t.cus == cus && s.teamRests true t.id)) then s
  else
    match s.settleCus (s.sentToWatched t) with
    | some s => s.placeBack t cus
    | none => s.demandCus (s.sentToWatched t)

/-- Placing work on CUs, where their blocks are converted (R305). -/
def State.placeWork (s : State) (w : Work) (cus : List Nat) : State :=
  if !(cus.all (s.converted w)) then s
  else
    match w.job with
    | .first l => ((s.launch? l).map fun l => s.placeFirst l cus).getD s
    | .back t => ((s.team? t).map fun t => s.bringBack t cus).getD s
    | .spawn p => ((findId Pending.id s.pending p).map fun p => s.placeSpawn p (cus.getD 0 0)).getD s

/-- TEAM_PLACE (R429): `t` is a team that was swapped out, or a launch whose next team is placed. -/
def execTeamPlace (t cluster : Nat) (s : State) : Host.Outcome State Fault Refusal :=
  match s.nextWork with
  | none => .next s
  | some w =>
    if w.job == .first t || w.job == .back t then
      match s.setOf w cluster none with
      | some cus => .next (s.placeWork w cus)
      | none => .next s
    else .next s

/-- SPAWN_GROUP_LAUNCH (R49): the pending group of a die's queue that is placed next. -/
def execSpawnGroupLaunch (die cu : Nat) (s : State) : Host.Outcome State Fault Refusal :=
  match s.nextWork with
  | none => .next s
  | some w =>
    if w.die == some die then
      match s.setOf w (cu / 8) (some cu) with
      | some cus => .next (s.placeWork w cus)
      | none => .next s
    else .next s

/-- SRAM_WAY_CONVERT (R304, R305): one way of a CU on which the next team is to be placed. -/
def execSramWayConvert (c : Nat) (s : State) : Host.Outcome State Fault Refusal :=
  match s.nextWork with
  | none => .next s
  | some w =>
    match s.setOf w (c / 8) none with
    | none => .next s
    | some cus => .next (if cus.contains c && !s.converted w c then s.convertWay c else s)

/-- A bin closes now (R47): its timer has expired or it is full, and its context is not switched out. -/
def State.binDue (s : State) (b : Bin) : Bool :=
  (b.left == 0 || Config.binRecords ≤ b.records.length)
    && ((s.context? b.asid).map fun c => c.state == .running).getD false

/-- SPAWN_BIN_TIMER_EXPIRY (R47): the bin closes where its die's queue has room. -/
def execSpawnBinTimerExpiry (die id : Nat) (s : State) : Host.Outcome State Fault Refusal :=
  match findId Bin.id s.bins id with
  | some b => .next (if b.die == die && s.binDue b then s.closeBin b else s)
  | none => .next s

/-! ### Swapping out (R432, R435 to R438) -/

/-- The CUs of a team. -/
def State.cusOfTeam (s : State) (t : Nat) : List Nat := ((s.team? t).map Team.cus).getD []

/-- The drains of some teams, as far as they can go. -/
def State.drainTeams (s : State) (ts : List Nat) : State :=
  ts.foldl (fun (s : State) t => ((s.groupsOf t).map Group.id).foldl (fun (s : State) g => s.drainGroup g) s) s

/-- A team leaves its CUs with its rows spilled, or halted in the Waste (R436, R437). -/
def State.leaveAs (s : State) (r : Residency) (t : Nat) : State :=
  s.modTeam t fun t => { t with residency := r, waitStart := s.now }

/-- Teams leave, and the blocks that nothing holds return to the L1 (R304). -/
def State.allLeave (s : State) (r : Residency) (ts : List Nat) : State :=
  (ts.foldl (State.leaveAs · r) s).returnBlocks (ts.flatMap s.cusOfTeam).eraseDups

/-- No group of some teams has a revocation to acknowledge: the CU does so before a switch (R26). -/
def State.mayLeave (s : State) (ts : List Nat) : Bool := ts.all fun t => (s.groupsOf t).all fun g => !s.unacked g

/-- A row swap of some teams (R437): their drains complete, and then they leave; `false` where they have not yet. A collective
is among the drains, but for a freeze and a reclaim (R442) (DESIGN CHOICE, log 25). -/
def State.swapOut (s : State) (coll : Bool) (ts : List Nat) : Bool × State :=
  let s := s.drainTeams ts
  let cus := (ts.flatMap s.cusOfTeam).eraseDups
  if !s.mayLeave ts || !(ts.all (s.teamRests coll)) then (false, s)
  else
    match s.settleCus cus with
    | some s => (true, s.allLeave .waiting ts)
    | none => (false, s.demandCus cus)

/-- The state as it would be without some teams. -/
def State.without (s : State) (ts : List Nat) : State :=
  { s with teams := s.teams.map fun t => if ts.contains t.id then { t with residency := .waiting } else t }

/-- The Waste's rows of a team are spilled once its drains have written them, and all that it has issued is performed (R276,
R298, R362, R436). -/
def State.spillRows (s : State) (t : Nat) : State :=
  if ((s.team? t).map Team.residency) != some .waste || !s.teamRests true t then s
  else
    match s.settleCus (s.cusOfTeam t) with
    | some s => s.modTeam t fun t => { t with residency := .waiting }
    | none => s.demandCus (s.cusOfTeam t)

/-! ### Which teams leave, for which work (R432, R438) -/

/-- A group is blocked (R432): in a wait, parked with no issue address, or parked on a fault. -/
def State.blocked (s : State) (g : Group) : Bool :=
  g.parked.isSome || (g.trapWait.isNone && g.live != 0 && s.fronts g == [])

/-- A team is blocked: each of its groups is, or has retired. -/
def State.teamBlocked (s : State) (t : Nat) : Bool := (s.groupsOf t).all s.blocked

/-- The service class of a team. -/
def State.classOfTeam (s : State) (t : Team) : Nat := ((s.launch? t.launch).map fun l => l.info.sclass).getD 0

/-- The smallest first part of a list of teams whose leaving makes room, one team at least, cut to the teams on the CUs
chosen. -/
def State.roomBy (s : State) (w : Work) (cluster : Nat) (must : Option Nat) (ts : List Nat) : Option (List Nat × List Nat) :=
  (List.range ts.length).findSome? fun n =>
    let out := ts.take (n + 1)
    ((s.without out).setOf w cluster must).map fun cus =>
      (out.filter fun t => (s.cusOfTeam t).any cus.contains, cus)

/-- No resident group of a CU has issued for N ticks (R432). -/
def State.quiet (s : State) (c : Nat) : Bool := (s.cu c).lastIssue + 2 ^ s.regs.log2n ≤ s.now

/-- The blocked teams of a CU: the lowest class first, and then the longest blocked. -/
def State.blockedOn (s : State) (c : Nat) : List Nat :=
  let since := fun t : Team => t.blockedAt.getD s.now
  (sortBy (fun a b : Team => s.classOfTeam a < s.classOfTeam b
      || (s.classOfTeam a == s.classOfTeam b && since a ≤ since b))
    ((s.teamsOn c).filter fun t => s.teamBlocked t.id)).map Team.id

/-- The teams of a lower class than the work, in the order in which they leave (R438): the lowest class first, and then
the most recently placed. -/
def State.lowerTeams (s : State) (w : Work) (cluster : Nat) : List Nat :=
  (sortBy (fun a b : Team => s.classOfTeam a < s.classOfTeam b
      || (s.classOfTeam a == s.classOfTeam b && b.placedAt ≤ a.placedAt))
    (s.teams.filter fun t => t.residency == .resident && s.classOfTeam t < w.sclass
      && t.cus.any fun c => c / 8 == cluster)).map Team.id

/-- Work to place on CUs, and the teams that leave for it. -/
structure Switch where
  work : Work
  out  : List Nat
  cus  : List Nat
  deriving DecidableEq, Repr

/-- What leaves a CU for forward progress, and what for (R432): of the work that has no room with the CU now and would have it,
that of the earliest start. -/
def State.progressOn (s : State) (c : Nat) : Option Switch :=
  if !s.quiet c then none
  else
    let ts := s.blockedOn c
    let can := s.works.filterMap fun w =>
      if (s.setOf w (c / 8) (some c)).isSome then none
      else (s.roomBy w (c / 8) (some c) ts).map fun r => (⟨w, r.1, r.2⟩ : Switch)
    (sortBy (fun a b : Switch => a.work.start ≤ b.work.start) can).head?

/-- What leaves a cluster for work of a higher class (R438). -/
def State.classOn (s : State) (w : Work) (cluster : Nat) : Option Switch :=
  if s.placeable w then none
  else (s.roomBy w cluster none (s.lowerTeams w cluster)).map fun r => ⟨w, r.1, r.2⟩

/-- The work for which teams of a lower class leave: the first in the order in which work is offered that can be placed as
things stand or so, where it is so (R429, R438). -/
def State.preempting (s : State) : Option Work :=
  (s.works.find? fun w => s.placeable w || (List.range 32).any fun cl => (s.classOn w cl).isSome).filter fun w => !s.placeable w

/-- What leaves a CU: for forward progress, or else for a higher class. -/
def State.switchOn (s : State) (c : Nat) : Option Switch :=
  (s.progressOn c).or
    ((s.preempting.bind fun w => s.classOn w (c / 8)).filter fun x => x.out.any fun t => (s.cusOfTeam t).contains c)

/-! ### Bank switches and row swaps (R435 to R437) -/

/-- Every team of the CUs leaves, and the incoming one's blocks can be loaded beside those of the outgoing teams: a bank switch;
else it is a row swap (R435, R437) (DESIGN CHOICE, log 25). -/
def State.bankable (s : State) (x : Switch) : Bool :=
  ((x.out.flatMap s.cusOfTeam).eraseDups.all fun c => (s.teamsOn c).all fun t => x.out.contains t.id)
    && x.cus.all fun c => s.blocksNeeded c + blocksOf x.work.scratch ≤ 14

/-- Of teams with their rows, those that leave until the rest are at most some number of rows. -/
def claimBeyond (room : Nat) : List (Nat × Nat) → List Nat
  | [] => []
  | x :: xs => if ((x :: xs).map Prod.snd).sum ≤ room then [] else x.1 :: claimBeyond room xs

/-- The teams whose rows a load of work into the Waste of its CUs claims: of each CU the oldest first, in whole teams (R436)
(DESIGN CHOICE, log 25). -/
def State.claimed (s : State) (w : Work) (cus : List Nat) : List Nat :=
  (cus.zipIdx.flatMap fun x =>
    let rows := fun t => (((s.groupsOf t).filter fun g => g.cu == x.1).map fun g => rowsOf g.nregs).sum
    let there := s.teams.filter fun t => t.residency == .waste && t.cus.contains x.1 && w.job != .back t.id
    let mine := ((w.order.filter fun g => g.1 % w.cus == x.2).map fun g => rowsOf g.2).sum
    claimBeyond (4096 - mine) (there.map fun t => (t.id, rows t.id))).eraseDups

/-- The blocks that work needs on CUs are converted (R305). -/
def State.convertFor (s : State) (w : Work) (cus : List Nat) : State :=
  cus.foldl (fun (s : State) c => (List.range 16).foldl (fun (s : State) _ =>
    if s.converted w c then s else s.convertWay c) s) s

/-- A bank switch (R435): the incoming team's rows and blocks are loaded first, the rows that this claims being spilled, and it
waits for their drains; then the outgoing teams halt in the Waste, and the incoming team runs. -/
def State.bankSwitch (s : State) (x : Switch) : State :=
  let lost := s.claimed x.work x.cus
  let s := lost.foldl State.spillRows (s.drainTeams lost)
  if !(s.claimed x.work x.cus).isEmpty || !s.mayLeave x.out then s
  else
    let s := s.convertFor x.work x.cus
    ((x.out.foldl (State.leaveAs · .waste) s).placeWork x.work x.cus).returnBlocks (x.out.flatMap s.cusOfTeam).eraseDups

/-- A row swap for work (R437): it is placed once the teams have left and their rows and blocks are free. -/
def State.rowSwap (s : State) (x : Switch) : State :=
  let r := s.swapOut false x.out
  if r.1 then (r.2.convertFor x.work x.cus).placeWork x.work x.cus else r.2

/-- Teams leave and work is placed: by a bank switch where there can be one. -/
def State.switch (s : State) (x : Switch) : State := if s.bankable x then s.bankSwitch x else s.rowSwap x

/-- FORWARD_PROGRESS_SWAP (R432). -/
def execForwardProgressSwap (c : Nat) (s : State) : Host.Outcome State Fault Refusal :=
  .next (((s.progressOn c).map s.switch).getD s)

/-- The number that an event gives work by: its team, its launch or its pending group. -/
def Job.number : Job → Nat
  | .first l => l
  | .back t => t
  | .spawn p => p

/-- PREEMPT_BY_CLASS (R438): the teams leave, and the incoming team is placed. -/
def execPreemptByClass (t cluster : Nat) (s : State) : Host.Outcome State Fault Refusal :=
  .next ((((s.preempting.filter fun w => w.job.number == t).bind fun w => s.classOn w cluster).map s.switch).getD s)

/-- Further teams of an incoming set, each as the next that is placed on the CU (R429, R435). -/
def State.alsoIncoming (s : State) (c : Nat) : List Nat → State
  | [] => s
  | t :: ts =>
    match (s.nextWork.filter fun w => w.job.number == t).bind fun w => (s.setOf w (c / 8) (some c)).map fun cus => (w, cus) with
    | none => s
    | some (w, cus) => ((s.convertFor w cus).placeWork w cus).alsoIncoming c ts

/-- BANK_SWITCH (R435): what leaves the CU leaves by a bank switch, for the first of the incoming teams, and the others follow
it where they are placed next. -/
def execBankSwitch (c : Nat) (incoming : List Nat) (s : State) : Host.Outcome State Fault Refusal :=
  match s.switchOn c, incoming with
  | some x, t :: ts => .next (if x.work.job.number == t && s.bankable x then (s.bankSwitch x).alsoIncoming c ts else s)
  | _, _ => .next s

/-- ROW_SWAP (R437): the outgoing teams leave by a row swap, where they are those that leave, and a bank switch can not be. -/
def execRowSwap (c : Nat) (outgoing : List Nat) (s : State) : Host.Outcome State Fault Refusal :=
  match s.switchOn c with
  | some x => .next (if x.out.all outgoing.contains && outgoing.all x.out.contains && !s.bankable x then s.rowSwap x else s)
  | none => .next s

/-- Some cluster holds the work, or would once teams left. -/
def State.couldPlace (s : State) (w : Work) : Bool :=
  (List.range 32).any (fun cl => (s.setOf w cl none).isSome || (s.roomBy w cl none (s.lowerTeams w cl)).isSome)
    || s.cus.any fun c => s.quiet c.1 && (s.roomBy w (c.1 / 8) (some c.1) (s.blockedOn c.1)).isSome

/-- A load claims the Waste rows of a team (R436): one by a bank switch, or the team's own for other CUs, where it has no room
on those of the Waste (DESIGN CHOICE, log 25). -/
def State.spillDue (s : State) (t : Team) : Bool :=
  t.residency == .waste && s.teamRests true t.id &&
    ((s.cus.any fun c => t.cus.contains c.1 && (s.switchOn c.1).any fun x => s.bankable x && (s.claimed x.work x.cus).contains t.id)
      || (let w := s.workOfTeam t
          s.mayPlace t.asid && !s.placeable w && s.couldPlace { w with own := none }))

/-- WASTE_ROW_SPILL (R436). -/
def execWasteRowSpill (c t : Nat) (s : State) : Host.Outcome State Fault Refusal :=
  match s.team? t with
  | some tm => .next (if tm.cus.contains c && s.spillDue tm then s.spillRows t else s)
  | none => .next s

/-! ### Retiring and completing (R59, R426) -/

/-- The context is not ending: an end takes its groups and its launches with it (R448). -/
def State.goesOn (s : State) (asid : Nat) : Bool := ((s.context? asid).map fun c => c.state != .ending).getD false

/-- A group may retire: its lanes have exited and nothing of it is outstanding. -/
def State.retires (s : State) (g : Group) : Bool := g.live == 0 && g.drained && s.goesOn (s.asidOf g)

/-- GROUP_RETIRE (R59): its state is freed, phases that it completes flip, and with the last group its team retires. -/
def execGroupRetire (id : Nat) (s : State) : Host.Outcome State Fault Refusal :=
  match s.group? id with
  | none => .next s
  | some g =>
    if !s.retires g then .next s
    else
      let s : State := { s with groups := delId Group.id s.groups id }
      match s.team? g.team with
      | none => .next s
      | some t =>
        if s.groups.any fun h => h.team == t.id then .next (s.recheckTeam t.id)
        else
          let s : State := { s with teams := delId Team.id s.teams t.id }
          let s := if t.spawn then s else s.modLaunch t.launch fun l => { l with retired := l.retired + 1 }
          .next (s.returnBlocks t.cus)

/-- Every unit of a launch's work has ended (R59). -/
def State.launchOver (s : State) (l : Launch) : Bool :=
  l.started && s.goesOn l.asid && l.placed == l.share && l.retired == l.share
    && !(s.teams.any fun t => t.launch == l.id) && !(s.bins.any fun b => b.launch == l.id)
    && !(s.pending.any fun p => p.launch == l.id)

/-- DONE's line: VALUE falls by one and SAT is set, at the line's home (R426); the watch filters catch it as a memory
counter's decrement (R291, R401) (DEDUCED, log 43). -/
def State.signalDone (s : State) (c : Context) (done : DWord) : State :=
  if done = 0 then s
  else
    match s.translateEngine c done .write with
    | .error _ => s
    | .ok t =>
      let pa := t.pa' done.toNat
      if s.caught pa .signal || s.behindHeld pa 16 then s.hold .scheduler pa .signal [] true []
      else s.poke pa ((AccessOp.signal.after (s.peek pa 16)).getD [])

/-- What steps 2 and 3 of R426 write for an entry: the queue's entry, and DONE's line. -/
def State.reportWrites (s : State) (c : Context) (q i : Nat) (done : DWord) : List (DWord × Nat) :=
  ((s.queue? c q).map fun h => h.writes c q i).getD [] ++ (if done = 0 then [] else [(done, 16)])

/-- Steps 2 and 3 of R426 for an entry: STATE, with FCODE for an end, and DONE. -/
def State.report (s : State) (asid q i state : Nat) (fcode : Option Nat) (done : DWord) : State :=
  match s.context? asid with
  | none => s
  | some c => (s.setEntry c q i state none fcode).signalDone c done

/-- A completed launch leaves; with it goes its graph run where every node has completed. What the entry's completion
reports, where it completes, is returned. -/
def State.closeLaunch (s : State) (l : Launch) : Option (Nat × Nat × DWord) × State :=
  let s : State := { s with launches := delId Launch.id s.launches l.id }
  if l.graph = 0 then (some (l.queue, l.entry, l.done), s)
  else
    match findId Graph.id s.graphs l.graph with
    | none => (none, s)
    | some g =>
      let ended := g.ended ||| (1#64 <<< l.node)
      if (List.range g.count).all ended.getLsbD then
        (some (g.queue, g.entry, g.done), { s with graphs := delId Graph.id s.graphs g.id })
      else (none, { s with graphs := updId Graph.id (fun g => { g with ended := ended }) s.graphs g.id })

/-- A launch's completion is made: its entry is reported where this completes it. -/
def State.finishLaunch (s : State) (l : Launch) : State :=
  match s.closeLaunch l with
  | (some (q, i, done), s) => s.report l.asid q i 2 none done
  | (none, s) => s

/-- What the completion of a launch writes, and with it its entry's. -/
def State.finishWrites (s : State) (l : Launch) : List (DWord × Nat) :=
  match (s.closeLaunch l).1, s.context? l.asid with
  | some (q, i, done), some c => s.reportWrites c q i done
  | _, _ => []

/-- Writes of the scheduler for a context wait for no token. -/
def State.reportFree (s : State) (asid : Nat) (xs : List (DWord × Nat)) : Bool :=
  (s.context? asid).all fun c => s.writesFree c xs

/-- What they wait for is asked for. -/
def State.reportDemand (s : State) (asid : Nat) (xs : List (DWord × Nat)) : State :=
  ((s.context? asid).map fun c => s.writesDemand c xs).getD s

/-- Step 1 of R426: every completed write is performed at SYSTEM scope, what the CUs have sent included; none where some of
it still waits. -/
def State.performAllSent (s : State) : Option State := s.settleCus (s.cus.map Prod.fst)

/-- LAUNCH_COMPLETE (R59, R426): a context that holds a checkpoint takes one first, with which the launch is reported
(R446); what it writes waits for tokens (R369). -/
def execLaunchComplete (id : Nat) (s : State) : Host.Outcome State Fault Refusal :=
  match s.launch? id with
  | none => .next s
  | some l =>
    if l.complete || !s.launchOver l then .next s
    else if ((s.context? l.asid).bind Context.checkpoint).isSome then
      .next ((s.modLaunch id fun l => { l with complete := true }).modContext l.asid fun c => { c with ckptWanted := true })
    else
      match s.performAllSent with
      | some s =>
        .next (if s.reportFree l.asid (s.finishWrites l) then s.finishLaunch l else s.reportDemand l.asid (s.finishWrites l))
      | none => .next (s.demandCus (s.cus.map Prod.fst))

end Sys2Proof.Machine
end

