-- ==== Sys2Proof/Machine/Preempt.lean ====
section
/-!
DEFINITION. Faults delivered later, ends, checkpoints and errors (27; 06, R150 to R152; 05, R140, R143; 17, R306, R307):
the meanings of TRAP_HANDLER_ENTRY, PAGE_REQUEST_SEND, PAGE_REQUEST_RESPONSE, CONTEXT_END, HANG_TIMEOUT, CKPT,
CHECKPOINT_TAKE and UNCORRECTABLE_ERROR. Freezing is in Mailbox.lean.
-/
namespace Sys2Proof.Machine

/-! ### Handler entry (R140) -/

/-- A group's fault enters its handler where no register of the group is pending. -/
def State.enterTrap (s : State) (g : Group) : State :=
  match g.trapWait with
  | some r =>
    if g.noPending then s.putGroup (g.enterHandler r (((s.launchOf? g).map fun l => l.info.trap).getD 0)) else s
  | none => s

/-- TRAP_HANDLER_ENTRY (R140). -/
def execTrapHandlerEntry (id : Nat) (s : State) : Host.Outcome State Fault Refusal :=
  match s.group? id with
  | some g => .next (s.enterTrap g)
  | none => .next s

/-! ### Page requests (R150 to R152) -/

/-- Requests of a function that are outstanding with the host. -/
def State.requestsOut (s : State) (fn : Nat) : Nat := (s.pageReqs.filter fun q => q.sent && q.func == fn).length

/-- The function may send one more request (R150). -/
def State.maySend (s : State) (fn : Nat) : Bool :=
  !(s.func fn).failed && s.requestsOut fn < min 512 (s.func fn).alloc

/-- The request is the first of its function that waits to be sent. -/
def State.nextToSend (s : State) (q : PageRequest) : Bool :=
  !q.sent && ((s.pageReqs.find? fun p => !p.sent && p.func == q.func).map PageRequest.id) == some q.id

/-- PAGE_REQUEST_SEND (R150). -/
def execPageRequestSend (id : Nat) (s : State) : Host.Outcome State Fault Refusal :=
  match findId PageRequest.id s.pageReqs id with
  | none => .next s
  | some q =>
    if s.nextToSend q && s.maySend q.func then
      .next { s with pageReqs := updId PageRequest.id (fun q => { q with sent := true }) s.pageReqs id }
    else .next s

/-- The fault on which a group is parked is that of a request's page. -/
def PageRequest.parks (q : PageRequest) (g : Group) : Option FaultRecord :=
  if q.groups.contains g.id then g.parked.filter fun r => r.addr.toNat / 4096 * 4096 == q.va else none

/-- A group parked on a request replays (R151), and the Success is counted (R152). -/
def PageRequest.replay (q : PageRequest) (g : Group) : Group :=
  match q.parks g with
  | some r => { g with parked := none, replays := g.replays + 1, lastFault := some r }
  | none => g

/-- A group takes the fault on which it is parked as TH; one to which a revocation has been delivered drops it (R26). -/
def State.deliverTo (s : State) (g : Group) (r : FaultRecord) : State :=
  if g.redirect.isSome && !g.handler then s else s.takeTrap { g with parked := none } r

/-- Every group parked on some requests takes its fault as TH. -/
def State.deliver (s : State) (qs : List PageRequest) : State :=
  let hit := s.groups.filterMap fun g => (qs.findSome? fun q => q.parks g).map fun r => (g.id, r)
  hit.foldl (fun (s : State) x =>
    match s.group? x.1 with
    | some g => s.deliverTo g x.2
    | none => s) s

/-- PAGE_REQUEST_RESPONSE (R151, R152): a response for a request that no group awaits is discarded (DEDUCED, log 23). -/
def execPageRequestResponse (id : Nat) (answer : PageAnswer) (s : State) : Host.Outcome State Fault Refusal :=
  match findId PageRequest.id s.pageReqs id with
  | none => .next s
  | some q =>
    if !q.sent then .next s
    else
      let s : State := { s with pageReqs := delId PageRequest.id s.pageReqs id }
      let s := s.modContext q.asid fun c => { c with lastProgress := s.now }
      match answer with
      | .success => .next { s with groups := s.groups.map q.replay }
      | .invalidRequest => .next (s.deliver [q])
      | .responseFailure =>
        let unsent := s.pageReqs.filter fun p => p.func == q.func && !p.sent
        let s : State := { s with pageReqs := s.pageReqs.filter fun p => !(p.func == q.func && !p.sent) }
        .next ((s.modFunc q.func fun f => { f with failed := true }).deliver (q :: unsent))

/-! ### The end of a context (R143, R448) -/

/-- One piece of a write is made at home: the watch filters catch it as any other (R401, R402). -/
def State.writePiece (s : State) (g : Group) (id : Nat) (a : Access) (pa : Nat) (bs : List Byte) : State :=
  if s.caught pa (.store bs) || s.behindHeld pa bs.length then s.hold (.group g.id id a.lane) pa (.store bs) [] true []
  else (s.performAt g { a with place := .mem pa, op := .store bs } true).2

/-- An issued write that had not completed is performed or dropped, each piece by itself (R448): a free value decides. -/
def State.mayWrite (s : State) (g : Group) (id : Nat) (a : Access) : State :=
  match a.place with
  | .mem pa =>
    if s.isHeld g.id id a.lane pa then s
    else
      match a.op.after (s.peek pa a.op.size) with
      | none => s
      | some bs => (piecesOf pa bs (bs.length + 1)).foldl (fun (s : State) p =>
          let s' : State := { s with draws := s.draws + 1 }
          if Config.writeSurvives s.draws then s'.writePiece g id a p.1 p.2 else s') s
  | _ => s

/-- The writes that are left of a copy, unit by unit (R294). -/
def State.mayMove (s : State) (g : Group) (id : Nat) (op : MoveOp) (image : List Byte) (ms : List Move) : State :=
  match op with
  | .fetch => s
  | _ => (unitsOf op.grain ms).foldl (fun (s : State) us =>
      let r := us.foldl (fun (acc : List (List Byte × List Nat) × State) m =>
        let x := acc.2.moveSource g image [] m
        (acc.1 ++ [(x.1, x.2.1)], x.2.2)) ([], s)
      (us.zip (r.2.movesWrite op us r.1)).foldl (fun (s : State) x => s.mayWrite g id (x.1.writes x.2.1)) r.2) s

/-- The writes of an operation that has not completed. -/
def State.mayFinish (s : State) (g : Group) (o : Op) : State :=
  if o.done then s
  else
    match o.kind with
    | .access accs _ => accs.foldl (fun (s : State) a => s.mayWrite g o.id a) s
    | .copy ms op _ _ => s.mayMove g o.id op [] ms
    | .coll c _ =>
      match c.image with
      | some image => s.mayMove g o.id c.op image c.dst
      | none => s
    | _ => s

/-- Of some things, those that a free value keeps. -/
def State.survivors {α : Type} (s : State) : List α → List α × State
  | [] => ([], s)
  | x :: xs =>
    let r := ({ s with draws := s.draws + 1 } : State).survivors xs
    (if Config.writeSurvives s.draws then x :: r.1 else r.1, r.2)

/-- A held write of an ending context's group is dropped or stays, to be performed in its place, in each single-copy atomic unit by
itself (R448): of lanes that go together, each lane's atomic is one. -/
def State.mayStay (s : State) (g o n : Nat) (h : Held) : State :=
  if h.op.size ≤ 8 then
    let r := s.survivors ((n, h.op) :: h.more)
    match r.1 with
    | [] => { r.2 with held := delId Held.id r.2.held h.id }
    | x :: xs =>
      { r.2 with held := updId Held.id (fun h => { h with writer := .group g o x.1, op := x.2, more := xs }) r.2.held h.id }
  else
    let units := (List.range ((h.op.size + 7) / 8)).map (h.place / 8 + ·)
    let r := s.survivors units
    if r.1.isEmpty then { r.2 with held := delId Held.id r.2.held h.id }
    else { r.2 with held := updId Held.id (fun h => { h with lost := units.filter fun u => !r.1.contains u }) r.2.held h.id }

/-- The held writes of an ending context's groups. -/
def State.mayHold (s : State) (mine : List Nat) : State :=
  s.held.foldl (fun (s : State) h =>
    match h.writer with
    | .group g o n => if mine.contains g then s.mayStay g o n h else s
    | _ => s) s

/-- The running entries of a context. -/
def State.entriesOf (s : State) (asid : Nat) : List (Nat × Nat × DWord) :=
  ((s.launches.filter fun l => l.asid == asid).map fun l => (l.queue, l.entry, l.done)).eraseDups

/-- What the reports of some entries of a context write. -/
def State.entryWrites (s : State) (asid : Nat) (es : List (Nat × Nat × DWord)) : List (DWord × Nat) :=
  ((s.context? asid).map fun c => es.flatMap fun e => s.reportWrites c e.1 e.2.1 e.2.2).getD []

/-- STATE 4 with FCODE for every running entry of a context, and DONE (R426). -/
def State.failLaunches (s : State) (asid fcode : Nat) : State :=
  (s.entriesOf asid).foldl (fun (s : State) e => s.report asid e.1 e.2.1 4 (some fcode) e.2.2) s

/-- Everything of a context's work leaves the part. -/
def State.removeWork (s : State) (asid : Nat) : State :=
  let mine := (s.groups.filter fun g => s.asidOf g == asid).map Group.id
  let cus := ((s.teams.filter fun t => t.asid == asid).flatMap Team.cus).eraseDups
  let s : State := { s with
    pageReqs := s.pageReqs.map fun q => if q.asid = asid then { q with groups := [] } else q
    groups := s.groups.filter fun g => !mine.contains g.id
    teams := s.teams.filter fun t => t.asid != asid
    launches := s.launches.filter fun l => l.asid != asid
    graphs := s.graphs.filter fun g => g.asid != asid
    bins := s.bins.filter fun b => b.asid != asid
    pending := s.pending.filter fun p => p.asid != asid
    peerData := s.peerData.filter fun p => p.asid != asid
    ports := s.ports.filter fun q => q.asid != asid || q.work.isNone
    grants := s.grants.filter fun q => q.asid != asid || q.work.isNone
    cus := s.cus.map fun c => (c.1, { c.2 with matrixQueue := c.2.matrixQueue.filter fun x => !mine.contains x.1 }) }
  s.returnBlocks cus

/-- The rest of an end (R448): issued writes are performed or dropped, assumptions are dropped and their revocations
complete, running launches are reported, and the work leaves. -/
def State.endContext (s : State) (asid fcode : Nat) : State :=
  let mine := s.groups.filter fun g => s.asidOf g == asid
  let s := mine.foldl (fun (s : State) g => g.ops.foldl (fun (s : State) o => s.mayFinish g o) s) s
  let s := (s.mayHold (mine.map Group.id)).dropContext asid
  let s := (s.failLaunches asid fcode).removeWork asid
  s.modContext asid fun c => { c with checkpoint := none, ckptWanted := false, again := [] }

/-- CONTEXT_END (R143, R448): what its reports write waits for tokens (R369). -/
def execContextEnd (asid : Nat) (s : State) : Host.Outcome State Fault Refusal :=
  match s.context? asid with
  | none => .next s
  | some c =>
    match c.state, c.ended with
    | .ending, some r =>
      let ws := s.entryWrites asid (s.entriesOf asid)
      .next (if s.reportFree asid ws then s.endContext asid r.code.toNat else s.reportDemand asid ws)
    | _, _ => .next s

/-- A context shows no progress for LIMIT_MS (R449). -/
def State.hangs (s : State) (c : Context) : Bool :=
  c.state == .running && s.regs.hangMs != 0 && c.lastProgress + s.regs.hangMs * Config.ticksPerMs ≤ s.now

/-- HANG_TIMEOUT (R449). -/
def execHangTimeout (asid : Nat) (s : State) : Host.Outcome State Fault Refusal :=
  match s.context? asid with
  | none => .next s
  | some c => .next (if s.hangs c then s.beginEnd asid (recordOf fHang 0 0 0 0) else s)

/-! ### Checkpoints (R444 to R446) -/

/-- CKPT (R444): once for the group; in handler mode it faults. The checkpoint is taken before the group issues again. -/
def execCkpt (f : Fields) (s : State) : Host.Outcome State Fault Refusal :=
  halves (.ckpt f) f (fun c s =>
    if c.g.handler then .trap (handlerState c)
    else if c.parts == 0 then .done s
    else
      match s.contextOf? c.g with
      | none => .done s
      | some ctx =>
        match s.reserveCkpt ctx with
        | none => .done (s.writeResults c (c.each fun _ => 1))
        | some s =>
          let s' := s.modContext ctx.asid fun c => { c with ckptWanted := true }
          .done ((s'.writeResults c (c.each fun _ => 0)).modGroup c.g.id fun g =>
            { g with ckpt := some (f.dst.toNat, c.parts ||| ((g.ckpt.map Prod.snd).getD 0)) })) s

/-- The tables of a context. -/
def State.tablesUnder (s : State) (k : Walker) (table : Nat) : List Nat → List Nat
  | [] => []
  | level :: rest =>
    table :: (List.range 512).flatMap fun i =>
      let e := s.readEntry (table + 8 * i)
      if !e.testBit 0 || e.testBit 1 || entryReserved e level false then []
      else
        match s.tableAt k (entryFrame e) level with
        | .error _ => []
        | .ok t => s.tablesUnder k t rest

/-- The frames that a leaf maps, through the second stage. -/
def State.framesOf (s : State) (k : Walker) (l : Leaf) : List Nat :=
  (List.range (2 ^ (l.size - 12))).filterMap fun i =>
    let ipa := l.out / 2 ^ l.size * 2 ^ l.size + 4096 * i
    match s.walk2 k ipa .any with
    | .ok m => if s.populated m.out then some (m.out / 4096) else none
    | .error _ => none

/-- The device-homed frames that a checkpoint covers (R445). -/
def State.coveredFrames (s : State) (c : Context) : List Nat :=
  let k := s.walker c none
  let tables := match s.tableAt k k.root 0 with
    | .error _ => []
    | .ok t => (s.tablesUnder k t [0, 1, 2, 3, 4]).map (· / 4096)
  (((s.leaves c).filter fun l => l.2.2.u).flatMap fun l => s.framesOf k l.2.2).eraseDups.filter fun f =>
    s.inDevice (4096 * f) && (s.imageAt? (4096 * f)).isNone && !tables.contains f

/-- A group in a checkpoint's image: a CKPT that asked for it has 2 in its destination (R444). -/
def Group.image (g : Group) : Group :=
  match g.ckpt with
  | some (d, m) => { ((lanesOf m).foldl (fun (g : Group) i => g.setReg d i 2#32) g) with ckpt := none }
  | none => g

/-- The image of a context (R439, R446). -/
def State.imageOf (s : State) (c : Context) : Checkpoint where
  clock := s.now
  groups := (s.groups.filter fun g => s.asidOf g == c.asid).map Group.image
  teams := s.teams.filter fun t => t.asid == c.asid
  launches := s.launches.filter fun l => l.asid == c.asid
  graphs := s.graphs.filter fun g => g.asid == c.asid
  bins := s.bins.filter fun b => b.asid == c.asid
  pending := s.pending.filter fun p => p.asid == c.asid
  slots := s.slots.filter fun x => x.2.asid == c.asid && x.2.state != .free
  peerData := s.peerData.filter fun p => p.asid == c.asid
  covered := s.coveredFrames c
  backing := []

/-- Launches that await a checkpoint close, and what they report is listed. -/
def State.closeAll (s : State) (ls : List Launch) : List (Nat × Nat × DWord) × State :=
  ls.foldl (fun (acc : List (Nat × Nat × DWord) × State) l =>
    let r := acc.2.closeLaunch l
    (acc.1 ++ r.1.toList, r.2)) ([], s)

/-- A checkpoint of a context whose groups have drained: it replaces the previous one, its slots stay reserved (R417), and
the completions that wait for it are reported (R446). -/
def State.takeCheckpoint (s : State) (c : Context) : State :=
  let r := s.closeAll (s.launches.filter fun l => l.asid == c.asid && l.complete)
  let s := r.2
  let k := s.imageOf c
  let s : State := { s with
    slots := s.slots.map fun x =>
      if x.2.asid = c.asid then (x.1, { x.2 with reserved := k.slots.any fun y => y.1 == x.1 }) else x
    groups := s.groups.map fun g => if s.asidOf g = c.asid then { g with ckpt := none } else g }
  let s := s.modContext c.asid fun c => { c with checkpoint := some k, ckptWanted := false }
  r.1.foldl (fun (s : State) e => s.report c.asid e.1 e.2.1 2 none e.2.2) s

/-- CHECKPOINT_TAKE (R446): every drain completes, collectives included, what the CUs have sent is performed, and the
checkpoint is taken. -/
def execCheckpointTake (asid : Nat) (s : State) : Host.Outcome State Fault Refusal :=
  match s.context? asid with
  | none => .next s
  | some c =>
    if !c.ckptWanted || c.state != .running then .next s
    else
      let mine := (s.groups.filter fun g => s.asidOf g == asid).map Group.id
      let s := mine.foldl (fun (s : State) g => s.drainGroup g) s
      if s.groups.all (fun g => s.asidOf g != asid || g.drained) then
        match s.performAllSent with
        | some s =>
          let ws := s.entryWrites asid (s.closeAll (s.launches.filter fun l => l.asid == asid && l.complete)).1
          .next (if s.reportFree asid ws then s.takeCheckpoint c else s.reportDemand asid ws)
        | none => .next (s.demandCus (s.cus.map Prod.fst))
      else .next s

/-! ### Rollback (R447) -/

/-- A covered page takes back the bytes and poison it had at the checkpoint. -/
def State.restorePage (s : State) (b : Nat × List Byte × List Nat) : State :=
  let s := (s.zeroFrame b.1).setBytes (4096 * b.1) b.2.1
  { s with poison := b.2.2.foldl (fun l w => insertNew w l) s.poison }

/-- A revocation under way at a checkpoint is under way again after the rollback: every dependant that had not acknowledged it
is sent it again (R409, R417) (DEDUCED, log 22). -/
def Revocation.renewed (v : Revocation) : Revocation := { v with toSend := v.toSend ++ v.waiting, waiting := [] }

/-- A context's slots return to their checkpointed content, but for the generations issued (R417). Held writes that had
broken one are to be evaluated again. -/
def State.restoreSlots (s : State) (asid : Nat) (k : Checkpoint) : State :=
  let mine := ((s.slots.filter fun x => x.2.asid == asid).map Prod.fst ++ k.slots.map Prod.fst).eraseDups
  let again := fun h : Held => if (h.slots.filter mine.contains).isEmpty then h else { h with evaluated := false, slots := [] }
  let s : State := { s with held := s.held.map again }
  let s := mine.foldl (fun (s : State) i => s.modSlot i fun x =>
    match k.slots.lookup i with
    | some y => { y with issued := x.issued, revocation := y.revocation.map Revocation.renewed, dropping := false, reserved := true }
    | none => { x with state := .free, watches := [], entries := 0, revocation := none, dropping := false }) s
  s.recallWatched (k.slots.flatMap fun x => x.2.watches)

/-- The entries of a context that were accepted after a checkpoint, in order of acceptance. -/
def State.acceptedSince (s : State) (asid : Nat) (k : Checkpoint) : List (Nat × Nat) :=
  ((s.launches.filter fun l => l.asid == asid && !(k.launches.any fun m => m.queue == l.queue && m.entry == l.entry)
      && !(k.graphs.any fun g => g.queue == l.queue && g.entry == l.entry)).map fun l => (l.queue, l.entry)).eraseDups

/-- Entries in the order in which they are considered again: by queue, and within one in index order up to its HEAD (R447). -/
def State.againOrder (s : State) (c : Context) (es : List (Nat × Nat)) : List (Nat × Nat) :=
  let at' := fun e : Nat × Nat =>
    ((e.2 + 2 ^ 17 - (((s.queue? c e.1).map Queue.head).getD 0)) % 2 ^ 16 : Nat)
  sortBy (fun a b : Nat × Nat => a.1 < b.1 || (a.1 == b.1 && at' a ≤ at' b)) es.eraseDups

/-- A context goes back to its checkpoint (R447); what peers have sent since is kept, as they send it once (DEDUCED, log 22). -/
def State.rollback (s : State) (c : Context) (k : Checkpoint) : State :=
  let mine := (s.groups.filter fun g => s.asidOf g == c.asid).map Group.id
  let since := s.acceptedSince c.asid k
  let s : State := { s with held := s.held.filter fun h =>
    match h.writer with
    | .group g _ _ => !mine.contains g
    | _ => true }
  let sent := s.peerData.filter fun p => p.asid == c.asid && !k.peerData.contains p
  let s := s.removeWork c.asid
  let s := (k.backing.foldl State.restorePage s).restoreSlots c.asid k
  let s : State := { s with
    groups := s.groups ++ k.groups.map fun g => { g with handNext := 0, handLeft := 0 }
    teams := s.teams ++ k.teams.map fun t =>
      { t with residency := if c.state == .frozen then .frozen else .waiting, waitStart := s.now }
    launches := s.launches ++ k.launches
    graphs := s.graphs ++ k.graphs
    bins := s.bins ++ k.bins
    pending := s.pending ++ k.pending
    peerData := s.peerData ++ k.peerData ++ sent }
  let s := s.modContext c.asid fun c =>
    { c with
      again := s.againOrder c (c.again ++ since)
      checkpoint := some { k with backing := [] }
      ckptWanted := false
      rollbacks := c.rollbacks + 1
      lastProgress := s.now }
  since.foldl (fun (s : State) e => s.setEntry c e.1 e.2 0 none none) s

/-- An uncorrectable error in a context's state, met by a group or by none: a rollback where a checkpoint covers it, else the end
(R143, R447). A frozen context is rolled back, or ended, as a running one. -/
def State.uncorrectable (s : State) (asid : Nat) (g : Option Group) (covered : Checkpoint → Bool) (r : FaultRecord) : State :=
  match s.context? asid with
  | none => s
  | some c =>
    if c.state == .ending then s
    else
      match c.checkpoint.filter covered with
      | some k => s.rollback c k
      | none => s.beginEndOf asid g r

/-- The record of an error met by an instruction, of which the PC and the lanes are recorded (R137). -/
def lossRecord (by' : Mask × DWord) (pa info : Nat) : FaultRecord := recordOf fUncorrectable by'.1 by'.2 (BitVec.ofNat 64 pa) info

/-- The lanes and PC of an operation of a group; none: no instruction. -/
def State.metBy (s : State) (g op : Nat) : Mask × DWord :=
  (((s.group? g).bind fun g => g.op? op).map fun o => (o.lanes, o.pc)).getD (0, 0)

/-- A modified copy of a word is lost with some CUs' L1s, and with its slice where that is so; where no other L1 holds a modified
one, the word is poisoned at home (R307). Loads that have issued have read it before: the value stays for them. -/
def State.loseWord (s : State) (w : Nat) (of : Nat → Bool) (slice : Bool) : State :=
  let v := s.word w
  let owner := s.registered? w
  let kept := (owner.any fun c => !of c) || s.cus.any fun x => !of x.1 && x.2.sentWords.contains w
  let s : State := { s with cus := s.cus.map fun (x : Nat × Cu) =>
    (x.1, { x.2 with l1 := x.2.l1.filter fun y => !(of x.1 && y.1 == w && y.2.state != .valid) }) }
  let s := s.modLine (w / 32) fun l => { l with
    regs := if owner.any of then sdel l.regs (w % 32) else l.regs
    dirty := if slice || !kept then sdel l.dirty (w % 32) else l.dirty }
  if kept then s else (s.setHomeWord w v).poisonWord w

/-- An error in a word that a CU's L1, or a slice, holds: a modified one is lost, and the line of a clean one is discarded, to be
read again (R306). Each is counted under its row. -/
def State.cacheError (s : State) (cu : Option Nat) (w : Nat) : State :=
  match cu with
  | some c =>
    match s.l1? c w with
    | none => s
    | some x => if x.state == .valid then (s.countError 2).dropLine c (w / 32) else (s.countError 3).loseWord w (· == c) false
  | none =>
    if (s.registered? w).isSome || ((s.line (w / 32)).dirty.lookup (w % 32)).isSome then
      (s.countError 3).loseWord w (fun c => s.registered? w == some c) true
    else s.countError 2

/-- A holder of tokens goes out of service, a die's slices or the link agent: words that are dirty with it, or registered at its
slices, are lost, and the tokens are counted back to the home store (R307, R369). -/
def State.loseHolder (s : State) (who : Holder) : State :=
  let ls := (s.lines.filter fun x => x.2.tokens who != 0).map Prod.fst
  ls.foldl (fun (s : State) l =>
    let x := s.line l
    let dirty := if x.owner == who then x.dirty.map Prod.fst else []
    let regs := match who with
      | .die _ => x.regs.map Prod.fst
      | _ => []
    let s := (insertAll regs dirty).foldl (fun (s : State) k =>
      s.loseWord (32 * l + k) (fun c => s.registered? (32 * l + k) == some c) true) s
    s.modLine l fun x => x.moveAll who .home) s

/-- A CU's L1 goes out of service: the words of which it holds the only modified copy are lost (R307). -/
def State.loseCu (s : State) (c : Nat) : State :=
  let ws := ((s.cu c).l1.filter fun x => x.2.state != .valid).map Prod.fst
  (ws.foldl (fun (s : State) w => s.loseWord w (· == c) false) s).modCu c fun k => { k with l1 := [] }

/-- An uncorrectable error in the DRAM that holds a line in flight: it is met by the fetch of the word `k`, whose address
and lanes are recorded (R149, R150): `sr.faddr` holds the word's VA, as for every fault of a fetch, where R137's table names the
physical address (DEDUCED, log 56). A line that IPREF alone has asked for is dropped, and nothing is recorded (R147). -/
def State.fetchError (s : State) (c asid line k : Nat) : State :=
  let va := BitVec.ofNat 64 (128 * line + 8 * k)
  match (s.cu c).fetching.find? fun x => x.asid == asid && x.va == line with
  | none => s
  | some x =>
    let lanes := s.lanesAt c asid va
    let s := s.modCu c fun u => { u with fetching := u.fetching.erase x }
    if x.prefetched && lanes == 0 then s
    else
      s.uncorrectable asid none (fun p => p.covered.contains (x.pa / 4096))
        ⟨BitVec.ofNat 32 (fUncorrectable + 2 ^ 20), lanes, 0, va, va⟩

/-- UNCORRECTABLE_ERROR (R306, R307, R447): each error is counted under its storage row of R306. A scratchpad word has no
physical address, and `sr.faddr` of its record is 0 as for a register row (R137) (DESIGN CHOICE, log 56). The PC and lanes are
those of the operation that met it, or at which the reading lanes stand (DEDUCED, log 56). -/
def execUncorrectableError (site : ErrorSite) (s : State) : Host.Outcome State Fault Refusal :=
  match site with
  | .registerRow g lanes =>
    match s.group? g with
    | none => .next (s.countError 0)
    | some g =>
      .next ((s.countError 0).uncorrectable (s.asidOf g) g (fun _ => true) (lossRecord (lanes, (g.posOf lanes).pc) 0 1))
  | .scratchpad t g op =>
    match s.team? t with
    | none => .next (s.countError 1)
    | some t => .next ((s.countError 1).uncorrectable t.asid (s.group? g) (fun _ => true) (lossRecord (s.metBy g op) 0 2))
  | .memory asid g op pa =>
    .next ((s.countError 5).uncorrectable asid (s.group? g) (fun k => k.covered.contains (pa / 4096))
      (lossRecord (s.metBy g op) pa 0))
  | .shared pa asids => .next (asids.foldl (fun (s : State) a => s.beginEnd a (lossRecord (0, 0) pa 0)) (s.countError 5))
  | .cachedWord cu pa => .next (s.cacheError cu (pa / 4))
  | .codeLine c asid line =>
    .next ((s.countError 4).modCu c fun k => { k with lines := k.lines.filter fun x => !(x.asid == asid && x.va == line) })
  | .codeFill c asid line k => .next ((s.countError 5).fetchError c asid line (k % 16))
  | .corrected id => .next (if id < 6 then s.countError id else s)
  | .lostDie d => .next (s.loseHolder (.die d))
  | .lostCu c => .next (s.loseCu c)

end Sys2Proof.Machine
end

