-- ==== Sys2Proof/Machine/Agents.lean ====
section
/-!
DEFINITION. What the agents of the memory engine do by themselves (21; 17, R310, R311; 22, R384): the meanings of PAGE_WALK,
RECLASSIFY, REGISTRATION_RECALL, FORWARDED_READ, TRANSIENT_REQUEST, ATTEMPT_FAIL, TRUMP_REQUEST, TRUMP_RELEASE,
LINE_REPLACE, HOST_MEMRD, HOST_MEMWR, HOST_SNOOP, BIRSP, D2H_COMPLETION, PEER_ACCESS, FRAME_ZEROING and PORT_ADMIT. Accesses
make the same moves within their own step where nothing holds them up; these events make them by themselves. An access
from outside that has to wait stands in `waiting`, and its event comes again.
-/
namespace Sys2Proof.Machine

/-! ### Translations, classes and registrations -/

/-- PAGE_WALK (R384, R386): a miss of a CU is walked, and the translation installed. Where the input names a CXL status and
the address of an entry of host-resident tables, its read has ended with an error, and the context ends (R376); the input may
go on with a group and lanes of it, whose instruction needed the walk (R137). -/
def execPageWalk (cu asid : Nat) (va : DWord) (kind : AccessKind) (s : State) : Host.Outcome State Fault Refusal :=
  match s.context? asid with
  | none => .next s
  | some c =>
    match c.hosttab, s.input.nums with
    | true, status :: pa :: by' =>
      let g := s.group? (by'.getD 0 0)
      let lanes : Mask := BitVec.ofNat 32 (by'.getD 1 0)
      let pc := (g.map fun g => (g.posOf lanes).pc).getD 0
      .next (s.beginEndOf asid g (recordOf fHostError (if g.isSome then lanes else 0) pc (BitVec.ofNat 64 pa) status))
    | _, _ => .next (s.translate cu (if kind == .fetch then .code else .data) c va kind).2

/-- RECLASSIFY (R366): another CU than the owner misses on a private frame. -/
def execReclassify (frame cu : Nat) (s : State) : Host.Outcome State Fault Refusal :=
  match s.pageClass frame with
  | .priv d => .next (if d = cu then s else s.reclassify frame)
  | .transit _ => .next (s.reclassify frame)
  | _ => .next s

/-- REGISTRATION_RECALL (R368). -/
def execRegistrationRecall (line word : Nat) (s : State) : Host.Outcome State Fault Refusal :=
  .next (if word < 32 then s.recallWord (32 * line + word) else s)

/-- FORWARDED_READ (R368): a CU reads a word that another CU holds registered; the owner's L1 answers. It fills an L1 that has
none of the word, and has or makes room for its line (R301). -/
def execForwardedRead (cu line word : Nat) (s : State) : Host.Outcome State Fault Refusal :=
  let w := 32 * line + word
  match (if word < 32 then s.registered? w else none) with
  | some c =>
    if c = cu || dieOfCu c != dieOfCu cu || (s.l1? cu w).isSome || !s.hasRoomL1 cu line then .next s
    else .next ((s.roomLine cu line).fillL1 cu w)
  | none => .next s

/-! ### Requests for tokens (R370 to R373) -/

/-- An access of a peer that covers a line waits. -/
def State.peerWaits (s : State) (line : Nat) : Bool :=
  s.waiting.any fun e =>
    match e.event with
    | .peerAccess pa (.read n) => (linesOf pa n).contains line
    | .peerAccess pa (.write bs) => (linesOf pa bs.length).contains line
    | _ => false

/-- A requester may ask for a line's tokens: the link agent does so for an access that waits (R364). -/
def State.mayAsk (s : State) (who : Holder) (line : Nat) : Bool :=
  requester who && s.populated (128 * line) && !inPeer (128 * line) && (who != .link || s.peerWaits line)

/-- The CUs of a die that have sent a registration for a word of a line. -/
def State.sendersOf (s : State) (die line : Nat) : List Nat :=
  (s.cus.filter fun c => dieOfCu c.1 == die && c.2.sentWords.any fun w => w / 32 == line).map Prod.fst

/-- A slice with all of a line's tokens accepts the registrations that its CUs have sent for it (R318, R368). -/
def State.acceptLine (s : State) (die line : Nat) : State :=
  (s.sendersOf die line).foldl (fun (s : State) c =>
    ((s.cu c).sentWords.filter fun w => w / 32 == line).foldl (fun (s : State) w => s.acceptUnit c w) s) s

/-- A request that has gathered its tokens is answered: a slice's registrations are accepted. -/
def State.answered (s : State) (who : Holder) (line : Nat) (write : Bool) : State :=
  match who with
  | .die d =>
    if (s.line line).tokens who = 32 && !(s.sendersOf d line).isEmpty then
      (((s.acceptLine d line).endAttempt who line write).operated who line).backToHost line
    else s.endAttempt who line write
  | _ => s.endAttempt who line write

/-- TRANSIENT_REQUEST (R370, R373, R374). -/
def execTransientRequest (who : Holder) (line : Nat) (write : Bool) (s : State) : Host.Outcome State Fault Refusal :=
  if !s.mayAsk who line then .next s
  else if needs write ≤ (s.line line).tokens who then .next (s.answered who line write)
  else if s.mustWait who line write || !s.hasRoom line who then .next (s.demand who line write none)
  else .next (((s.beginAttempt who line write none).askTokens who line write).answered who line write)

/-- ATTEMPT_FAIL (R370): the attempt has not gathered enough, and is tried again. -/
def execAttemptFail (who : Holder) (line : Nat) (write : Bool) (s : State) : Host.Outcome State Fault Refusal :=
  if needs write ≤ (s.line line).tokens who then .next (s.endAttempt who line write)
  else .next { s with attempts := s.attempts.map fun a => if Attempt.of who line write a then { a with count := a.count + 1 } else a }

/-- The request has failed 16 times or waited 4 µs (R372). -/
def State.escalates (s : State) (who : Holder) (line : Nat) (write : Bool) : Bool :=
  s.attempts.any fun a => Attempt.of who line write a && (16 ≤ a.count || a.first + 4 * Config.ticksPerUs ≤ s.now)

/-- The table of a line's home holds 64 entries (R372). -/
def State.tableFull (s : State) (line : Nat) : Bool :=
  Config.trumpEntries ≤ (s.trumps.filter fun t => s.homeOf t.line == s.homeOf line).length

/-- A requester has an entry for a line, or waits to have one. -/
def State.entered (s : State) (who : Holder) (line : Nat) : Bool :=
  (s.trumps ++ s.trumpQueue).any fun t => t.requester == who && t.line == line

/-- TRUMP_REQUEST (R372, R373): the entry waits its turn where the line has an active one, and the request where the table is
full. -/
def execTrumpRequest (who : Holder) (line : Nat) (write : Bool) (s : State) : Host.Outcome State Fault Refusal :=
  if !s.mayAsk who line || !s.escalates who line write || s.entered who line then .next s
  else if s.tableFull line then .next { s with trumpQueue := s.trumpQueue ++ [⟨false, write, who, line⟩] }
  else
    let first := (s.activeTrump line).isNone
    let s : State := { s with trumps := s.trumps ++ [⟨first, write, who, line⟩] }
    .next (if first then s.gatherTo line who else s)

/-- The accesses that an operation still has to make. -/
def Op.accesses (o : Op) : List (Access × Bool) :=
  match o.kind with
  | .copy ms op _ _ => (movesAccesses op ms).map fun a => (a, true)
  | .coll c _ => (movesAccesses c.op c.dst).map fun a => (a, true)
  | _ => o.pendingAccesses.map fun a => (a, false)

/-- An access that a requester's CUs have issued needs a line and could be performed now. -/
def State.wants (s : State) (who : Holder) (line : Nat) : Bool :=
  match who with
  | .die d =>
    !(s.sendersOf d line).isEmpty || s.groups.any fun g => dieOfCu g.cu == d && g.ops.any fun o =>
      !o.done && o.accesses.any fun a =>
        match a.1.place with
        | .mem pa => (s.requests g.cu a.1 pa a.2).any (fun x => x.1 == who && x.2.1 == line)
            && !s.accessWaits g.cu (s.asidOf g) (some (g.id, o.id)) a.1 pa a.2
        | _ => false
  | _ => false

/-- The link agent keeps no token past an access (R364). -/
def State.leaveLink (s : State) (who : Holder) (line : Nat) : State :=
  let dest := if s.tokenDest line == .link then .home else s.tokenDest line
  if who == .link then ((s.roomFor' line dest).modLine line fun l => l.moveAll .link dest).flushHome line else s

/-- TRUMP_RELEASE (R373): its requester has gathered all the tokens, and the operation for which it did so has been performed,
or cannot go on for another reason. The link agent keeps no token (R364). -/
def execTrumpRelease (who : Holder) (line : Nat) (s : State) : Host.Outcome State Fault Refusal :=
  match s.activeTrump line with
  | none => .next s
  | some t =>
    if t.requester != who || (s.line line).tokens who != 32 || s.wants who line then .next s
    else
      .next ((s.leaveLink who line).freeEntry t)

/-- LINE_REPLACE (R371, R364): the words of its die's L1s go first, and the tokens return home, or go to the requester of
an active entry (R373). -/
def execLineReplace (die line : Nat) (s : State) : Host.Outcome State Fault Refusal :=
  if 4 ≤ die then .next s
  else .next (s.replaceLine die line)

/-! ### Accesses from outside (R364, R373, R374) -/

/-- An access from outside waits (R372, R375, R402): its event comes again. -/
def State.later (s : State) (i : Instr) : State := { s with waiting := s.waiting ++ [⟨i, s.input⟩] }

/-- Some of the lines cannot be had now. -/
def State.linesWait (s : State) (who : Holder) (ls : List Nat) (write : Bool) : Bool := ls.any fun l => s.mustWait who l write

/-- The lines that an access waits for are asked for. -/
def State.demandLines (s : State) (who : Holder) (ls : List Nat) (write : Bool) : State :=
  ls.foldl (fun (s : State) l => if s.mustWait who l write then s.demand who l write none else s) s

/-- An access from outside has been performed, or dropped: its attempts end, and its entry, where it had one, is released. -/
def State.linesDone (s : State) (who : Holder) (ls : List Nat) (write : Bool) : State :=
  ls.foldl (fun (s : State) l => (((s.leaveLink who l).dropAttempt who l write).operated who l).backToHost l) s

/-- The data that a read from outside returns (R308, R364, R374). -/
def State.answerRead (s : State) (who : Holder) (pa n : Nat) : State :=
  { s with returned := some ⟨who, pa, s.peek pa n, (wordsOf pa n).filter s.poisoned⟩ }

/-- The agent that holds tokens for an access from outside (R364, R373). -/
def Writer.holder : Writer → Holder
  | .host => .host
  | .peer => .link
  | _ => .home

/-- HOST_MEMRD (R374): the host agent takes a token of each line; a line of host memory comes home. The data returned says of
each word whether it is poisoned (R308). -/
def execHostMemrd (pa count : Nat) (s : State) : Host.Outcome State Fault Refusal :=
  let ls := (linesOf pa count).filter fun l => s.inDevice (128 * l)
  let own := (linesOf pa count).filter fun l => inHost (128 * l)
  if s.linesWait .host ls false then .next ((s.demandLines .host ls false).later (.hostMemrd pa count))
  else
    let s := ls.foldl (fun (s : State) l => s.acquireRead l .host none) s
    .next (((own.foldl (fun (s : State) l => s.lineHome l) s).answerRead .host pa count).linesDone .host ls false)

/-- A frame of the part that is not in use: what writes it is dropped (R377, R442). -/
def State.unused (s : State) (pa : Nat) : Bool :=
  s.inDevice pa && (s.frame (pa / 4096) == .zeroing || s.frame (pa / 4096) == .freeDirty)

/-- A write to one frame from outside the CUs at the home store: dropped and counted at an image frame (R156) or at a frame
that is not in use (R377, R442), held where it is caught or stands behind a held write (R401, R402), else performed; it
waits where the hold buffer or the tokens make it. What it had gathered goes when it ends. -/
def State.frameWrite (s : State) (w : Writer) (again : Nat → List Byte → Instr) (pa : Nat) (bs : List Byte) : State :=
  let who := w.holder
  let ls := linesOf pa bs.length
  if (s.imageAt? pa).isSome then (s.countError eImage).linesDone who ls true
  else if s.unused pa then (s.countError eZeroing).linesDone who ls true
  else if s.caught pa (.store bs) || s.behindHeld pa bs.length then
    if s.holdRoom w pa then (s.hold w pa (.store bs) [] true []).linesDone who ls true else s.later (again pa bs)
  else if s.linesWait who ls true then (s.demandLines who ls true).later (again pa bs)
  else
    ((s.cover pa bs.length).writeWords pa (.store bs) bs State.storeExternal).linesDone who ls true

/-- Bytes cut at frame bounds. -/
def cutFrames (pa : Nat) : List Byte → Nat → List (Nat × List Byte)
  | _, 0 => []
  | bs, fuel + 1 =>
    if bs.isEmpty then []
    else
      let n := 4096 - pa % 4096
      (pa, bs.take n) :: cutFrames (pa + n) (bs.drop n) fuel

/-- A write from outside the CUs, frame by frame. -/
def State.outsideWrite (s : State) (w : Writer) (again : Nat → List Byte → Instr) (pa : Nat) (bs : List Byte) : State :=
  (cutFrames pa bs (bs.length + 1)).foldl (fun (s : State) x => s.frameWrite w again x.1 x.2) s

/-- HOST_MEMWR (R373, R374, R401). -/
def execHostMemwr (pa : Nat) (data : List Byte) (s : State) : Host.Outcome State Fault Refusal :=
  if (linesOf pa data.length).all (fun l => s.inDevice (128 * l) || inHost (128 * l)) then
    .next (s.outsideWrite .host .hostMemwr pa data)
  else .next s

/-- HOST_SNOOP (R374): the host agent recalls a line's tokens and L1 words, ahead of any trump entry. -/
def execHostSnoop (line : Nat) (_invalidate : Bool) (s : State) : Host.Outcome State Fault Refusal :=
  if !s.hostServes line then .next s
  else
    let s := s.lineHome line
    let cus := insertAll (s.line line).presence (sget PageClass.untouched s.classes (line / 32)).owner?.toList
    .next ((cus.foldl (fun (s : State) c => s.dropLine c line) s).backToHost line)

/-- BIRSP (R374): the host has answered a BISnpInv, and the host agent gives up the line's tokens, to the requester of an active
entry, which makes room for the line, else home. -/
def execBirsp (line : Nat) (s : State) : Host.Outcome State Fault Refusal :=
  let dest := s.tokenDest line
  if !(s.line line).snooped || !s.hasRoom line dest then .next s
  else
    .next (((s.roomFor' line dest).modLine line fun l => { (l.moveAll .host dest) with snooped := false }).flushHome line)

/-- D2H_COMPLETION (R374): the host agent grants the tokens that a die asked for, but those that go to the requester of an
active entry (R373); the fill raises the access counter that it was asked with (R389). -/
def execD2hCompletion (die line : Nat) (s : State) : Host.Outcome State Fault Refusal :=
  match (s.line line).asked.find? fun a => a.1 == die with
  | none => .next s
  | some a =>
    if (s.activeTrump line).any (fun t => t.requester != .die die) || s.flipping (128 * line) || !s.hasRoom line (.die die) then .next s
    else
      let s := s.modLine line fun l => { l with asked := l.asked.erase a }
      let s := if a.2.1 then s.acquireWrite line (.die die) a.2.2 else s.acquireRead line (.die die) a.2.2
      .next (s.answered (.die die) line a.2.1)

/-- PEER_ACCESS (R364, R373, R401): the link agent holds tokens for the length of the access; a read returns data (R308). -/
def execPeerAccess (pa : Nat) (access : PeerOp) (s : State) : Host.Outcome State Fault Refusal :=
  match access with
  | .read n =>
    let ls := linesOf pa n
    if !(ls.all fun l => inT1 (128 * l)) then .next s
    else if s.linesWait .link ls false then .next ((s.demandLines .link ls false).later (.peerAccess pa access))
    else .next (((ls.foldl (fun (s : State) l => s.acquireRead l .link none) s).answerRead .link pa n).linesDone .link ls false)
  | .write bs =>
    if (linesOf pa bs.length).all (fun l => inT1 (128 * l)) then
      .next (s.outsideWrite .peer (fun pa bs => .peerAccess pa (.write bs)) pa bs)
    else .next s

/-! ### Zeroing (R377) -/

/-- The lines of a frame for which the host may hold a token. -/
def State.hostLines (s : State) (f : Nat) : List Nat := (linesOfFrame f).filter fun l => 0 < (s.line l).host

/-- FRAME_ZEROING (R377): a FREE-DIRTY frame enters ZEROING, and a ZEROING one is zeroed and becomes CLEAN once the host has
answered for the lines it may use. -/
def execFrameZeroing (f : Nat) (s : State) : Host.Outcome State Fault Refusal :=
  match s.frame f with
  | .freeDirty => .next (if s.inDevice (4096 * f) then s.setFrame f .zeroing else s)
  | .zeroing =>
    if (s.hostLines f).isEmpty then
      let s := s.zeroFrame f
      .next ({ s with classes := sset PageClass.untouched s.classes f .untouched }.setFrame f .clean)
    else .next ((s.hostLines f).foldl (fun (s : State) l => s.modLine l fun k => { k with snooped := true }) s)
  | _ => .next s

/-! ### Ports of the L2 slices (R309 to R311) -/

/-- One fabric cycle of a bucket: it gains its rate, and what a full bucket cannot hold goes to the idle pool, of which a
lender has, and in 1,024 cycles adds, no more than floor(RATE / 2) tokens; a lender with a waiting request takes its
tokens back (R310). -/
def Bucket.cycle (b : Bucket) (rate burst : Nat) (waiting : Bool) : Bucket :=
  let most := 1024 * (rate / 2)
  let gain := b.tokens + rate
  let added := if waiting then 0 else min (gain - burst) (min (most - b.pool) (most - b.lent.sum))
  { b with
    tokens := min burst (min burst gain + if waiting then b.pool else 0)
    pool := if waiting then 0 else b.pool + added
    lent := added :: b.lent.take 1022 }

/-- A request holds what R311 asks of an eligible one. -/
def State.eligibleAt (s : State) (r : PortRequest) : Bool :=
  r.free || s.rateOf r.asid == 0 || 1024 ≤ (s.bucket r.port r.asid).tokens

/-- A request leaves its port admitted; that of a group's access goes on when the access is made. -/
def State.letThrough (s : State) (r : PortRequest) : State :=
  { s with ports := s.ports.erase r, grants := if r.work.isSome then s.grants ++ [r] else s.grants }

/-- An eligible request is admitted. -/
def State.letIn (s : State) (r : PortRequest) : State :=
  let s := s.letThrough r
  if r.free || s.rateOf r.asid = 0 then s
  else
    let b := s.bucket r.port r.asid
    s.setBucket { b with tokens := b.tokens - 1024 }

/-- A borrower is admitted with a token of the first lender that has one. -/
def State.borrow (s : State) (r : PortRequest) : State :=
  match s.shaped.find? fun a => a != r.asid && 1024 ≤ (s.bucket r.port a).pool with
  | none => s
  | some a =>
    let lender := s.bucket r.port a
    let s := s.setBucket { lender with pool := lender.pool - 1024 }
    let s := s.setBucket { s.bucket r.port r.asid with borrowed := s.now + 1 }
    s.letThrough r

/-- The next request that a port serves in a cycle: an eligible one in order of arrival, else the borrower that borrowed
least recently. -/
def State.serve (s : State) (port : Nat) : State :=
  let rs := s.ports.filter fun r => r.port == port
  match rs.find? s.eligibleAt with
  | some r => s.letIn r
  | none =>
    match (sortBy (fun a b : PortRequest => (s.bucket port a.asid).borrowed ≤ (s.bucket port b.asid).borrowed) rs).head? with
    | some r => s.borrow r
    | none => s

/-- PORT_ADMIT (R310, R311): one fabric cycle of every port that holds a request. Those of the CUs' accesses wait at their ports;
others arrive with the input, three numbers each: port, context, and 1 for a token-free kind. -/
def execPortAdmit (s : State) : Host.Outcome State Fault Refusal :=
  let arrivals := (List.range (s.input.nums.length / 3)).map fun k =>
    (⟨s.input.nums.getD (3 * k) 0 % 128, s.input.nums.getD (3 * k + 1) 0, s.input.nums.getD (3 * k + 2) 0 == 1, none⟩ : PortRequest)
  let s : State := { s with ports := s.ports ++ arrivals }
  let ports := ((s.ports.map PortRequest.port) ++ (s.buckets.map Bucket.port)).eraseDups
  let s := ports.foldl (fun (s : State) p => s.shaped.foldl (fun (s : State) a =>
    s.setBucket ((s.bucket p a).cycle (s.rateOf a) (s.burstOf a) (s.ports.any fun r => r.port == p && r.asid == a))) s) s
  .next (ports.foldl (fun (s : State) p => (s.serve p).serve p) s)

end Sys2Proof.Machine
end

