-- ==== Sys2Proof/Machine/Sha.lean ====
section
/-!
DEFINITION. SHA-256 (FIPS 180-4), by which the image cache names images (R153): its constants computed from the primes they
come from, and its rounds run over three lines of words, two of state and one of message.
-/
namespace Sys2Proof.Machine

/-- The `e`-th root of a number, rounded down: bits below `b` are tried from the highest, above those found in `r`. -/
def rootBelow (e n : Nat) : Nat → Nat → Nat
  | 0, r => r
  | b + 1, r => rootBelow e n b (if n < (r + 2 ^ b) ^ e then r else r + 2 ^ b)

/-- The first 64 primes. -/
def shaPrimes : List Nat :=
  (List.range 312).filter fun p => 1 < p && (List.range 18).all fun d => d ≤ 1 || d == p || p % d != 0

/-- The first 32 bits after the point of the `e`-th root of a number. -/
def rootFraction (e p : Nat) : Word := BitVec.ofNat 32 (rootBelow e (p * 2 ^ (32 * e)) 37 0)

/-- Copies of a word rotated right by each amount, joined by exclusive or. -/
def spun (x : Word) (by' : List Nat) : Word := (by'.map fun k => x.rotateRight k).foldl (fun u v => u ^^^ v) 0#32

/-- The words that a compression moves along: two lines of four state words, and the 16 message words still to come. -/
structure ShaLines where
  upper : List Word
  lower : List Word
  ahead : List Word
  deriving DecidableEq, Repr

/-- One round under a round constant: each line takes a new word at one end and loses one at the other. -/
def ShaLines.round (x : ShaLines) (key : Word) : ShaLines :=
  let up := fun i => x.upper.getD i 0#32
  let lo := fun i => x.lower.getD i 0#32
  let msg := fun i => x.ahead.getD i 0#32
  let picked := lo 2 ^^^ (lo 0 &&& (lo 1 ^^^ lo 2))
  let voted := (up 0 &&& up 1) ||| (up 2 &&& (up 0 ||| up 1))
  let carried := msg 0 + key + lo 3 + picked + spun (lo 0) [6, 11, 25]
  let next := msg 0 + msg 9 + (spun (msg 1) [7, 18] ^^^ (msg 1 >>> 3)) + (spun (msg 14) [17, 19] ^^^ (msg 14 >>> 10))
  { upper := (carried + voted + spun (up 0) [2, 13, 22]) :: x.upper.take 3
    lower := (up 3 + carried) :: x.lower.take 3
    ahead := x.ahead.drop 1 ++ [next] }

/-- The compression of one block of 16 words under the round constants. -/
def shaCompress (keys hash block : List Word) : List Word :=
  let x := keys.foldl ShaLines.round ⟨hash.take 4, hash.drop 4, block⟩
  List.zipWith (fun u v => u + v) hash (x.upper ++ x.lower)

/-- The big-endian words of a list of bytes. -/
def bigWords : List Byte → List Word
  | a :: b :: c :: d :: r => (a ++ b ++ c ++ d) :: bigWords r
  | _ => []

/-- A message with its bit 1, zeros to the end of a block, and last its length in bits as 64 big-endian bits. -/
def shaPadded (bs : List Byte) : List Byte :=
  let zeros := 63 - (bs.length + 8) % 64
  bs ++ 128#8 :: (List.replicate zeros 0#8 ++ (bytesOfNat 8 (8 * bs.length)).reverse)

/-- The digest, most significant byte first. -/
def sha256 (bs : List Byte) : List Byte :=
  let keys := shaPrimes.map (rootFraction 3)
  let ws := bigWords (shaPadded bs)
  let hash := (List.range (ws.length / 16)).foldl (fun h k => shaCompress keys h ((ws.drop (16 * k)).take 16))
    ((shaPrimes.take 8).map (rootFraction 2))
  hash.flatMap fun w => (bytesOfNat 4 w.toNat).reverse

end Sys2Proof.Machine
end

