-- ==== Sys2Proof/Machine/Mailbox.lean ====
section
/-!
DEFINITION. The management mailboxes (29, R463, R464) and their commands: images (06, R153 to R158), bias (21, R375),
invalidation (22, R387, R388), contexts (26, R421), partitions, loans and frames (28, R451 to R458), freezing (27, R441 to
R443), with POD_FREEZE_MESSAGE. A command is written by function `fn` of the input, 64 being the physical function; its
operands stand in MB_OPER. One that cannot complete leaves DONE at 0 and is gone on with by the same event with offset 1.
-/
namespace Sys2Proof.Machine

/-! ### Statuses and the course of a command (R154, R441, R451, R463) -/

def stOk : Nat := 0
def stMiss : Nat := 1
def stFull : Nat := 2
def stInvalid : Nat := 3
def stNoFrames : Nat := 4
def stBadIndex : Nat := 5
def stRefused : Nat := 6
def stUnreached : Nat := 7
def stBusy : Nat := 8

/-- What a command comes to: its status and returned values, or it runs on. -/
inductive Answer where
  | done (status : Nat) (values : List Nat) (s : State)
  | running (s : State)

/-- The physical function's mailbox. -/
def physical : Nat := 64

/-- DONE of a mailbox. -/
def Mailbox.done (m : Mailbox) : Bool := (m.res.getD 0 0).getLsbD 63

/-- The results are written, then DONE with the status, and vector 0 fires (R463). -/
def State.answer (s : State) (fn status : Nat) (values : List Nat) : State :=
  let words := (BitVec.ofNat 64 (2 ^ 63 + status)) :: (List.range 7).map fun k => BitVec.ofNat 64 (values.getD k 0)
  { s.modMailbox fn (fun m => { m with res := words }) with msix := supd 0 s.msix fn (· + 1) }

/-- The course of a command (R463): ignored and counted while another runs, BUSY before READY, REFUSED at a virtual
function's mailbox where the command is the physical function's alone. -/
def command (code : Nat) (pfOnly : Bool) (body : Nat → List Nat → State → Answer) (s : State) :
    Host.Outcome State Fault Refusal :=
  let fn := s.input.fn
  let m := s.mailbox fn
  let again := s.input.offset = 1
  if physical < fn then .next s
  else if !again && !m.done then .next (s.countError eMailbox)
  else if again && (m.done || m.cmd != code) then .next s
  else
    let s := if again then s else s.modMailbox fn fun m => { m with cmd := code, res := 0 :: m.res.drop 1 }
    if !s.regs.ready then .next (s.answer fn stBusy [])
    else if pfOnly && fn != physical then .next (s.answer fn stRefused [])
    else
      match body fn (m.oper.map BitVec.toNat) s with
      | .done status values t => .next (t.answer fn status values)
      | .running t => .next t

/-- The operands of a command whose first names a virtual function: a virtual function's mailbox does not give it, and it
is that function's own number (R154). -/
def withVf (fn : Nat) (ops : List Nat) : List Nat := if fn = physical then ops else fn :: ops

/-- An operand. -/
def op (ops : List Nat) (k : Nat) : Nat := ops.getD k 0

/-! ### Images (R153 to R158) -/

/-- Validation of the words of an image from an offset; `left` words of a clause are still to come, whose header stands at
`hdr`. The offset of the first word not accepted, where there is one (R158) (DEDUCED, log 44). -/
def validate : List Nat → Nat → Nat → Nat → Option Nat
  | [], _, left, hdr => if left = 0 then none else some hdr
  | w :: ws, off, left, hdr =>
    if 0 < left then
      if w / 2 ^ 56 == 0xCA || w / 2 ^ 56 == 0xCB then some off else validate ws (off + 8) (left - 1) hdr
    else if kernelWord w then validate ws (off + 8) 0 off
    else
      match (if w / 2 ^ 56 == 0xCA then Header.ofWord? (BitVec.ofNat 64 w) else none) with
      | some h => validate ws (off + 8) (h.count.toNat + 1) off
      | none => some off

/-- The frames of an image. -/
def Image.frames (i : Image) : List Nat := (List.range ((i.length + 4095) / 4096)).map (i.base / 4096 + ·)

/-- A run of CLEAN frames in the first tier, from a frame on: each place that fails holds a frame that is listed as not
CLEAN, past which the search goes on. -/
def State.cleanFrom (s : State) (n : Nat) : Nat → Nat → Option Nat
  | 0, _ => none
  | fuel + 1, f =>
    if 2 ^ 26 < f + n then none
    else
      match ((List.range n).map (f + ·)).reverse.find? fun g => s.frame g != .clean with
      | none => some f
      | some g => s.cleanFrom n fuel (if s.inFrameTable g then s.regs.frameBase.toNat / 4096 + 2 ^ 18 else g + 1)

/-- A run of CLEAN frames of the other tiers, where reset leaves none CLEAN: each is listed. -/
def State.cleanListed (s : State) (n : Nat) : Option Nat :=
  let clean := (s.frames.filter fun x => x.2 == some .clean && !inT1 (4096 * x.1) && s.inDevice (4096 * x.1)).map Prod.fst
  clean.find? fun f => (List.range n).all fun k => clean.contains (f + k)

/-- A run of CLEAN frames: in the first tier, or where it has none, in another. -/
def State.cleanRun (s : State) (n : Nat) : Option Nat := (s.cleanFrom n (s.frames.length + 2) 0).or (s.cleanListed n)

/-- Bytes are written to frames at their home, all other copies going. -/
def State.fillFrames (s : State) (base : Nat) (bs : List Byte) (frames : List Nat) : State :=
  (frames.foldl (fun (s : State) f => s.zeroFrame f) s).setBytes base bs

/-- An entry takes its place in the image cache. -/
def putImage (i : Image) : List (Option Image) → List (Option Image)
  | [] => [some i]
  | none :: es => some i :: es
  | some j :: es => some j :: putImage i es

/-- IMG_INSERT (R154, R158). An operand that no row admits gives INVALID with offset 0, poisoned source bytes are read as
data, FULL is answered before NO_FRAMES, and the lowest free index and run are taken (DESIGN CHOICE, log 57). -/
def imgInsert (_ : Nat) (ops : List Nat) (s : State) : Answer :=
  let v := op ops 0
  let src := op ops 1
  let n := op ops 2
  if 64 ≤ v || n < 8 || 2 ^ 26 < n || n % 8 != 0 || !s.populated src || !s.populated (src + n - 1) then .done stInvalid [0] s
  else
    let bs := s.peek src n
    match validate (recordsOf 8 (n / 8) bs) 0 0 0 with
    | some off => .done stInvalid [off] s
    | none =>
      let digest := BitVec.ofNat 256 (natOfBytes (sha256 bs))
      let bit := 1#64 <<< v
      match s.images.zipIdx.find? fun e => (e.1.map fun i => i.digest == digest && i.length == n).getD false with
      | some (some i, k) =>
        .done stOk [k, i.base] { s with images := s.images.set k (some { i with mask := i.mask ||| bit }) }
      | _ =>
        if Config.imageEntries ≤ (s.images.filter Option.isSome).length then .done stFull [] s
        else
          match s.cleanRun ((n + 4095) / 4096) with
          | none => .done stNoFrames [] s
          | some f =>
            let i : Image := ⟨digest, n, 4096 * f, bit⟩
            let s := (s.fillFrames i.base bs i.frames).setFrames i.frames (.owned 65)
            let k := (s.images.zipIdx.find? fun e => e.1.isNone).map Prod.snd
            .done stOk [k.getD s.images.length, i.base] { s with images := putImage i s.images }

/-- An entry that a function may see. -/
def State.imageFor (s : State) (v k : Nat) : Option Image := (s.images.getD k none).filter fun i => i.mask.getLsbD v

/-- IMG_LOOKUP (R154, R155). -/
def imgLookup (fn : Nat) (ops : List Nat) (s : State) : Answer :=
  let ops := withVf fn ops
  let v := op ops 0
  let digest := BitVec.ofNat 256 (op ops 1 + 2 ^ 64 * op ops 2 + 2 ^ 128 * op ops 3 + 2 ^ 192 * op ops 4)
  match (List.range s.images.length).find? fun k =>
      ((s.imageFor v k).map fun i => i.digest == digest && i.length == op ops 5).getD false with
  | some k => .done stOk [k, ((s.imageFor v k).map Image.base).getD 0] s
  | none => .done stMiss [] s

/-- Translations and instruction lines of some functions that reach into frames go from every structure (R157, R458). -/
def State.removeFrames (s : State) (fs : List Nat) (mine : Nat → Nat → Bool) : State :=
  let hit := fun pa size : Nat => fs.any fun f => pa ≤ 4096 * f && 4096 * f < pa + 2 ^ size
  s.removeTlbs (fun t => mine t.asid t.func && hit t.pa t.size) (fun w => mine w.asid w.func && fs.contains (w.table / 4096))
    (fun l => mine l.asid (((s.context? l.asid).map Context.func).getD 64) && fs.contains l.frame)

/-- Every instruction line and TLB entry into frames goes from the CUs of a partition (R157). -/
def State.removeImage (s : State) (fs : List Nat) (part : Option Nat) : State :=
  let inside := fun pa size : Nat => fs.any fun f => pa ≤ 4096 * f && 4096 * f < pa + 2 ^ size
  let keep := fun l : List Tlb => l.filter fun t => !inside t.pa t.size
  { s with cus := s.cus.map fun x =>
      if part.isSome && s.portPart (portOfCu x.1) == part then
        (x.1, { x.2 with
          itlb := keep x.2.itlb, dtlb := keep x.2.dtlb, ctlb := keep x.2.ctlb
          lines := x.2.lines.filter fun l => !fs.contains l.frame
          fetching := x.2.fetching.filter fun y => !fs.contains (y.pa / 4096) })
      else x }

/-- IMG_RELEASE (R154, R157). -/
def imgRelease (fn : Nat) (ops : List Nat) (s : State) : Answer :=
  let ops := withVf fn ops
  let v := op ops 0
  let k := op ops 1
  match s.imageFor v k with
  | none => .done stBadIndex [] s
  | some i =>
    let mask := i.mask &&& ~~~(1#64 <<< v)
    if mask = 0 then
      let s := s.removeFrames i.frames fun _ _ => true
      .done stOk [] ({ s with images := s.images.set k none }.setFrames i.frames .freeDirty)
    else
      let s := (s.removeFrames i.frames fun _ f => f == v).removeImage i.frames (s.func v).bound
      .done stOk [] { s with images := s.images.set k (some { i with mask := mask }) }

/-- IMG_QUERY (R154). -/
def imgQuery (_ : Nat) (ops : List Nat) (s : State) : Answer :=
  match s.images.getD (op ops 0) none with
  | some i => .done stOk (((List.range 4).map fun k => fieldOf i.digest (64 * k) 64) ++ [i.length, i.base, i.mask.toNat]) s
  | none => .done stBadIndex [] s

/-- IMG_INSERT (R154). -/
def execImgInsert (s : State) : Host.Outcome State Fault Refusal := command 0x40 true imgInsert s
/-- IMG_LOOKUP (R154). -/
def execImgLookup (s : State) : Host.Outcome State Fault Refusal := command 0x41 false imgLookup s
/-- IMG_RELEASE (R157). -/
def execImgRelease (s : State) : Host.Outcome State Fault Refusal := command 0x42 false imgRelease s
/-- IMG_QUERY (R154). -/
def execImgQuery (s : State) : Host.Outcome State Fault Refusal := command 0x43 true imgQuery s

/-! ### Bias (R375) -/

/-- A page's bias bit is written. -/
def State.setBias (s : State) (page : Nat) (host : Bool) : State :=
  let at' := s.regs.biasBase.toNat + biasIndex page / 8
  let b := (s.byte at').toNat
  let bit := 2 ^ (biasIndex page % 8)
  let off := if b / bit % 2 = 1 then b - bit else b
  s.setByte at' (BitVec.ofNat 8 (if host then off + bit else off))

/-- A page goes to host bias: its newer words and its registrations are recalled, its tokens go to the host agent, the page's
words leave the L1s, and its bit is written. -/
def State.toHostBias (s : State) (page : Nat) : State :=
  let s := (linesOfFrame (page / 4096)).foldl (fun (s : State) l =>
    let s := s.lineHome l
    let s := (insertAll (s.line l).presence (sget PageClass.untouched s.classes (page / 4096)).owner?.toList).foldl
      (fun (s : State) c => s.evictAll c fun w => w / 32 == l) s
    s.modLine l fun k => { (k.gather .host) with presence := [] }) s
  s.setBias page true

/-- The lines of pages whose tokens are the host agent's: it tells the host to give them up, and waits (R374, R375). -/
def State.recallHost (s : State) (pages : List Nat) : Option State :=
  let ls := pages.flatMap fun p => s.hostLines (p / 4096)
  if ls.isEmpty then none else some (ls.foldl (fun (s : State) l => s.modLine l fun k => { k with snooped := true }) s)

/-- BIAS_HOST and BIAS_DEVICE (R375). While BIAS_DEVICE waits for the host, its pages are flipping. -/
def biasCommand (host : Bool) (_ : Nat) (ops : List Nat) (s : State) : Answer :=
  let pa := op ops 0
  let n := op ops 1
  let pages := (List.range n).map fun k => pa + 4096 * k
  if pa % 4096 != 0 || n = 0 || 512 < n || !(pages.all fun p => inT1 p || s.inT2 p) then .done stInvalid [] s
  else if host then .done stOk [] (pages.foldl State.toHostBias s)
  else
    match s.recallHost pages with
    | some s => .running s
    | none => .done stOk [] (pages.foldl (fun (s : State) p => s.setBias p false) s)

/-- BIAS_HOST (R375). -/
def execBiasHost (s : State) : Host.Outcome State Fault Refusal := command 0x48 true (biasCommand true) s
/-- BIAS_DEVICE (R375). -/
def execBiasDevice (s : State) : Host.Outcome State Fault Refusal := command 0x49 true (biasCommand false) s

/-! ### Invalidation (R387, R388, R415) -/

/-- Two address ranges meet. -/
def meets (a n b m : Nat) : Bool := a < b + m && b < a + n

/-- Everything that contexts of a kind had under way is performed, where it can be (R388). -/
def State.drainAll (s : State) (mine : Nat → Bool) : State :=
  ((s.groups.filter fun g => mine (s.asidOf g)).map Group.id).foldl (fun (s : State) g => s.drainGroup g) s

/-- Nothing that contexts of a kind had under way is left, but for an ASDROP's wait. -/
def State.allDrained (s : State) (mine : Nat → Bool) : Bool :=
  s.groups.all fun g => !mine (s.asidOf g) || g.ops.all fun o => o.done || match o.kind with | .drop _ => true | _ => false

/-- An invalidation: assumptions that it covers break (R415), entries go, and what went through them completes,
its access counts with it (R391). -/
def State.invalidate (s : State) (mine : Nat → Bool) (covers : Slot → Bool) (t : Tlb → Bool) (w : WalkEntry → Bool)
    (i : CodeLine → Bool) : Answer :=
  let s := (((s.breakAll covers 2).removeTlbs t w i).drainAll mine).settleCounts
  if s.allDrained mine && s.counts.isEmpty then .done stOk [] s else .running s

/-- The ASIDs of a function. -/
def State.ofFunc (s : State) (fn asid : Nat) : Bool := ((s.context? asid).map fun c => c.func == fn).getD false

/-- A mailbox may name an ASID. -/
def State.mayName (s : State) (fn asid : Nat) : Bool := fn == physical || s.ofFunc fn asid

/-- TLB_INV_VA (R387). -/
def tlbInvVa (fn : Nat) (ops : List Nat) (s : State) : Answer :=
  let asid := op ops 0
  let va := op ops 1
  let n := op ops 2
  let global := op ops 3
  if 1024 ≤ asid || va % 4096 != 0 || !canonical (BitVec.ofNat 64 va) || n = 0 || 2 ^ 18 < n || 1 < global then
    .done stInvalid [] s
  else if !s.mayName fn asid then .done stRefused [] s
  else
    let func := ((s.context? asid).map Context.func).getD 64
    let hit := fun a m => meets a m va (4096 * n)
    s.invalidate (fun a => a == asid || (global == 1 && s.ofFunc func a))
      (fun x => (x.asid == asid || (global == 1 && s.ofFunc func x.asid)) && x.watches.any fun w => hit w.va.toNat w.size)
      (fun t => hit t.va (2 ^ t.size) && (if t.global then global == 1 && t.func == func else t.asid == asid))
      (fun w => w.asid == asid)
      (fun l => (l.asid == asid || (global == 1 && s.ofFunc func l.asid)) && hit (128 * l.va) 128)

/-- TLB_INV_ASID (R387). -/
def tlbInvAsid (fn : Nat) (ops : List Nat) (s : State) : Answer :=
  let asid := op ops 0
  if 1024 ≤ asid then .done stInvalid [] s
  else if !s.mayName fn asid then .done stRefused [] s
  else
    s.invalidate (· == asid) (fun x => x.asid == asid) (fun t => t.asid == asid && !t.global) (fun w => w.asid == asid)
      (fun l => l.asid == asid)

/-- TLB_INV_FUNC (R387): a virtual function's mailbox may name itself alone. -/
def tlbInvFunc (fn : Nat) (ops : List Nat) (s : State) : Answer :=
  let v := op ops 0
  if 64 ≤ v then .done stInvalid [] s
  else if fn != physical && fn != v then .done stRefused [] s
  else
    s.invalidate (s.ofFunc v) (fun x => s.ofFunc v x.asid) (fun t => t.func == v) (fun w => w.func == v)
      (fun l => s.ofFunc v l.asid)

/-- TLB_INV_S2 (R387). -/
def tlbInvS2 (_ : Nat) (ops : List Nat) (s : State) : Answer :=
  let v := op ops 0
  let ipa := op ops 1
  let n := op ops 2
  if 64 ≤ v || ipa % 4096 != 0 || n = 0 || 2 ^ 18 < n then .done stInvalid [] s
  else
    let hit := fun a m => meets a m ipa (4096 * n)
    s.invalidate (s.ofFunc v) (fun x => s.ofFunc v x.asid && x.watches.any fun w => hit w.ipa w.size)
      (fun t => t.func == v && hit t.ipa (2 ^ t.size)) (fun w => w.func == v) (fun l => s.ofFunc v l.asid)

/-- TLB_INV_VA (R387, R388). -/
def execTlbInvVa (s : State) : Host.Outcome State Fault Refusal := command 0x50 false tlbInvVa s
/-- TLB_INV_ASID (R387, R388). -/
def execTlbInvAsid (s : State) : Host.Outcome State Fault Refusal := command 0x51 false tlbInvAsid s
/-- TLB_INV_FUNC (R387, R388). -/
def execTlbInvFunc (s : State) : Host.Outcome State Fault Refusal := command 0x52 false tlbInvFunc s
/-- TLB_INV_S2 (R387, R388). -/
def execTlbInvS2 (s : State) : Host.Outcome State Fault Refusal := command 0x53 true tlbInvS2 s

/-! ### Contexts (R380, R421) -/

/-- A translation descriptor that R380 admits. -/
def tdescOk (x : Nat) : Bool :=
  let acbase := bitsAt x 64 64
  bitsAt x 180 76 == 0 && bitsAt x 135 9 == 0 && acbase % 4096 == 0
    && (acbase == 0 || (10 ≤ bitsAt x 128 5 && bitsAt x 128 5 ≤ 30))
    && bitsAt x 0 12 == 0 && bitsAt x 56 8 == 0 && acbase < 2 ^ 56

/-- The entries of an object table, 64 bytes each (R277); no command gives them (DESIGN CHOICE, log 32). -/
def objectsOf (bs : List Byte) : List (Nat × BitVec 512) :=
  ((recordsOf 64 (bs.length / 64) bs).zipIdx.filter fun e => e.1 != 0).map fun e => (e.2, BitVec.ofNat 512 e.1)

/-- A new context. -/
def contextOf (x : Nat) (qtable : DWord) (quota : Nat) (priv : Bool) (objects : List (Nat × BitVec 512)) (now : Nat) :
    Context where
  asid := bitsAt x 144 10
  func := bitsAt x 154 6
  pasid := bitsAt x 160 20
  root := bitsAt x 0 64
  prq := x.testBit 134
  hosttab := x.testBit 133
  acbase := bitsAt x 64 64
  aclog2 := bitsAt x 128 5
  qtable := qtable
  quota := quota
  priv := priv
  deckH := 1
  deckA := 0
  objects := objects
  bw := 0
  state := .running
  ended := none
  stuck := []
  rollbacks := 0
  checkpoint := none
  ckptReserved := false
  ckptWanted := false
  again := []
  reserved := []
  ckptFrames := []
  moved := []
  lastProgress := now
  frozenAt := 0

/-- CTX_CREATE (R421, R454). -/
def ctxCreate (fn : Nat) (ops : List Nat) (s : State) : Answer :=
  let x := natOfBytes (s.peek (op ops 0) 32)
  let quota := op ops 2
  let priv := op ops 3
  let c := contextOf x (BitVec.ofNat 64 (op ops 1)) quota (priv == 1) (objectsOf s.input.bytes) s.now
  if fn != physical && (priv != 0 || c.func != fn) then .done stRefused [] s
  else if !s.populated (op ops 0) || 4096 < quota || 1 < priv || !tdescOk x || (s.context? c.asid).isSome
      || s.contexts.any (fun d => d.func == c.func && d.pasid == c.pasid) then .done stInvalid [] s
  else if (s.func c.func).bound.isNone then .done stBusy [] s
  else .done stOk [c.asid] { s with contexts := s.contexts ++ [c], regs := { s.regs with ctxEver := true } }

/-- The frames that the part holds for a context: its save area, its backing, that of its checkpoint, and pages that a freeze has
moved (R421). -/
def Context.frames (c : Context) : List Nat :=
  ((c.reserved ++ c.ckptFrames).flatMap fun r => (List.range r.2).map (r.1 + ·)) ++ c.moved

/-- The device-homed frames that the leaves of a context map. -/
def State.mappedFrames (s : State) (c : Context) : List Nat :=
  ((s.leaves c).flatMap fun l => s.framesOf (s.walker c none) l.2.2).eraseDups

/-- A context is ended, if it has not been (R421, R448); `false` while what is reported of its launches waits for tokens. -/
def State.stopContext (s : State) (c : Context) : Bool × State :=
  let code := (c.ended.map fun r => r.code.toNat).getD 0
  let s := s.modContext c.asid fun c => { c with state := .ending }
  let s : State := { s with groups := s.groups.map fun g => if s.asidOf g == c.asid then g.stop else g }
  let ws := s.entryWrites c.asid (s.entriesOf c.asid)
  if s.reportFree c.asid ws then (true, s.endContext c.asid code) else (false, s.reportDemand c.asid ws)

/-- Several contexts are ended. -/
def State.stopAll (s : State) (cs : List Context) : Bool × State :=
  cs.foldl (fun (r : Bool × State) c => let x := r.2.stopContext c; (r.1 && x.1, x.2)) (true, s)

/-- Held writes of groups that have ended to frames that are given up are dropped (R448). -/
def State.dropHeldIn (s : State) (fs : List Nat) : State :=
  { s with held := s.held.filter fun h => match h.writer with
    | .group g _ _ => (s.group? g).isSome || !fs.contains (h.place / 4096)
    | _ => true }

/-- Some held write is still to be made in frames. -/
def State.heldIn (s : State) (fs : List Nat) : Bool := s.held.any fun h => fs.contains (h.place / 4096)

/-- An ended context goes, and with it its translations and the frames that the part holds for it alone (R421): a page that a
freeze moved and that another context maps stays its function's. -/
def State.forgetContext (s : State) (c : Context) : State :=
  let others := (s.contexts.filter fun d => d.asid != c.asid && d.func == c.func).flatMap s.mappedFrames
  let shared := c.moved.filter others.contains
  let s := (s.setFrames (c.frames.filter fun f => !shared.contains f) .freeDirty).setFrames shared (.owned c.func)
  let s := s.removeTlbs (fun t => t.asid == c.asid && !t.global) (fun w => w.asid == c.asid) (fun l => l.asid == c.asid)
  { s with
    contexts := delId Context.asid s.contexts c.asid
    buckets := s.buckets.filter fun b => b.asid != c.asid
    ports := s.ports.filter fun r => r.asid != c.asid
    grants := s.grants.filter fun r => r.asid != c.asid }

/-- CTX_DELETE (R421): it runs on until its reports are made and no held write of another is to be made in the frames it gives
up. -/
def ctxDelete (fn : Nat) (ops : List Nat) (s : State) : Answer :=
  match s.context? (op ops 0) with
  | none => .done (if fn = physical then stInvalid else stRefused) [] s
  | some c =>
    if fn != physical && c.func != fn then .done stRefused [] s
    else
      let r := s.stopContext c
      let s := r.2.dropHeldIn c.frames
      if !r.1 || s.heldIn c.frames then .running s else .done stOk [] (s.forgetContext c)

/-- CTX_CREATE (R421). -/
def execCtxCreate (s : State) : Host.Outcome State Fault Refusal := command 0x58 false ctxCreate s
/-- CTX_DELETE (R421). -/
def execCtxDelete (s : State) : Host.Outcome State Fault Refusal := command 0x59 false ctxDelete s

/-! ### Partitions and functions (R451 to R454) -/

/-- A partition. -/
def State.part (s : State) (k : Nat) : Partition := s.parts.getD k Partition.none
/-- A partition that is defined. -/
def State.partDefined (s : State) (k : Nat) : Bool := k < 8 && s.part k != Partition.none

/-- PART_SET (R452). -/
def partSet (_ : Nat) (ops : List Nat) (s : State) : Answer :=
  let k := op ops 0
  let cl := op ops 1
  let mp := op ops 2
  let shared := (List.range 8).any fun j => j != k &&
    ((s.part j).clusters &&& BitVec.ofNat 32 cl != 0 || (s.part j).memports &&& BitVec.ofNat 24 mp != 0)
  if 8 ≤ k || 2 ^ 32 ≤ cl || 2 ^ 24 ≤ mp || shared || ((cl == 0) != (mp == 0))
      || (!s.regs.coarse && mp != 0 && mp % 16 != 15) then .done stInvalid [] s
  else if (List.range 64).any (fun v => (s.func v).bound == some k)
      || s.loans.any (fun l => l.2 == k || (s.part k).clusters.getLsbD l.1) then .done stBusy [] s
  else .done stOk [] { s with parts := s.parts.set k ⟨BitVec.ofNat 32 cl, BitVec.ofNat 24 mp⟩ }

/-- VF_BIND (R451, R454): BUSY while the function holds a live or a frozen context, and no translation made for it before is
kept (R453). -/
def vfBind (_ : Nat) (ops : List Nat) (s : State) : Answer :=
  let v := op ops 0
  let k := op ops 1
  let root := op ops 2
  if 64 ≤ v || !s.partDefined k || root % 4096 != 0 then .done stInvalid [] s
  else if s.contexts.any fun c => c.func == v && c.state != .ending then .done stBusy [] s
  else
    .done stOk [] ((s.removeTlbs (fun t => t.func == v) (fun w => w.func == v) (fun l => s.ofFunc v l.asid)).modFunc v fun f =>
      { f with bound := some k, s2root := root })

/-- A bandwidth word that R309 admits. -/
def bwOk (x : Nat) : Bool :=
  x < 2 ^ 32 && bitsAt x 28 4 == 0 && bitsAt x 12 4 == 0 && bitsAt x 0 12 ≤ 2048 && bitsAt x 16 12 ≤ 2048
    && (bitsAt x 0 12 == 0 || bitsAt x 16 12 != 0)

/-- CTX_BW (R451, R309). -/
def ctxBw (_ : Nat) (ops : List Nat) (s : State) : Answer :=
  if (s.context? (op ops 0)).isNone || !bwOk (op ops 1) then .done stInvalid [] s
  else
    .done stOk [] { s.modContext (op ops 0) (fun c => { c with bw := BitVec.ofNat 32 (op ops 1) }) with
      buckets := s.buckets.filter fun b => b.asid != op ops 0 }

/-- Operations of a group that have a place in frames. -/
def OpKind.inFrames (k : OpKind) (fs : List Nat) : Bool :=
  let place := fun (p : Place) (n : Nat) =>
    match p with
    | .mem pa => fs.any fun f => pa < 4096 * f + 4096 && 4096 * f < pa + max 1 n
    | _ => false
  match k with
  | .access accs _ => accs.any fun a => place a.place a.op.size
  | .formLoad accs _ => accs.any fun a => place a.place a.op.size
  | .acquire pa _ _ _ => place (.mem pa) 128
  | .cacheWb pas => pas.any fun pa => place (.mem pa) 128
  | .cacheInv pas => pas.any fun pa => place (.mem pa) 128
  | .matrix _ image _ => image.any fun a => place a.place a.op.size
  | .copy ms _ _ (.counter _ pa) => place (.mem pa) 128 || ms.any fun m => place m.src m.size || place m.dst m.size
  | .copy ms _ _ _ => ms.any fun m => place m.src m.size || place m.dst m.size
  | .coll c _ => c.dst.any (fun m => place m.dst m.size) || c.src.any fun m => place m.src m.size
  | _ => false

/-- A frame stays OWNED when its owner frees it: the part holds it for a context, a frozen context maps it (R458), or it is an
image's whose entry lives (R153) (DESIGN CHOICE, log 58). -/
def State.keepsFrame (s : State) (f : Nat) : Bool :=
  (s.contexts.any fun c => c.frames.contains f || (c.state == .frozen && (s.mappedFrames c).contains f))
    || s.images.any fun e => e.any fun i => i.frames.contains f

/-- A checkpoint keeps nothing of frames that are given up: a rollback does not restore them (R450). -/
def Checkpoint.forget (k : Checkpoint) (fs : List Nat) : Checkpoint :=
  { k with covered := k.covered.filter fun f => !fs.contains f, backing := k.backing.filter fun b => !fs.contains b.1 }

/-- Frames are freed (R458): translations into them go, what went through them completes, and they are FREE-DIRTY, but
for those that stay OWNED. -/
def State.freeFrames (s : State) (fs : List Nat) : Answer :=
  let uses := fun g : Group => g.ops.any fun o => !o.done && o.kind.inFrames fs
  let s := s.removeFrames fs fun _ _ => true
  let s := (((s.groups.filter uses).map Group.id).foldl (fun (s : State) g => s.drainGroup g) s).dropHeldIn fs
  if s.groups.any uses || s.heldIn fs then .running s
  else
    let gone := fs.filter fun f => !s.keepsFrame f
    let s : State := { s with contexts := s.contexts.map fun c =>
      { c with checkpoint := c.checkpoint.map fun k => k.forget gone } }
    .done stOk [] (s.setFrames gone .freeDirty)

/-- The frames that a function owns. -/
def State.framesOwned (s : State) (v : Nat) : List Nat :=
  (s.frames.filter fun x => x.2 == some (.owned v)).map Prod.fst

/-- VF_RESET of a function (R451): its contexts end; they go, with the binding, when its frames have been freed, so that no
other command sees a part of it done (R464). -/
def State.resetFunc (s : State) (v : Nat) : Answer :=
  let cs := s.contexts.filter fun c => c.func == v
  let held := cs.flatMap Context.frames
  let r := s.stopAll cs
  let s := r.2.dropHeldIn held
  if !r.1 || s.heldIn held then .running s
  else
    match s.freeFrames (s.framesOwned v) with
    | .running s => .running s
    | .done st vals s =>
      .done st vals ((cs.foldl State.forgetContext s).modFunc v fun f => { f with bound := none, s2root := 0 })

/-- VF_RESET (R451). -/
def vfReset (_ : Nat) (ops : List Nat) (s : State) : Answer :=
  if 64 ≤ op ops 0 then .done stInvalid [] s else s.resetFunc (op ops 0)

/-- PART_SET (R452). -/
def execPartSet (s : State) : Host.Outcome State Fault Refusal := command 0x68 true partSet s
/-- VF_BIND (R454). -/
def execVfBind (s : State) : Host.Outcome State Fault Refusal := command 0x69 true vfBind s
/-- CTX_BW (R309, R454). -/
def execCtxBw (s : State) : Host.Outcome State Fault Refusal := command 0x6A true ctxBw s
/-- VF_RESET (R451). -/
def execVfReset (s : State) : Host.Outcome State Fault Refusal := command 0x6B true vfReset s

/-! ### Loans (R455, R456) -/

/-- The CUs of a cluster. -/
def cusOf (c : Nat) : List Nat := (List.range 8).map (8 * c + ·)

/-- A cluster's L1s are written home and emptied, and its instruction caches and TLBs drop every entry (R455). -/
def State.flushCluster (s : State) (c : Nat) : State :=
  (cusOf c).foldl (fun (s : State) k => (s.evictAll k fun _ => true).modCu k fun u =>
    { u with lines := [], fetching := [], itlb := [], dtlb := [], ctlb := [] }) s

/-- CLUSTER_LEND (R455): a team whose rows lie in the Waste of a CU is there still (R436). -/
def clusterLend (_ : Nat) (ops : List Nat) (s : State) : Answer :=
  let c := op ops 0
  let b := op ops 1
  match s.portOwner c with
  | none => .done stInvalid [] s
  | some a =>
    if 32 ≤ c || !s.partDefined b || a = b then .done stInvalid [] s
    else if s.loans.any (fun l => l.1 == c)
        || s.teams.any (fun t => (t.residency == .resident || t.residency == .waste) && t.cus.any (fun k => k / 8 == c) &&
          (s.func (((s.context? t.asid).map Context.func).getD 64)).bound == some a) then .done stBusy [] s
    else .done stOk [] { s.flushCluster c with loans := s.loans ++ [(c, b)] }

/-- Gangs are swapped out whole, with their original wait starts (R433). -/
def State.swapWhole (s : State) (ts : List Nat) : Bool × State :=
  let starts := ts.map fun t => (t, ((s.team? t).map Team.waitStart).getD 0)
  let r := s.swapOut true ts
  if r.1 then (true, starts.foldl (fun (s : State) x => s.modTeam x.1 fun t => { t with waitStart := x.2 }) r.2) else r

/-- CLUSTER_RECLAIM (R433, R456): during a freeze it waits; while it runs, no group issues on the cluster, and nothing is placed
there. -/
def clusterReclaim (_ : Nat) (ops : List Nat) (s : State) : Answer :=
  let c := op ops 0
  if !(s.loans.any fun l => l.1 == c) then .done stInvalid [] s
  else if s.freeze.isSome then .running s
  else
    let there := (s.teams.filter fun t => (t.residency == .resident || t.residency == .waste)
      && t.cus.any fun k => k / 8 == c).map Team.id
    let r := s.swapWhole there
    if r.1 then .done stOk [] { r.2.flushCluster c with loans := s.loans.filter fun l => l.1 != c } else .running r.2

/-- CLUSTER_LEND (R455). -/
def execClusterLend (s : State) : Host.Outcome State Fault Refusal := command 0x6C true clusterLend s
/-- CLUSTER_RECLAIM (R456). -/
def execClusterReclaim (s : State) : Host.Outcome State Fault Refusal := command 0x6D true clusterReclaim s

/-! ### Frames (R457, R458) -/

/-- The frames that a command names. -/
def framesNamed (pa n : Nat) : List Nat := (List.range n).map (pa / 4096 + ·)

/-- FRAME_CLAIM (R457). -/
def frameClaim (_ : Nat) (ops : List Nat) (s : State) : Answer :=
  let pa := op ops 0
  let n := op ops 1
  let owner := op ops 2
  let fs := framesNamed pa n
  if pa % 4096 != 0 || n = 0 || 2 ^ 18 < n || 64 < owner || !(fs.all fun f => s.inDevice (4096 * f)) then .done stInvalid [] s
  else if fs.any (fun f => s.frame f != .clean) then .done stBusy [] s
  else
    let ports := match (s.func owner).bound with
      | some k => (s.part k).memports
      | none => 0
    if owner < 64 && fs.any (fun f => !(ports.getLsbD ((s.memPort (4096 * f)).getD 24))) then .done stRefused [] s
    else .done stOk [] (s.setFrames fs (.owned owner))

/-- A frame is OWNED. -/
def State.isOwned (s : State) (f : Nat) : Bool := match s.frame f with | .owned _ => true | _ => false

/-- FRAME_FREE (R458). -/
def frameFree (_ : Nat) (ops : List Nat) (s : State) : Answer :=
  let fs := framesNamed (op ops 0) (op ops 1)
  if op ops 0 % 4096 != 0 || fs.isEmpty || 2 ^ 18 < fs.length || !(fs.all s.isOwned) then .done stInvalid [] s
  else s.freeFrames fs

/-- FRAME_CLAIM (R457). -/
def execFrameClaim (s : State) : Host.Outcome State Fault Refusal := command 0x70 true frameClaim s
/-- FRAME_FREE (R458). -/
def execFrameFree (s : State) : Host.Outcome State Fault Refusal := command 0x71 true frameFree s

/-- MB_CMD_UNASSIGNED (R463): its code is the input's value. -/
def execMbCmdUnassigned (s : State) : Host.Outcome State Fault Refusal :=
  command (fieldOf s.input.value 0 8) false (fun _ _ s => .done stInvalid [] s) s

/-! ### Freezing (R441 to R443) -/

/-- The groups of contexts. -/
def State.groupsIn (s : State) (asids : List Nat) : List Group := s.groups.filter fun g => asids.contains (s.asidOf g)

/-- An operation that a freeze saves unlanded (R442). -/
def Op.saved (o : Op) : Bool := o.done || match o.kind with | .coll _ _ => true | .drop _ => true | _ => false

/-- The drains of frozen groups complete, collectives apart. -/
def State.drainFrozen (s : State) (asids : List Nat) : State :=
  (s.groupsIn asids).foldl (fun (s : State) g => (g.ops.filter fun o => !o.saved).foldl (fun (s : State) o =>
    s.completeOp g.id o.id) s) s

/-- Step 2 of R442 is complete: the drains are, every revocation delivered to a group is acknowledged (R26), and no hold
buffer holds a breaking write (R10). -/
def State.frozenStopped (s : State) (asids : List Nat) : Bool :=
  ((s.groupsIn asids).all fun g => g.ops.all Op.saved && !s.unacked g) && s.held.isEmpty

/-- What the CUs have sent is accepted, and the host gives up the lines that it may use but where its coherence serves them;
none while some of it waits. -/
def State.recallAll (s : State) : Bool × State :=
  match s.performAllSent with
  | none => (false, s.demandCus (s.cus.map Prod.fst))
  | some s =>
    let ls := (s.lines.filter fun x => 0 < x.2.host && !s.hostServes x.1).map Prod.fst
    if ls.isEmpty then (true, s)
    else (false, ls.foldl (fun (s : State) l => s.modLine l fun k => { k with snooped := true }) s)

/-- Step 3: words, registrations and tokens go home, and the teams go to the save area. -/
def State.saveFrozen (s : State) (asids : List Nat) : State :=
  let s := (s.cus.map Prod.fst).foldl (fun (s : State) c => ((s.cu c).l1.filter fun w => w.2.state == .dirty).foldl
    (fun (s : State) w => s.writeBack c w.1) s) s
  let s := (s.lines.map Prod.fst).foldl (fun (s : State) l => (s.lineHome l).backToHost l) s
  let cus := ((s.teams.filter fun t => asids.contains t.asid).flatMap Team.cus).eraseDups
  let s : State := { s with
    teams := s.teams.map fun (t : Team) => if asids.contains t.asid then { t with residency := .frozen } else t }
  s.returnBlocks cus

/-- A run of second-tier frames, none of them OWNED or being zeroed, whose first is a multiple of their number. -/
def State.spareRun (s : State) (n : Nat) : Option Nat :=
  let used := (s.frames.filter fun x => x.2 != some .clean && x.2 != some .freeDirty).map Prod.fst
  let starts := 2 ^ 32 :: used.map fun f => (f / n + 1) * n
  starts.find? fun g => s.inT2 (4096 * g) && s.inT2 (4096 * (g + n - 1)) && within used g n == 0

/-- The part of `n` aligned frames of a run that is taken from it, and what is left. -/
def splitRun (n : Nat) (r : Nat × Nat) : Option (Nat × List (Nat × Nat)) :=
  let g := (r.1 + n - 1) / n * n
  if g + n ≤ r.1 + r.2 then
    some (g, [(r.1, g - r.1), (g + n, r.1 + r.2 - g - n)].filter fun x => x.2 != 0)
  else none

/-- Of runs, `n` aligned frames: from the first of exactly this size, else from the first that holds them. -/
def splitRuns (n : Nat) (rs : List (Nat × Nat)) : Option (Nat × List (Nat × Nat)) :=
  let pick := (rs.find? fun r => r.2 == n && r.1 % n == 0).or (rs.find? fun r => (splitRun n r).isSome)
  pick.bind fun r => (splitRun n r).map fun x => (x.1, x.2 ++ rs.erase r)

/-- The backing of a page of `n` frames: reserved for one of some contexts, or another run of the second tier that nothing
owns (R12, R442). -/
def State.backing (s : State) (n : Nat) : List Context → Option (Nat × State)
  | [] => ((s.backingRun n n).or (s.spareRun n)).map fun f => (f, s)
  | c :: cs =>
    match splitRuns n (c.reserved.drop 1) with
    | some (f, rs) => some (f, s.modContext c.asid fun c => { c with reserved := c.reserved.take 1 ++ rs })
    | none => s.backing n cs

/-- A run of `n` frames has moved: what names an address in it (R415). -/
def renamed (old new n pa : Nat) : Nat := if old ≤ pa / 4096 && pa / 4096 < old + n then pa + 4096 * new - 4096 * old else pa

/-- A watch follows the frames it watches; its IPA does so where there is no second stage (R385). -/
def Slot.follow (x : Slot) (old new n : Nat) (stage2 : Bool) : Slot :=
  { x with watches := x.watches.map fun w =>
      { w with pa := renamed old new n w.pa, ipa := if stage2 then w.ipa else renamed old new n w.ipa } }

/-- A checkpoint follows the frames it covers. -/
def Checkpoint.follow (k : Checkpoint) (old new n : Nat) (stage2 : Bool) : Checkpoint :=
  let at' := fun f => renamed old new n (4096 * f) / 4096
  { k with
    slots := k.slots.map fun x => (x.1, x.2.follow old new n stage2)
    covered := k.covered.map at'
    backing := k.backing.map fun b => (at' b.1, b.2.1, b.2.2.map fun w => renamed old new n (4 * w) / 4) }

/-- The bytes and poison of a run of frames go to another, which is the part's, with what names them; watched frames are
SHARED there too, and the old ones are FREE-DIRTY (R365, R442). -/
def State.moveRun (s : State) (old new n : Nat) (stage2 : Bool) : State :=
  let bytes := s.peek (4096 * old) (4096 * n)
  let bad := (s.poison.filter fun w => old ≤ w / 1024 && w / 1024 < old + n).map fun w => w + 1024 * new - 1024 * old
  let news := (List.range n).map (new + ·)
  let s := s.fillFrames (4096 * new) bytes news
  let s : State := { s with
    poison := bad.foldl (fun p w => insertNew w p) s.poison
    slots := s.slots.map fun x => (x.1, x.2.follow old new n stage2)
    contexts := s.contexts.map fun c => { c with checkpoint := c.checkpoint.map fun k => k.follow old new n stage2 } }
  let s := (news.filter fun f => s.watchedFrame (4096 * f)).foldl (fun (s : State) f => s.share f) s
  (s.setFrames news (.owned 64)).setFrames ((List.range n).map (old + ·)) .freeDirty

/-- The contiguous hint of a level-4 leaf's block goes when one of its pages moves by itself (R383) (DESIGN CHOICE, log 33). -/
def State.unhint (s : State) (pa : Nat) : State :=
  (List.range 16).foldl (fun (s : State) i =>
    let at' := pa / 128 * 128 + 8 * i
    let e := s.readEntry at'
    if contLeaf e then s.poke at' (bytesOfNat 8 (e - 2 ^ 11)) else s) s

/-- The first frame of a leaf's page. -/
def Leaf.first (l : Leaf) : Nat := l.out / 2 ^ l.size * 2 ^ (l.size - 12)

/-- Every leaf that names frames of a run names those to which they have moved. -/
def State.editLeaves (s : State) (ls : List (Nat × Nat × Leaf)) (old new n : Nat) : State :=
  (ls.filter fun l => old ≤ l.2.2.first && l.2.2.first < old + n).foldl (fun (s : State) l =>
    let s := if l.2.2.level == 4 then s.unhint l.1 else s
    let e := s.readEntry l.1
    s.poke l.1 (bytesOfNat 8 (e - entryFrame e + 4096 * (l.2.2.first - old + new)))) s

/-- The first-tier page that a leaf of a function maps moves to the second tier with every leaf that names it (R442, R415). -/
def State.moveLeaf (s : State) (v : Nat) (cs : List Context) (stage2 : Bool) (ls : List (Nat × Nat × Leaf))
    (l : Nat × Nat × Leaf) : State :=
  let n := 2 ^ (l.2.2.size - 12)
  let old := l.2.2.first
  if !s.movable v l.2.2 then s
  else
    match s.backing n cs with
    | none => s
    | some (new, s) =>
      let s := (s.moveRun old new n stage2).editLeaves ls old new n
      match cs with
      | [] => s
      | c :: _ => s.modContext c.asid fun c => { c with moved := c.moved ++ (List.range n).map (new + ·) }

/-- The second-stage leaves under a table, as `leavesUnder` gives those of the first stage. -/
def State.leavesUnder2 (s : State) (k : Walker) (table ipa : Nat) : List Nat → List (Nat × Nat × Leaf)
  | [] => []
  | level :: rest =>
    (List.range 512).flatMap fun i =>
      let pa := table + 8 * i
      let e := s.readEntry pa
      let ipa := ipa + i * 2 ^ leafSize level
      if !e.testBit 0 || entryReserved e level true then []
      else if e.testBit 1 then [(pa, ipa, leafOf e level ipa)]
      else if s.tableFrameOk k (entryFrame e) then s.leavesUnder2 k (entryFrame e) ipa rest
      else []

/-- Step 4 for a function (R442): the first-tier pages of its frozen contexts with device-resident tables move, the largest
leaves first; under a second stage it is that stage's leaves which name their frames (DEDUCED, log 33). -/
def State.movePages (s : State) (asids : List Nat) (v : Nat) : State :=
  let cs := s.contexts.filter fun c => c.func == v && asids.contains c.asid && !c.hosttab
  match cs with
  | [] => s
  | c :: _ =>
    let root := (s.func v).s2root
    let ls := if root = 0 then cs.flatMap s.leaves else s.leavesUnder2 (s.walker c none) root 0 [0, 1, 2, 3, 4]
    let order := sortBy (fun a b : Nat × Nat × Leaf => b.2.2.size ≤ a.2.2.size) ls
    let s := order.foldl (fun (s : State) l => s.moveLeaf v cs (root != 0) ls l) s
    s.removeTlbs (fun t => t.func == v) (fun w => w.func == v) (fun l => s.ofFunc v l.asid)

/-- The positions of the pod, other than this module's: those that a link has reached, and, where one has, those over other
modules, which a free value names (R19, R470) (DESIGN CHOICE, log 30). -/
def State.podPeers (s : State) : List Nat :=
  let ever := (s.links.filter fun l => (l.up || l.retrain != 0) && l.pod == fieldOf s.regs.podId 0 16).map Link.pos
  if ever.isEmpty then []
  else (List.range 256).filter fun p => p != fieldOf s.regs.podId 16 8 && (ever.contains p || Config.peerThere p)

/-- The positions that a pod freeze still awaits: they can be reached and have not reported. -/
def State.awaited (s : State) (f : FreezeRun) : List Nat :=
  if f.pod then s.podPeers.filter fun p => !f.reported.getLsbD p && s.posUp p else []

/-- The positions that did not report after a link failure (R441). -/
def State.unreported (s : State) (f : FreezeRun) : Nat :=
  if f.pod then (s.podPeers.filter fun p => !f.reported.getLsbD p).foldl (fun n p => n + 2 ^ p) 0 else 0

/-- A freeze begins: nothing of its contexts issues, is placed or is accepted from here on. -/
def State.beginFreeze (s : State) (fn : Nat) (pod : Bool) : State :=
  let asids := (s.contexts.filter fun c => c.state == .running).map Context.asid
  { s with
    freeze := some ⟨fn, pod, asids, 1, 0⟩
    contexts := s.contexts.map fun c =>
      if c.state == .running then { c with state := .frozen, frozenAt := s.now } else c }

/-- A freeze goes on as far as it can: true when it is complete. -/
def State.runFreeze (s : State) : Bool × State :=
  match s.freeze with
  | none => (true, s)
  | some f =>
    let s := s.drainFrozen f.asids
    let r := s.recallAll
    let s := r.2
    if !s.frozenStopped f.asids || !r.1 then (false, s)
    else
      let f := { f with phase := 2 }
      let s : State := { s with freeze := some f }
      if !(s.awaited f).isEmpty then (false, s)
      else
        let fns := ((s.contexts.filter fun c => f.asids.contains c.asid).map Context.func).eraseDups
        (true, fns.foldl (fun (s : State) v => s.movePages f.asids v) (s.saveFrozen f.asids))

/-- FREEZE (R441, R442); one that meets a freeze of a peer's joins it. -/
def freezeCommand (fn : Nat) (ops : List Nat) (s : State) : Answer :=
  if 1 < op ops 0 then .done stInvalid [] s
  else
    let s : State := match s.freeze with
      | some f => { s with freeze := some { f with fn := fn, pod := f.pod || op ops 0 == 1 } }
      | none => s.beginFreeze fn (op ops 0 == 1)
    match s.runFreeze with
    | (false, s) => .running s
    | (true, s) =>
      let lost := (s.freeze.map s.unreported).getD 0
      let s : State := { s with freeze := none }
      if lost = 0 then .done stOk [] s
      else .done stUnreached ((List.range 4).map fun k => lost / 2 ^ (64 * k) % 2 ^ 64) s

/-- FREEZE (R441, R442). -/
def execFreeze (s : State) : Host.Outcome State Fault Refusal := command 0x60 true freezeCommand s

/-- POD_FREEZE_MESSAGE (R442): the input's numbers are 0 for the command, or 1 and the position that reports. With the
command the module freezes in lockstep with the pod; without input a freeze that a peer began goes on. -/
def execPodFreezeMessage (s : State) : Host.Outcome State Fault Refusal :=
  let s : State := match s.input.nums, s.freeze with
    | [1, p], some f => { s with freeze := some { f with reported := f.reported ||| (1#256 <<< (p % 256)) } }
    | [0], none => s.beginFreeze 65 true
    | [0], some f => { s with freeze := some { f with pod := true } }
    | _, _ => s
  match s.freeze with
  | some f =>
    if f.fn = 65 then
      match s.runFreeze with
      | (true, s) => .next { s with freeze := none }
      | (false, s) => .next s
    else .next s
  | none => .next s

/-- A frozen context resumes (R443): its teams join the waiting set, its moved pages are its function's from then on (R458), its
buckets start full (R310), its codebooks are read again at their first later use (R178), and TOPO assumptions made on another
shape break (R416). -/
def State.thawContext (s : State) (c : Context) : State :=
  let s := s.breakShape c
  let s := s.modContext c.asid fun c => { c with state := .running, moved := [] }
  let s := s.setFrames (c.moved.filter fun f => s.frame f == .owned 64) (.owned c.func)
  let mine := (s.launches.filter fun l => l.asid == c.asid).map Launch.id
  let s := s.rereadBooks mine (s.cus.map Prod.fst)
  { s with
    buckets := s.buckets.filter fun b => b.asid != c.asid
    teams := s.teams.map fun (t : Team) =>
      if t.asid == c.asid && t.residency == .frozen then { t with residency := .waiting } else t }

/-- THAW (R441, R443): an ASID, and a flag for all. -/
def thawCommand (_ : Nat) (ops : List Nat) (s : State) : Answer :=
  let frozen := s.contexts.filter fun c => c.state == .frozen && !((s.freeze.map fun f => f.asids.contains c.asid).getD false)
  if op ops 1 = 1 then .done stOk [] (frozen.foldl State.thawContext s)
  else
    match frozen.find? fun c => c.asid == op ops 0 with
    | some c => .done stOk [] (s.thawContext c)
    | none => .done stInvalid [] s

/-- THAW (R443). -/
def execThaw (s : State) : Host.Outcome State Fault Refusal := command 0x61 true thawCommand s

end Sys2Proof.Machine
end

