-- ==== Sys2Proof/Machine/Host.lean ====
section
/-!
DEFINITION. The host, the fabric and bring-up (29): SUMMARY, the management registers, resets, power, links and Ethernet,
with the events of R430 and R306 that come from sensors and scrubbing. What the outside presents stands in the input.
-/
namespace Sys2Proof.Machine

/-! ### SUMMARY (R465, R466) -/

/-- A record of a report: numbers of given sizes, padded to a size. -/
def summaryRecord (size : Nat) (xs : List (Nat × Nat)) : List Byte :=
  let bs := xs.flatMap fun x => bytesOfNat x.1 x.2
  bs ++ List.replicate (size - bs.length) 0#8

/-- The contexts that a report covers. -/
def State.reported (s : State) (fn : Nat) : List Context := s.contexts.filter fun c => fn == physical || c.func == fn

/-- A freeze of a context is under way: it is reported frozen, with no image until the freeze is complete (R11, R472) (DEDUCED,
log 34). -/
def State.freezing (s : State) (asid : Nat) : Bool := (s.freeze.map fun f => f.asids.contains asid).getD false

/-- Section 0: contexts. -/
def State.summaryContexts (s : State) (fn : Nat) : List (List Byte) :=
  (s.reported fn).map fun c =>
    let state := match c.state with
      | .running => 0
      | .frozen => 1
      | .ending => 2
    summaryRecord 64 [(2, c.asid), (1, c.func), (1, state), (4, c.pasid), (4, s.slotsHeld c.asid), (4, c.deckH), (4, c.deckA),
      (4, c.rollbacks)]

/-- Section 1: queues. -/
def State.summaryQueues (s : State) (fn : Nat) : List (List Byte) :=
  (s.reported fn).flatMap fun c => (List.range 8).filterMap fun q =>
    (s.queue? c q).map fun h =>
      let states := (List.range (2 ^ h.log2)).map fun i =>
        match s.readVa c (h.entry i + 8) 1 with
        | some bs => natOfBytes bs / 2 % 8
        | none => 5
      summaryRecord 32 ([(2, c.asid), (1, q), (1, 0), (2, h.head), (2, h.tail)]
        ++ (List.range 5).map fun k => (4, (states.filter (· == k)).length))

/-- A record of section 2. -/
def Stuck.record' (x : Stuck) (asid : Nat) : List Byte :=
  summaryRecord 64 [(2, asid), (4, x.team), (2, x.index), (1, x.cu), (1, x.state), (8, x.pc.toNat), (4, x.record.code.toNat),
    (4, x.record.lanes.toNat), (4, x.record.info.toNat), (8, x.record.pc.toNat), (8, x.record.addr.toNat)]

/-- Section 2: groups blocked, parked, faulted or in their handler, and those that an end released. -/
def State.summaryGroups (s : State) (fn : Nat) : List (List Byte) :=
  (s.reported fn).flatMap fun c =>
    ((s.groups.filter fun g => s.asidOf g == c.asid && g.summaryState != 0).map fun g => (s.stuckOf g).record' c.asid)
      ++ c.stuck.map fun x => x.record' c.asid

/-- Section 3: assumptions. -/
def State.summarySlots (s : State) (fn : Nat) : List (List Byte) :=
  (s.slots.filter fun x => x.2.gen != 0 && (s.reported fn).any fun c => c.asid == x.2.asid).map fun x =>
    let state := match x.2.state with
      | .live => 0
      | .broken => 1
      | .free => 2
    summaryRecord 32 [(2, x.1), (2, x.2.asid), (4, x.2.gen.toNat), (1, x.2.kind), (1, state), (1, x.2.reason),
      (1, if x.2.revocation.isSome then 1 else 0),
      (4, (x.2.revocation.map fun v => v.toSend.length + v.waiting.length).getD 0)]

/-- Section 4: partitions. -/
def State.summaryParts (s : State) (fn : Nat) : List (List Byte) :=
  ((List.range 8).filter fun k => s.partDefined k && (fn == physical || (s.func fn).bound == some k)).map fun k =>
    let p := s.part k
    let bound := (List.range 64).foldl (fun n v => if (s.func v).bound == some k then n + 2 ^ v else n) 0
    let lent := (s.loans.filter fun l => p.clusters.getLsbD l.1).foldl (fun n l => n + 2 ^ l.1) 0
    summaryRecord 32 [(1, k), (3, 0), (4, p.clusters.toNat), (4, p.memports.toNat), (8, bound), (4, lent)]

/-- The code of a frame's state. -/
def FrameState.code : FrameState → Nat
  | .freeDirty => 0x100
  | .zeroing => 0x101
  | .clean => 0x102
  | .owned o => o

/-- The frames of the part in a state: those listed, and the rest of each tier. -/
def State.frameCount (s : State) (code : Nat) : Nat :=
  let listed := s.frames.filter fun x => x.2.isSome && s.inDevice (4096 * x.1)
  let t1 := (listed.filter fun x => inT1 (4096 * x.1)).length
  let table := 2 ^ 18 - (listed.filter fun x => s.inFrameTable x.1).length
  let rest := s.t2Bytes / 4096 + s.fitting.expGib.foldl (fun n g => n + g * 2 ^ 18) 0 - (listed.length - t1)
  (listed.filter fun x => (x.2.map FrameState.code) == some code).length
    + (if code = 64 then table else 0) + (if code = 0x102 then 2 ^ 26 - t1 - table else 0)
    + (if code = 0x100 then rest else 0)

/-- Section 5: frames. -/
def State.summaryFrames (s : State) (fn : Nat) : List (List Byte) :=
  let codes := if fn = physical then List.range 66 ++ [0x100, 0x101, 0x102] else [fn]
  (codes.filter fun k => s.frameCount k != 0).map fun k => summaryRecord 16 [(2, k), (6, 0), (8, s.frameCount k)]

/-- Section 6: freeze images. -/
def State.summaryImages (s : State) (fn : Nat) : List (List Byte) :=
  ((s.reported fn).filter fun c => c.state == .frozen && !s.freezing c.asid).map fun c =>
    summaryRecord 32 [(2, c.asid), (6, 0), (8, 4096 * ((c.reserved.head?.map Prod.fst).getD 0)), (8, Config.saveBytes c.asid), (8, c.frozenAt)]

/-- Section 7: error counters. -/
def State.summaryErrors (s : State) (fn : Nat) : List (List Byte) :=
  if fn = physical then
    (List.range 20 ++ (List.range 36).map (32 + ·)).map fun k => summaryRecord 16 [(4, k), (4, 0), (8, sget 0 s.errors k)]
  else []

/-- REQUESTER of a trump entry (R372). The home store makes no request, and 6 is never written. -/
def requesterCode : Holder → Nat
  | .die d => d % 4
  | .host => 4
  | .link => 5
  | .home => 6

/-- A trump entry's word (R372). -/
def Trump.word (t : Trump) : Nat :=
  2 ^ 63 + (if t.active then 2 ^ 62 else 0) + (if t.write then 2 ^ 61 else 0) + 2 ^ 58 * requesterCode t.requester + t.line

/-- Section 8: trump entries. -/
def State.summaryTrumps (s : State) (fn : Nat) : List (List Byte) :=
  if fn = physical then s.trumps.map fun t => summaryRecord 16 [(8, t.word), (8, s.homeOf t.line)] else []

/-- The report (R466). -/
def State.summary (s : State) (fn : Nat) : List Byte :=
  let sections := [s.summaryContexts fn, s.summaryQueues fn, s.summaryGroups fn, s.summarySlots fn, s.summaryParts fn,
    s.summaryFrames fn, s.summaryImages fn, s.summaryErrors fn, s.summaryTrumps fn]
  let body := sections.flatMap List.flatten
  summaryRecord 128 ([(8, s.devId.toNat), (8, s.clock.toNat), (8, s.clock.toNat), (8, 128 + body.length)]
    ++ sections.map fun x => (4, x.length)) ++ body

/-- SUM_RES: DONE, the report's length and the status. -/
def sumRes (status len : Nat) : BitVec 64 := BitVec.ofNat 64 (2 ^ 63 + 2 ^ 8 * len + status)

/-- A report is written, but where a frame is being zeroed (R377). -/
def State.writeReport (s : State) (pa : Nat) (bs : List Byte) : State :=
  (cutFrames pa bs (bs.length + 1)).foldl (fun (s : State) x =>
    if s.zeroingFrame x.1 then s.countError eZeroing else s.poke x.1 x.2) s

/-- SUMMARY (R465): the input's value is written to SUM_ADDR. -/
def execSummary (s : State) : Host.Outcome State Fault Refusal :=
  let fn := s.input.fn
  if physical < fn then .next s
  else if !(s.mailbox fn).sumRes.getLsbD 63 then .next (s.countError eSummary)
  else
    let pa := s.input.value.toNat
    let m := s.mailbox fn
    let report := s.summary fn
    let ok := pa % 4096 == 0 && s.populated pa && (s.populated (pa + report.length - 1)) && report.length ≤ m.sumLen.toNat
    let s := s.modMailbox fn fun m => { m with sumAddr := s.input.value, sumRes := sumRes (if ok then stOk else stInvalid) report.length }
    .next (if ok then s.writeReport pa report else s)

/-! ### Registers (R20, R432, R449, R461, R463, R468) -/

/-- MEM_ILV takes its first write after reset and before the first context (R20). -/
def State.writeIlv (s : State) (x : BitVec 64) : State :=
  if s.regs.ilvSet || s.regs.ctxEver then s else { s with regs := { s.regs with ilvSet := true, coarse := x.getLsbD 0 } }

/-- MEM_ILV_WRITE (R20). -/
def execMemIlvWrite (s : State) : Host.Outcome State Fault Refusal :=
  .next (if s.input.fn = physical then s.writeIlv s.input.value else s.countError eRegister)

/-- LINK_STS of a link (R470). -/
def State.linkStatus (s : State) (k : Nat) : BitVec 64 :=
  let l := s.links.getD k Link.reset
  BitVec.ofNat 64 ((if l.up then 1 else 0) + (if k < s.linkCount then 2 else 0) + 2 ^ 24 * (l.pod % 2 ^ 16)
    + 2 ^ 40 * (l.pos % 2 ^ 8) + 2 ^ 48 * (l.retrain % 2 ^ 16))

/-- The register CONN_ROW of a cluster port (R453). -/
def State.connRegister (s : State) (p : Nat) : BitVec 64 :=
  BitVec.ofNat 64 (2 ^ 24 * ((s.portPart p).getD 0 % 8) + (s.connRow p).toNat)

/-- A register of the physical function's block; an offset that no register has reads zero (R461). -/
def State.readBlock (s : State) (offset : Nat) : BitVec 64 :=
  let r := s.regs
  let num := BitVec.ofNat 64
  match offset with
  | 0x0000 => s.devId
  | 0x0010 => s.devCap
  | 0x0018 => num (if r.coarse then 1 else 0)
  | 0x0020 => r.podId.setWidth 64
  | 0x0028 => r.biasBase
  | 0x0030 => r.frameBase
  | 0x0038 => r.netBase
  | 0x0040 => num r.log2n
  | 0x0048 => num r.hangMs
  | 0x0050 => num ((if r.ready then 1 else 0) + 2 ^ 32 * r.cause)
  | 0x0058 => num r.limitW
  | 0x0060 => num (r.avgW % 2 ^ 12 + 2 ^ 16 * (r.clockMhz % 2 ^ 10) + if r.capped then 2 ^ 31 else 0)
  | 0x0068 => s.fitting.portCfg.setWidth 64
  | 0x0070 => num (s.fitting.t2P % 2 ^ 8 + 2 ^ 16 * (s.fitting.t2K % 2 ^ 16))
  | n =>
    if 0x0200 ≤ n && n < 0x0300 && n % 8 == 0 then s.connRegister ((n - 0x0200) / 8)
    else if 0x0300 ≤ n && n < 0x0390 && n % 8 == 0 then s.linkStatus ((n - 0x0300) / 8)
    else 0

/-- A register of a function's own mailbox and summary port (R463, R465). -/
def State.readPort (s : State) (fn offset : Nat) : BitVec 64 :=
  let m := s.mailbox fn
  match offset with
  | 0x1000 => BitVec.ofNat 64 (m.cmd % 2 ^ 8)
  | 0x1100 => m.sumAddr
  | 0x1108 => m.sumLen
  | 0x1110 => m.sumRes
  | n =>
    if 0x1008 ≤ n && n < 0x1048 && n % 8 == 0 then m.oper.getD ((n - 0x1008) / 8) 0
    else if 0x1048 ≤ n && n < 0x1088 && n % 8 == 0 then m.res.getD ((n - 0x1048) / 8) 0
    else 0

/-- What a read of a function's registers gives (R461): a virtual function has its own mailbox and summary port alone.
A read changes nothing. -/
def State.readRegister (s : State) (fn offset : Nat) : BitVec 64 :=
  if 0x1000 ≤ offset && offset < 0x1200 then s.readPort fn offset
  else if fn = physical then s.readBlock offset
  else 0

/-- A write of a register of the physical function that has no row of its own. -/
def State.writeRegister (s : State) (offset : Nat) (x : BitVec 64) : State :=
  let counted := s.countError eRegister
  let v := x.toNat
  let once := fun (set : Bool) (t : State) => if set || s.regs.ctxEver then s else t
  if offset = 0x0018 then s.writeIlv x
  else if offset = 0x0020 then
    if v / 2 ^ 24 != 0 then counted
    else once s.regs.podSet { s with regs := { s.regs with podSet := true, podId := BitVec.ofNat 24 v } }
  else if offset = 0x0028 then once s.regs.biasSet { s with regs := { s.regs with biasSet := true, biasBase := BitVec.ofNat 64 (v / 4096 * 4096) } }
  else if offset = 0x0038 then once s.regs.netSet { s with regs := { s.regs with netSet := true, netBase := BitVec.ofNat 64 (v / 4096 * 4096) } }
  else if offset = 0x0040 then
    let n := v % 32
    if 12 ≤ n && n ≤ 24 then { s with regs := { s.regs with log2n := n } } else s
  else if offset = 0x0048 then
    let n := v % 2 ^ 17
    if n ≤ 100000 then { s with regs := { s.regs with hangMs := n } } else s
  else if offset = 0x0058 then
    if v / 2 ^ 12 != 0 then counted
    else if 1000 ≤ v && v ≤ 3000 then { s with regs := { s.regs with limitW := v } }
    else s
  else if [0x0000, 0x0010, 0x0030, 0x0050, 0x0060, 0x0068, 0x0070].contains offset
      || (0x0200 ≤ offset && offset < 0x0300) || (0x0300 ≤ offset && offset < 0x0390) then s
  else counted

/-- A write within a function's own mailbox and summary port: operands and the buffer's length. -/
def State.writePort (s : State) (fn offset : Nat) (x : BitVec 64) : State :=
  if 0x1008 ≤ offset && offset < 0x1048 && offset % 8 = 0 then
    s.modMailbox fn fun m => { m with oper := m.oper.set ((offset - 0x1008) / 8) x }
  else if offset = 0x1108 then
    if (s.mailbox fn).sumRes.getLsbD 63 then s.modMailbox fn fun m => { m with sumLen := x } else s.countError eSummary
  else s.countError eRegister

/-- System software writes an entry of a context's object table (R277). -/
def State.writeObject (s : State) (asid k : Nat) (bs : List Byte) : State :=
  s.modContext asid fun c => { c with objects := sset 0 c.objects k (BitVec.ofNat 512 (natOfBytes (bs.take 64))) }

/-- REGISTER_WRITE (R461): registers without a row of their own. MB_CMD, SUM_ADDR and the doorbell have theirs. The input's
function 65 stands for system software's write of an object entry: its value is the ASID, its offset the entry's number,
its bytes the entry (DESIGN CHOICE, log 32). -/
def execRegisterWrite (s : State) : Host.Outcome State Fault Refusal :=
  let fn := s.input.fn
  let offset := s.input.offset
  if fn = 65 then .next (s.writeObject s.input.value.toNat offset s.input.bytes)
  else if physical < fn || offset = 0x1000 || offset = 0x1100 || offset = 0x2000 then .next s
  else if 0x1000 ≤ offset && offset < 0x1200 then .next (s.writePort fn offset s.input.value)
  else if fn = physical then .next (s.writeRegister offset s.input.value)
  else .next (s.countError eRegister)

/-! ### Resets (R467) -/

/-- The part after a reset (R467): steps 3 and 4 have ended, unless its straps name no host port (R469). What lies outside
the part stays, and so do the model's own fields. -/
def State.resetPart (s : State) (cause : Nat) : State :=
  let t := State.resetOf s.fitting
  let stuck := s.fitting.portCfg == 15#4
  { t with
    mem := s.mem.filter fun b => inHost b.1 || inPeer b.1
    regs := { t.regs with ready := !stuck, cause := cause }
    agenda := s.agenda
    draws := s.draws }

/-- POWER_ON_RESET (R467): the reset after a thermal trip or a power fault says so in LAST_CAUSE. -/
def execPowerOnReset (s : State) : Host.Outcome State Fault Refusal :=
  .next (s.resetPart (if s.powered then 0 else s.regs.cause))

/-- HOST_RESET (R467). -/
def execHostReset (s : State) : Host.Outcome State Fault Refusal := .next (if s.powered then s.resetPart 1 else s)

/-- VF_FLR (R467): as VF_RESET of the input's function; while work through its frames is left, the event comes again. -/
def execVfFlr (s : State) : Host.Outcome State Fault Refusal :=
  if 64 ≤ s.input.fn then .next s
  else
    match s.resetFunc s.input.fn with
    | .done _ _ t => .next t
    | .running t => .next (t.later .vfFlr)

/-- The part powers off. -/
def State.powerOff (s : State) (cause : Nat) : State :=
  { s with powered := false, regs := { s.regs with ready := false, cause := cause } }

/-- THERMAL_TRIP (R468). -/
def execThermalTrip (s : State) : Host.Outcome State Fault Refusal := .next (s.powerOff 2)
/-- POWER_FAULT (R467). -/
def execPowerFault (s : State) : Host.Outcome State Fault Refusal := .next (s.powerOff 3)

/-! ### Power, temperature and droop (R430, R468) -/

/-- POWER_CLOCK_STEP (R468): the input's first number is the average power in W. -/
def execPowerClockStep (s : State) : Host.Outcome State Fault Refusal :=
  let w := s.input.nums.getD 0 s.regs.avgW
  let clock := if s.regs.limitW < w then max 300 (s.regs.clockMhz - 25) else min 700 (s.regs.clockMhz + 25)
  .next { s with regs := { s.regs with avgW := w, clockMhz := clock, capped := clock < 700 } }

/-- CU_TEMPERATURE_SAMPLE (R430): the input's numbers are a CU and a reading in °C. -/
def execCuTemperatureSample (s : State) : Host.Outcome State Fault Refusal :=
  let t := s.input.nums.getD 1 0
  .next (s.modCu (s.input.nums.getD 0 0) fun c => { c with hot := 90 ≤ t || (c.hot && 84 < t) })

/-- VOLTAGE_DROOP (R430): the input's first number is a CU; the third event within 100 µs bars it for 1 ms. -/
def execVoltageDroop (s : State) : Host.Outcome State Fault Refusal :=
  .next (s.modCu (s.input.nums.getD 0 0) fun c =>
    let ds := (c.droops.filter fun d => s.now < d + 100 * Config.ticksPerUs) ++ [s.now]
    { c with droops := ds, barUntil := if 3 ≤ ds.length then s.now + Config.ticksPerMs else c.barUntil })

/-- BAR_EXPIRY (R430): the input's first number is a CU. -/
def execBarExpiry (s : State) : Host.Outcome State Fault Refusal :=
  .next (s.modCu (s.input.nums.getD 0 0) fun c => if c.barUntil ≤ s.now then { c with barUntil := 0 } else c)

/-! ### Huader links (R470) -/

/-- A link of the part. -/
def State.link (s : State) (k : Nat) : Link := s.links.getD k Link.reset

/-- A link goes down, and the contexts with a route over it end (R470); the link agent's tokens are counted back, and its dirty
words are lost (R307, R369). -/
def State.dropLink (s : State) (k : Nat) : State :=
  let s : State := { s with links := s.links.set k { s.link k with up := false, retries := 0 } }
  let hit := ((s.launches.filter fun l => l.links.contains k).map Launch.asid).eraseDups
  hit.foldl (fun (s : State) a => s.beginEnd a (recordOf fLinkFailure 0 0 0 k)) (s.loseHolder .link)

/-- LINK_DOWN (R470): the input's first number is a link. -/
def execLinkDown (s : State) : Host.Outcome State Fault Refusal :=
  let k := s.input.nums.getD 0 18
  .next (if k < s.linkCount && (s.link k).up then s.dropLink k else s)

/-- LINK_LEVEL_RETRY (R470): a link, and 1 where the retry succeeds; the 16th failed retry of one flit takes the link
down. -/
def execLinkLevelRetry (s : State) : Host.Outcome State Fault Refusal :=
  let k := s.input.nums.getD 0 18
  if k < s.linkCount && (s.link k).up then
    if s.input.nums.getD 1 0 = 1 then .next { s with links := s.links.set k { s.link k with retries := 0 } }
    else if 15 ≤ (s.link k).retries then .next (s.dropLink k)
    else .next { s with links := s.links.set k { s.link k with retries := (s.link k).retries + 1 } }
  else .next s

/-- LINK_RETRAIN (R470): a link, and the pod and position of the peer that it finds (DESIGN CHOICE, log 18). -/
def execLinkRetrain (s : State) : Host.Outcome State Fault Refusal :=
  let k := s.input.nums.getD 0 18
  if k < s.linkCount then
    let l : Link := ⟨true, s.input.nums.getD 1 0 % 2 ^ 16, s.input.nums.getD 2 0 % 2 ^ 8, min (2 ^ 16 - 1) ((s.link k).retrain + 1), 0⟩
    .next ({ s with links := s.links.set k l }.countError (32 + k))
  else .next s

/-! ### Ethernet (R471) -/

/-- ETH_PACKET_RECEIVE (R471): the input's numbers are 1, pod, port and sequence number of an acknowledgement, or 0 and the
ASID, identifier, rank, operation and byte count of a collective whose data the bytes are, with those that are poisoned. -/
def execEthPacketReceive (s : State) : Host.Outcome State Fault Refusal :=
  match s.input.nums with
  | [1, pod, port, seq] =>
    .next { s with packets := s.packets.filter fun p => !(p.peer == pod && p.port == port && p.seq == seq) }
  | 0 :: asid :: coll :: rank :: kind :: size :: bad =>
    .next (if (s.context? asid).isSome then
      { s with peerData := s.peerData ++ [⟨asid, coll, rank, kind, size, s.input.bytes, bad⟩] } else s)
  | _ => .next s

/-- ETH_RETRANSMIT_TIMEOUT (R471): every packet without acknowledgement for 100 µs is sent again. -/
def execEthRetransmitTimeout (s : State) : Host.Outcome State Fault Refusal :=
  .next { s with packets := s.packets.map fun p => if p.sent + 100 * Config.ticksPerUs ≤ s.now then { p with sent := s.now } else p }

/-- A packet that no acknowledgement has reached for a second. -/
def State.lostPacket (s : State) : Option Packet := s.packets.find? fun p => p.first + 1000 * Config.ticksPerMs ≤ s.now

/-- ETH_ACK_TIMEOUT (R471): the contexts that have sent the packets lost to a peer end. -/
def execEthAckTimeout (s : State) : Host.Outcome State Fault Refusal :=
  match s.lostPacket with
  | none => .next s
  | some p =>
    let hit := ((s.packets.filter fun q => q.peer == p.peer && q.first + 1000 * Config.ticksPerMs ≤ s.now).map Packet.asid).eraseDups
    let s : State := { s with packets := s.packets.filter fun q => !hit.contains q.asid }
    .next (hit.foldl (fun (s : State) a => s.beginEnd a (recordOf fLinkFailure 0 0 0 (18 + p.port))) s)

/-- ETH_ECN_MARK (R471): the input's first number is the peer, to which the rate is halved. -/
def execEthEcnMark (s : State) : Host.Outcome State Fault Refusal :=
  .next { s with ecn := insertNew (s.input.nums.getD 0 0) s.ecn }

/-! ### The host link, scrubbing and page requests (R151, R306, R307, R369) -/

/-- HOST_LINK_FAILURE (R307, R369): the host agent's tokens are counted back to the home store, the words of which it held
the only modified copy are poisoned, and it makes no request any more. -/
def execHostLinkFailure (s : State) : Host.Outcome State Fault Refusal :=
  let s := s.loseHolder .host
  let s : State := { s with lines := s.lines.map fun l => (l.1, { l.2 with snooped := false }) }
  let gone := s.trumps.filter fun t => t.requester == .host
  let s : State := { s with
    trumps := s.trumps.filter fun t => t.requester != .host
    trumpQueue := s.trumpQueue.filter fun t => t.requester != .host
    attempts := s.attempts.filter fun a => a.who != .host
    waiting := s.waiting.filter fun e => match e.event with
      | .hostMemrd _ _ => false
      | .hostMemwr _ _ => false
      | _ => true }
  .next (gone.foldl (fun (s : State) t =>
    (if (s.activeTrump t.line).isNone then s.activateNext t.line else s).enterTable (s.homeOf t.line)) s)

/-- PATROL_SCRUBBING (R306): the input's first number is how many errors it corrected. -/
def execPatrolScrubbing (s : State) : Host.Outcome State Fault Refusal :=
  .next { s with errors := supd 0 s.errors 5 (· + s.input.nums.getD 0 0) }

/-- PAGE_REQUEST_CAPABILITY (R150, R151): the input's numbers are a function's allocation, and 1 to enable it again. -/
def execPageRequestCapability (s : State) : Host.Outcome State Fault Refusal :=
  if 64 ≤ s.input.fn then .next s
  else
    .next (s.modFunc s.input.fn fun f =>
      { f with alloc := s.input.nums.getD 0 f.alloc, failed := f.failed && s.input.nums.getD 1 0 != 1 })

end Sys2Proof.Machine
end

