-- ==== Sys2Proof/Machine/Dispatch.lean ====
section
/-!
DEFINITION. The meaning of every instruction and event of the opcode table, one arm for each constructor.
-/
namespace Sys2Proof.Machine

/-- Executing an instruction, or an event of the part. -/
def exec (i : Instr) (s : State) : Host.Outcome State Fault Refusal :=
  match i with
  | .nop f => Sys2Proof.Machine.execNop f s
  | .bra f => Sys2Proof.Machine.execBra f s
  | .brax f => Sys2Proof.Machine.execBrax f s
  | .call f => Sys2Proof.Machine.execCall f s
  | .callx f => Sys2Proof.Machine.execCallx f s
  | .ret f => Sys2Proof.Machine.execRet f s
  | .exit f => Sys2Proof.Machine.execExit f s
  | .yield f => Sys2Proof.Machine.execYield f s
  | .jenr f => Sys2Proof.Machine.execJenr f s
  | .jenrAct f => Sys2Proof.Machine.execJenrAct f s
  | .jsign f => Sys2Proof.Machine.execJsign f s
  | .jwait f => Sys2Proof.Machine.execJwait f s
  | .sbwait f => Sys2Proof.Machine.execSbwait f s
  | .cwait f => Sys2Proof.Machine.execCwait f s
  | .twait f => Sys2Proof.Machine.execTwait f s
  | .twany f => Sys2Proof.Machine.execTwany f s
  | .tfind f => Sys2Proof.Machine.execTfind f s
  | .tclr f => Sys2Proof.Machine.execTclr f s
  | .barw f => Sys2Proof.Machine.execBarw f s
  | .bara f => Sys2Proof.Machine.execBara f s
  | .rarv f => Sys2Proof.Machine.execRarv f s
  | .rwait f => Sys2Proof.Machine.execRwait f s
  | .mwait f => Sys2Proof.Machine.execMwait f s
  | .mwaitWake g half => Sys2Proof.Machine.execMwaitWake g half s
  | .mwaitTimeout g half => Sys2Proof.Machine.execMwaitTimeout g half s
  | .spawn f => Sys2Proof.Machine.execSpawn f s
  | .spawnRecordArrival g op => Sys2Proof.Machine.execSpawnRecordArrival g op s
  | .spawnBinTimerExpiry die bin => Sys2Proof.Machine.execSpawnBinTimerExpiry die bin s
  | .spawnGroupLaunch die cu => Sys2Proof.Machine.execSpawnGroupLaunch die cu s
  | .ipref f => Sys2Proof.Machine.execIpref f s
  | .trap f => Sys2Proof.Machine.execTrap f s
  | .assert f => Sys2Proof.Machine.execAssert f s
  | .bkpt f => Sys2Proof.Machine.execBkpt f s
  | .getsr f => Sys2Proof.Machine.execGetsr f s
  | .setsr f => Sys2Proof.Machine.execSetsr f s
  | .renter f => Sys2Proof.Machine.execRenter f s
  | .rleave f => Sys2Proof.Machine.execRleave f s
  | .trapretReplay f => Sys2Proof.Machine.execTrapretReplay f s
  | .trapretSkip f => Sys2Proof.Machine.execTrapretSkip f s
  | .iadd f => Sys2Proof.Machine.execIadd f s
  | .isub f => Sys2Proof.Machine.execIsub f s
  | .imul f => Sys2Proof.Machine.execImul f s
  | .imulh f => Sys2Proof.Machine.execImulh f s
  | .imad f => Sys2Proof.Machine.execImad f s
  | .iaddi f => Sys2Proof.Machine.execIaddi f s
  | .imin f => Sys2Proof.Machine.execImin f s
  | .imax f => Sys2Proof.Machine.execImax f s
  | .and f => Sys2Proof.Machine.execAnd f s
  | .orr f => Sys2Proof.Machine.execOrr f s
  | .xor f => Sys2Proof.Machine.execXor f s
  | .andn f => Sys2Proof.Machine.execAndn f s
  | .shl f => Sys2Proof.Machine.execShl f s
  | .shr f => Sys2Proof.Machine.execShr f s
  | .iadd64 f => Sys2Proof.Machine.execIadd64 f s
  | .iaddi64 f => Sys2Proof.Machine.execIaddi64 f s
  | .popc f => Sys2Proof.Machine.execPopc f s
  | .clz f => Sys2Proof.Machine.execClz f s
  | .brev f => Sys2Proof.Machine.execBrev f s
  | .bfe f => Sys2Proof.Machine.execBfe f s
  | .bfi f => Sys2Proof.Machine.execBfi f s
  | .iset f => Sys2Proof.Machine.execIset f s
  | .sel f => Sys2Proof.Machine.execSel f s
  | .mov f => Sys2Proof.Machine.execMov f s
  | .movi f => Sys2Proof.Machine.execMovi f s
  | .movhi f => Sys2Proof.Machine.execMovhi f s
  | .movx f => Sys2Proof.Machine.execMovx f s
  | .movxw f => Sys2Proof.Machine.execMovxw f s
  | .bwin f => Sys2Proof.Machine.execBwin f s
  | .lxch f => Sys2Proof.Machine.execLxch f s
  | .lmask f => Sys2Proof.Machine.execLmask f s
  | .lcomb f => Sys2Proof.Machine.execLcomb f s
  | .faddF32 f => Sys2Proof.Machine.execFaddF32 f s
  | .fsubF32 f => Sys2Proof.Machine.execFsubF32 f s
  | .fmulF32 f => Sys2Proof.Machine.execFmulF32 f s
  | .ffmaF32 f => Sys2Proof.Machine.execFfmaF32 f s
  | .fminF32 f => Sys2Proof.Machine.execFminF32 f s
  | .fmaxF32 f => Sys2Proof.Machine.execFmaxF32 f s
  | .fsetF32 f => Sys2Proof.Machine.execFsetF32 f s
  | .fclassF32 f => Sys2Proof.Machine.execFclassF32 f s
  | .faddF64 f => Sys2Proof.Machine.execFaddF64 f s
  | .fsubF64 f => Sys2Proof.Machine.execFsubF64 f s
  | .fmulF64 f => Sys2Proof.Machine.execFmulF64 f s
  | .ffmaF64 f => Sys2Proof.Machine.execFfmaF64 f s
  | .fminF64 f => Sys2Proof.Machine.execFminF64 f s
  | .fmaxF64 f => Sys2Proof.Machine.execFmaxF64 f s
  | .fsetF64 f => Sys2Proof.Machine.execFsetF64 f s
  | .fclassF64 f => Sys2Proof.Machine.execFclassF64 f s
  | .hadd2F16 f => Sys2Proof.Machine.execHadd2F16 f s
  | .hsub2F16 f => Sys2Proof.Machine.execHsub2F16 f s
  | .hmul2F16 f => Sys2Proof.Machine.execHmul2F16 f s
  | .hfma2F16 f => Sys2Proof.Machine.execHfma2F16 f s
  | .hmin2F16 f => Sys2Proof.Machine.execHmin2F16 f s
  | .hmax2F16 f => Sys2Proof.Machine.execHmax2F16 f s
  | .hset2F16 f => Sys2Proof.Machine.execHset2F16 f s
  | .frndF32 f => Sys2Proof.Machine.execFrndF32 f s
  | .hadd2Bf16 f => Sys2Proof.Machine.execHadd2Bf16 f s
  | .hsub2Bf16 f => Sys2Proof.Machine.execHsub2Bf16 f s
  | .hmul2Bf16 f => Sys2Proof.Machine.execHmul2Bf16 f s
  | .hfma2Bf16 f => Sys2Proof.Machine.execHfma2Bf16 f s
  | .hmin2Bf16 f => Sys2Proof.Machine.execHmin2Bf16 f s
  | .hmax2Bf16 f => Sys2Proof.Machine.execHmax2Bf16 f s
  | .hset2Bf16 f => Sys2Proof.Machine.execHset2Bf16 f s
  | .frndF64 f => Sys2Proof.Machine.execFrndF64 f s
  | .rcpF32 f => Sys2Proof.Machine.execRcpF32 f s
  | .rsqF32 f => Sys2Proof.Machine.execRsqF32 f s
  | .sqrtF32 f => Sys2Proof.Machine.execSqrtF32 f s
  | .ex2F32 f => Sys2Proof.Machine.execEx2F32 f s
  | .lg2F32 f => Sys2Proof.Machine.execLg2F32 f s
  | .sinF32 f => Sys2Proof.Machine.execSinF32 f s
  | .cosF32 f => Sys2Proof.Machine.execCosF32 f s
  | .tanhF32 f => Sys2Proof.Machine.execTanhF32 f s
  | .rcpF64 f => Sys2Proof.Machine.execRcpF64 f s
  | .sqrtF64 f => Sys2Proof.Machine.execSqrtF64 f s
  | .cvt f => Sys2Proof.Machine.execCvt f s
  | .cvti f => Sys2Proof.Machine.execCvti f s
  | .cvtf f => Sys2Proof.Machine.execCvtf f s
  | .cvtn f => Sys2Proof.Machine.execCvtn f s
  | .cvtw f => Sys2Proof.Machine.execCvtw f s
  | .cbdec f => Sys2Proof.Machine.execCbdec f s
  | .bscale f => Sys2Proof.Machine.execBscale f s
  | .ld f => Sys2Proof.Machine.execLd f s
  | .st f => Sys2Proof.Machine.execSt f s
  | .spld f => Sys2Proof.Machine.execSpld f s
  | .spst f => Sys2Proof.Machine.execSpst f s
  | .ldp f => Sys2Proof.Machine.execLdp f s
  | .atom f => Sys2Proof.Machine.execAtom f s
  | .red f => Sys2Proof.Machine.execRed f s
  | .cas f => Sys2Proof.Machine.execCas f s
  | .atoms f => Sys2Proof.Machine.execAtoms f s
  | .cass f => Sys2Proof.Machine.execCass f s
  | .fence f => Sys2Proof.Machine.execFence f s
  | .rel f => Sys2Proof.Machine.execRel f s
  | .acq f => Sys2Proof.Machine.execAcq f s
  | .sigclr f => Sys2Proof.Machine.execSigclr f s
  | .marmArm f => Sys2Proof.Machine.execMarmArm f s
  | .marmArmB64 f => Sys2Proof.Machine.execMarmArmB64 f s
  | .marmTest f => Sys2Proof.Machine.execMarmTest f s
  | .marmClr f => Sys2Proof.Machine.execMarmClr f s
  | .monitorFire g k => Sys2Proof.Machine.execMonitorFire g k s
  | .pref f => Sys2Proof.Machine.execPref f s
  | .cctlWb f => Sys2Proof.Machine.execCctlWb f s
  | .cctlInv f => Sys2Proof.Machine.execCctlInv f s
  | .cctlInvall f => Sys2Proof.Machine.execCctlInvall f s
  | .cctlIinv f => Sys2Proof.Machine.execCctlIinv f s
  | .pzero f => Sys2Proof.Machine.execPzero f s
  | .memoryAccessComplete g op lanes => Sys2Proof.Machine.execMemoryAccessComplete g op lanes s
  | .mma f => Sys2Proof.Machine.execMma f s
  | .mmas f => Sys2Proof.Machine.execMmas f s
  | .mmacb f => Sys2Proof.Machine.execMmacb f s
  | .mmad f => Sys2Proof.Machine.execMmad f s
  | .matrixEngineStart cu => Sys2Proof.Machine.execMatrixEngineStart cu s
  | .matrixComplete cu => Sys2Proof.Machine.execMatrixComplete cu s
  | .mbmap f => Sys2Proof.Machine.execMbmap f s
  | .mzero f => Sys2Proof.Machine.execMzero f s
  | .mscale f => Sys2Proof.Machine.execMscale f s
  | .mldf f => Sys2Proof.Machine.execMldf f s
  | .mstf f => Sys2Proof.Machine.execMstf f s
  | .amov f => Sys2Proof.Machine.execAmov f s
  | .anew f => Sys2Proof.Machine.execAnew f s
  | .ald f => Sys2Proof.Machine.execAld f s
  | .ast f => Sys2Proof.Machine.execAst f s
  | .aadd f => Sys2Proof.Machine.execAadd f s
  | .asub f => Sys2Proof.Machine.execAsub f s
  | .aneg f => Sys2Proof.Machine.execAneg f s
  | .ascl f => Sys2Proof.Machine.execAscl f s
  | .amul f => Sys2Proof.Machine.execAmul f s
  | .afma f => Sys2Proof.Machine.execAfma f s
  | .arcp f => Sys2Proof.Machine.execArcp f s
  | .asqrt f => Sys2Proof.Machine.execAsqrt f s
  | .afold f => Sys2Proof.Machine.execAfold f s
  | .acen f => Sys2Proof.Machine.execAcen f s
  | .arad f => Sys2Proof.Machine.execArad f s
  | .aterm f => Sys2Proof.Machine.execAterm f s
  | .adeckRead f => Sys2Proof.Machine.execAdeckRead f s
  | .adeckAdd f => Sys2Proof.Machine.execAdeckAdd f s
  | .adeckSet f => Sys2Proof.Machine.execAdeckSet f s
  | .cpyl f => Sys2Proof.Machine.execCpyl f s
  | .cpys f => Sys2Proof.Machine.execCpys f s
  | .cpyg f => Sys2Proof.Machine.execCpyg f s
  | .cpyr f => Sys2Proof.Machine.execCpyr f s
  | .cpyp f => Sys2Proof.Machine.execCpyp f s
  | .collAllred f => Sys2Proof.Machine.execCollAllred f s
  | .collAllgath f => Sys2Proof.Machine.execCollAllgath f s
  | .collRedscat f => Sys2Proof.Machine.execCollRedscat f s
  | .collSend f => Sys2Proof.Machine.execCollSend f s
  | .collRecv f => Sys2Proof.Machine.execCollRecv f s
  | .collPeerData asid coll rank data => Sys2Proof.Machine.execCollPeerData asid coll rank data s
  | .copyLand g op => Sys2Proof.Machine.execCopyLand g op s
  | .asmk f => Sys2Proof.Machine.execAsmk f s
  | .asdrop f => Sys2Proof.Machine.execAsdrop f s
  | .asqry f => Sys2Proof.Machine.execAsqry f s
  | .launch f => Sys2Proof.Machine.execLaunch f s
  | .ckpt f => Sys2Proof.Machine.execCkpt f s
  | .clauseHeader h => Sys2Proof.Machine.execClauseHeader h s
  | .longLatencyResult g op lanes => Sys2Proof.Machine.execLongLatencyResult g op lanes s
  | .fetchMiss g => Sys2Proof.Machine.execFetchMiss g s
  | .fetchLineFill cu asid line => Sys2Proof.Machine.execFetchLineFill cu asid line s
  | .pageWalk cu asid va kind => Sys2Proof.Machine.execPageWalk cu asid va kind s
  | .pageRequestSend req => Sys2Proof.Machine.execPageRequestSend req s
  | .pageRequestResponse req answer => Sys2Proof.Machine.execPageRequestResponse req answer s
  | .trapHandlerEntry g => Sys2Proof.Machine.execTrapHandlerEntry g s
  | .contextEnd asid => Sys2Proof.Machine.execContextEnd asid s
  | .groupRetire g => Sys2Proof.Machine.execGroupRetire g s
  | .launchComplete l => Sys2Proof.Machine.execLaunchComplete l s
  | .doorbell => Sys2Proof.Machine.execDoorbell s
  | .queueEntryConsider asid queue => Sys2Proof.Machine.execQueueEntryConsider asid queue s
  | .graphNodeStart l => Sys2Proof.Machine.execGraphNodeStart l s
  | .teamPlace t cluster => Sys2Proof.Machine.execTeamPlace t cluster s
  | .sramWayConvert cu => Sys2Proof.Machine.execSramWayConvert cu s
  | .forwardProgressSwap cu => Sys2Proof.Machine.execForwardProgressSwap cu s
  | .preemptByClass t cluster => Sys2Proof.Machine.execPreemptByClass t cluster s
  | .bankSwitch cu incoming => Sys2Proof.Machine.execBankSwitch cu incoming s
  | .rowSwap cu outgoing => Sys2Proof.Machine.execRowSwap cu outgoing s
  | .wasteRowSpill cu t => Sys2Proof.Machine.execWasteRowSpill cu t s
  | .checkpointTake asid => Sys2Proof.Machine.execCheckpointTake asid s
  | .uncorrectableError site => Sys2Proof.Machine.execUncorrectableError site s
  | .hangTimeout asid => Sys2Proof.Machine.execHangTimeout asid s
  | .caughtWriteEvaluate held => Sys2Proof.Machine.execCaughtWriteEvaluate held s
  | .revocationDeliver slot g => Sys2Proof.Machine.execRevocationDeliver slot g s
  | .revocationAck slot g => Sys2Proof.Machine.execRevocationAck slot g s
  | .imagePatch slot g => Sys2Proof.Machine.execImagePatch slot g s
  | .heldWriteRelease slot => Sys2Proof.Machine.execHeldWriteRelease slot s
  | .reclassify frame cu => Sys2Proof.Machine.execReclassify frame cu s
  | .registrationRecall line word => Sys2Proof.Machine.execRegistrationRecall line word s
  | .forwardedRead cu line word => Sys2Proof.Machine.execForwardedRead cu line word s
  | .transientRequest who line write => Sys2Proof.Machine.execTransientRequest who line write s
  | .attemptFail who line write => Sys2Proof.Machine.execAttemptFail who line write s
  | .trumpRequest who line write => Sys2Proof.Machine.execTrumpRequest who line write s
  | .trumpRelease who line => Sys2Proof.Machine.execTrumpRelease who line s
  | .lineReplace die line => Sys2Proof.Machine.execLineReplace die line s
  | .hostMemrd pa count => Sys2Proof.Machine.execHostMemrd pa count s
  | .hostMemwr pa data => Sys2Proof.Machine.execHostMemwr pa data s
  | .hostSnoop line invalidate => Sys2Proof.Machine.execHostSnoop line invalidate s
  | .birsp line => Sys2Proof.Machine.execBirsp line s
  | .d2hCompletion die line => Sys2Proof.Machine.execD2hCompletion die line s
  | .peerAccess pa access => Sys2Proof.Machine.execPeerAccess pa access s
  | .frameZeroing frame => Sys2Proof.Machine.execFrameZeroing frame s
  | .portAdmit => Sys2Proof.Machine.execPortAdmit s
  | .imgInsert => Sys2Proof.Machine.execImgInsert s
  | .imgLookup => Sys2Proof.Machine.execImgLookup s
  | .imgRelease => Sys2Proof.Machine.execImgRelease s
  | .imgQuery => Sys2Proof.Machine.execImgQuery s
  | .biasHost => Sys2Proof.Machine.execBiasHost s
  | .biasDevice => Sys2Proof.Machine.execBiasDevice s
  | .tlbInvVa => Sys2Proof.Machine.execTlbInvVa s
  | .tlbInvAsid => Sys2Proof.Machine.execTlbInvAsid s
  | .tlbInvFunc => Sys2Proof.Machine.execTlbInvFunc s
  | .tlbInvS2 => Sys2Proof.Machine.execTlbInvS2 s
  | .ctxCreate => Sys2Proof.Machine.execCtxCreate s
  | .ctxDelete => Sys2Proof.Machine.execCtxDelete s
  | .freeze => Sys2Proof.Machine.execFreeze s
  | .podFreezeMessage => Sys2Proof.Machine.execPodFreezeMessage s
  | .thaw => Sys2Proof.Machine.execThaw s
  | .partSet => Sys2Proof.Machine.execPartSet s
  | .vfBind => Sys2Proof.Machine.execVfBind s
  | .ctxBw => Sys2Proof.Machine.execCtxBw s
  | .vfReset => Sys2Proof.Machine.execVfReset s
  | .clusterLend => Sys2Proof.Machine.execClusterLend s
  | .clusterReclaim => Sys2Proof.Machine.execClusterReclaim s
  | .frameClaim => Sys2Proof.Machine.execFrameClaim s
  | .frameFree => Sys2Proof.Machine.execFrameFree s
  | .mbCmdUnassigned => Sys2Proof.Machine.execMbCmdUnassigned s
  | .summary => Sys2Proof.Machine.execSummary s
  | .memIlvWrite => Sys2Proof.Machine.execMemIlvWrite s
  | .registerWrite => Sys2Proof.Machine.execRegisterWrite s
  | .powerOnReset => Sys2Proof.Machine.execPowerOnReset s
  | .hostReset => Sys2Proof.Machine.execHostReset s
  | .vfFlr => Sys2Proof.Machine.execVfFlr s
  | .powerClockStep => Sys2Proof.Machine.execPowerClockStep s
  | .thermalTrip => Sys2Proof.Machine.execThermalTrip s
  | .cuTemperatureSample => Sys2Proof.Machine.execCuTemperatureSample s
  | .voltageDroop => Sys2Proof.Machine.execVoltageDroop s
  | .barExpiry => Sys2Proof.Machine.execBarExpiry s
  | .linkDown => Sys2Proof.Machine.execLinkDown s
  | .ethPacketReceive => Sys2Proof.Machine.execEthPacketReceive s
  | .ethRetransmitTimeout => Sys2Proof.Machine.execEthRetransmitTimeout s
  | .ethAckTimeout => Sys2Proof.Machine.execEthAckTimeout s
  | .ethEcnMark => Sys2Proof.Machine.execEthEcnMark s
  | .unassignedOpcode op f => Sys2Proof.Machine.execUnassignedOpcode op f s
  | .powerFault => Sys2Proof.Machine.execPowerFault s
  | .hostLinkFailure => Sys2Proof.Machine.execHostLinkFailure s
  | .patrolScrubbing => Sys2Proof.Machine.execPatrolScrubbing s
  | .pageRequestCapability => Sys2Proof.Machine.execPageRequestCapability s
  | .linkLevelRetry => Sys2Proof.Machine.execLinkLevelRetry s
  | .linkRetrain => Sys2Proof.Machine.execLinkRetrain s

end Sys2Proof.Machine
end

