-- ==== Sys2Proof/Machine/Select.lean ====
section
/-!
DEFINITION. The choice of an issue (R37, R63, R161, R431): what each group could issue now, the keys by which a pipe
chooses, and the marks that an issue leaves.
-/
namespace Sys2Proof.Machine

/-- What a group could do at its issue address: issue an instruction, with its clause's header where that is reached with
it, or take a fault for the lanes that stand at a position. -/
inductive Ready where
  | issue (cur : Cur) (header : Option Header) (after : State)
  | fault (r : FaultRecord) (at' : Option Pos) (after : State)

/-- The group may issue: on its CU, in a running context, and held by no fault, no revocation and no reclaim of its cluster (R26,
R140, R409, R456). -/
def State.mayIssue (s : State) (g : Group) : Bool :=
  s.running g && !s.reclaiming (g.cu / 8) && g.trapWait.isNone && g.parked.isNone
    && (g.redirect.map fun r => g.handler && !r.moved).getD true

/-- The instruction of a word inside a clause, where a marker is an opcode without assignment (R84). -/
def instrOf (w : DWord) : Option Instr :=
  let op := w.extractLsb' 56 8
  if op == 0xCA || op == 0xCB then some (.unassignedOpcode op (Fields.ofWord w))
  else
    match decodeWord w with
    | .ok i => some i
    | .error _ => none

/-- A word that no row of the table describes (R88): its opcode's checks come first. -/
def State.illegalWord (s : State) (cur : Cur) : State :=
  match s.group? cur.group with
  | none => s
  | some g =>
    let op := fieldOf cur.word 56 8
    let engine := fieldOf cur.hdrWord 16 3
    let fault := fun code info => s.takeFault g (recordOf code cur.lanes cur.addr cur.word info)
    if g.fwd && fwdUnassigned op then fault fIllegalOpcode 0
    else if (match classOf op with | some k => k != engine | none => false) then fault fClassMismatch engine
    else fault fIllegalEncoding 0

/-- The instruction of the selected word is executed; a word that no row describes faults. -/
def State.execWord (s : State) (cur : Cur) : Host.Outcome State Fault Refusal :=
  match instrOf cur.word with
  | some i => exec i { s with cur := some cur }
  | none => .next (s.illegalWord cur)

/-- A header is passed, and the clause's first instruction issues with it (R61, R62); one that is not admitted faults, and nothing
more issues. -/
def State.execHeader (s : State) (cur : Cur) (h : Header) : Host.Outcome State Fault Refusal :=
  match exec (.clauseHeader h) { s with cur := some { cur with addr := cur.hdr, word := cur.hdrWord } } with
  | .next t => if (t.group? cur.group).any (fun g => (g.posOf cur.lanes).pc == cur.addr) then t.execWord cur else .next t
  | o => o

/-- Instructions that may have to wait at issue though their counter and slot have room: for the engine's room at a join (R77,
R267), for tokens of what they read or write at issue, or for registers (R75). -/
def Instr.waitsAtIssue (i : Instr) : Bool :=
  match i with
  | .mma _ => true
  | .mmas _ => true
  | .mmacb _ => true
  | .mmad _ => true
  | .jenr _ => true
  | .jenrAct _ => true
  | .jsign _ => true
  | .jwait _ => true
  | .exit _ => true
  | .trapretReplay _ => true
  | .trapretSkip _ => true
  | .cbdec _ => true
  | .asmk _ => true
  | .marmArm _ => true
  | .marmArmB64 _ => true
  | .launch _ => true
  | .mwait _ => true
  | .renter _ => true
  | _ => false

/-- An attempt to issue has changed nothing: neither its group nor what is asked for in its name. -/
def State.sameFor (s t : State) (g : Nat) : Bool :=
  t.group? g == s.group? g && t.attempts == s.attempts && t.ports == s.ports && t.lines == s.lines

/-- An issue stalls at an instruction: on a window or its slot, or, its checks made, on its counter, a queue or what it waits for
at issue (R23, R75, R77, R88, R267). -/
def State.stallsAt (s : State) (g : Group) (cur : Cur) (h : Option Header) : Bool :=
  let op := fieldOf cur.word 56 8
  let f := Fields.ofWord cur.word
  let tried := match h with
    | some h => s.execHeader cur h
    | none => s.execWord cur
  g.heldBack op f cur.lanes ||
    ((s.full g op f cur.lanes || (instrOf cur.word).any Instr.waitsAtIssue) &&
      match tried with
      | .next t => s.sameFor t g.id
      | _ => false)

/-- The first of some sets of lanes that can issue, or that faults. A wait, the end of a window and a fetch hold one half and
not the other; an instruction that stalls stalls the group (R161). -/
def State.readyOf (s : State) (g : Group) : List Mask → Option Ready
  | [] => none
  | m :: ms =>
    match s.plan g m with
    | (.go cur h, t) =>
      if !g.inWindows cur.lanes then s.readyOf g ms
      else if t.stallsAt g cur h then none
      else some (.issue cur h t)
    | (.fault r p, t) => some (.fault r p t)
    | _ => s.readyOf g ms

/-- What a group could do now. -/
def State.ready? (s : State) (g : Group) : Option Ready :=
  if s.mayIssue g then s.readyOf g (s.fronts g) else none

/-- The pipe that an issue is for: its clause's engine; matrix, copy and memory engines are the CU's (R31, R431). -/
def Ready.pipe : Ready → Nat
  | .issue cur _ _ => fieldOf cur.hdrWord 16 3
  | .fault _ _ _ => 0

/-- The group is inside a clause whose first instruction has issued (R63). -/
def Ready.midClause : Ready → Bool
  | .issue cur header _ => header.isNone && cur.addr != cur.hdr + 8
  | .fault _ _ _ => false

/-- The number of a quadrant's engine of a class. -/
def engineKey (quad pipe : Nat) : Nat := 8 * quad + pipe

/-- How a group stands to its clause's engine (R63, R431): 2 where it holds it, 1 where it goes on with a clause in which it
has stalled, 0 else. -/
def State.claim (s : State) (g : Group) (r : Ready) : Nat :=
  if !r.midClause then 0 else if (s.cu g.cu).clauses.lookup (engineKey g.quad r.pipe) == some g.id then 2 else 1

/-- Engines that the four quadrants share. -/
def sharedPipe (p : Nat) : Bool := p == 3 || p == 4 || p == 5

/-- A group with what it could do, and what orders it. -/
structure Candidate where
  g     : Group
  ready : Ready
  sclass : Nat
  /-- How it stands to the engine of its clause. -/
  claim : Nat
  /-- Quadrants between it and the one that the engine served last. -/
  turn  : Nat

/-- Role, in the order COPY, MATRIX, VECTOR, GENERAL. -/
def roleRank (r : Nat) : Nat := if r = 0 then 4 else r

/-- The keys of R431. -/
def Candidate.before (a b : Candidate) : Bool :=
  if a.claim != b.claim then b.claim < a.claim
  else if a.sclass != b.sclass then b.sclass < a.sclass
  else if roleRank a.g.role != roleRank b.g.role then roleRank a.g.role < roleRank b.g.role
  else if a.g.lastIssue != b.g.lastIssue then a.g.lastIssue < b.g.lastIssue
  else a.turn ≤ b.turn

/-- Two candidates are for the same pipe. -/
def Candidate.samePipe (a b : Candidate) : Bool :=
  a.g.cu == b.g.cu && a.ready.pipe == b.ready.pipe && (sharedPipe a.ready.pipe || a.g.quad == b.g.quad)

/-- The candidates. -/
def State.candidates (s : State) : List Candidate :=
  s.groups.filterMap fun g => (s.ready? g).map fun r =>
    ⟨g, r, ((s.launchOf? g).map fun l => l.info.sclass).getD 0, s.claim g r,
      (g.quad + 3 - ((s.cu g.cu).served.lookup r.pipe).getD 3) % 4⟩

/-- Each pipe's choice: the candidate that no other of the pipe goes before, the first listed of equals
(DEDUCED, log 47). -/
def chosen (l : List Candidate) : List Candidate :=
  l.zipIdx.filterMap fun a =>
    if l.zipIdx.all fun b => b.2 == a.2 || !a.1.samePipe b.1 || !b.1.before a.1 || (a.1.before b.1 && a.2 < b.2) then some a.1
    else none

/-- Who holds a quadrant's engine once the instruction of `cur` has issued: the group, until its clause's last (R63). -/
def holdersAfter (l : List (Nat × Nat)) (g : Group) (cur : Cur) : List (Nat × Nat) :=
  let key := engineKey g.quad (fieldOf cur.hdrWord 16 3)
  let rest := l.filter fun x => x.1 != key
  if cur.addr.toNat == cur.hdr.toNat + 8 * (fieldOf cur.hdrWord 0 4 + 1) then rest else (key, g.id) :: rest

/-- The quadrants that the shared engines served last, once a quadrant's issue for a pipe is made (R431). -/
def servedAfter (l : List (Nat × Nat)) (pipe quad : Nat) : List (Nat × Nat) :=
  if sharedPipe pipe then (pipe, quad) :: l.filter fun x => x.1 != pipe else l

/-- The marks of an issue: the CU's forward-progress timer (R432), the context's hang timer (R449), the quadrant that a shared
engine has served (R431), and who holds its engine (R63). -/
def State.markIssue (s : State) (g : Group) (cur : Cur) : State :=
  (s.modCu g.cu fun c =>
    { c with lastIssue := s.now, served := servedAfter c.served (fieldOf cur.hdrWord 16 3) g.quad, clauses := holdersAfter c.clauses g cur }).modContext (s.asidOf g) fun c =>
    { c with lastProgress := s.now }

/-- A fault is taken, its lanes standing at a position where one is named. -/
def State.faultAt (s : State) (gid : Nat) (r : FaultRecord) (p : Option Pos) : State :=
  match s.group? gid with
  | none => s
  | some g =>
    s.takeFault (match p with
      | some p => g.modLanes r.lanes fun l => { l with pos := p }
      | none => g) r

end Sys2Proof.Machine
end

