-- ==== Sys2Proof/Machine/Due.lean ====
section
/-!
DEFINITION. What can happen by itself (DESIGN CHOICE, log 2): the events that are due in a state. `prompt` lists
those that hold up
everything else; `events` the others, from which a free value chooses. Each event's meaning makes its own checks; the
conditions here only keep out events that would change nothing.
-/
namespace Sys2Proof.Machine

/-- An event that nothing outside starts. -/
def Event.own (i : Instr) : Event := ⟨i, Input.none⟩

/-! ### At once -/

/-- Monitors fire, sleeps end and faults reach their handlers, on a CU (R121, R140, R332). -/
def State.promptOf (s : State) (g : Group) : List Event :=
  (if s.running g then
    (((List.range 4).filter fun k => s.monitorDue g k).map fun k => Event.own (.monitorFire g.id k))
      ++ (if g.trapWait.isSome && g.noPending then [Event.own (.trapHandlerEntry g.id)] else [])
  else [])
    ++ ((List.range 2).filter fun h => s.wakes g h).map fun h => Event.own (.mwaitWake g.id h)

/-- The events that come before all others. -/
def State.prompt (s : State) : List Event :=
  (s.groups.flatMap s.promptOf) ++ (s.contexts.filter s.hangs).map fun c => Event.own (.hangTimeout c.asid)

/-! ### Groups -/

/-- The completion of an operation, in all its lanes, in one, or in one part (R73, R74, R237, R247, R293, R312, R319). -/
def State.opEvents (s : State) (g : Group) (o : Op) : List Event :=
  let result := fun m : Mask => Event.own (.longLatencyResult g.id o.id m)
  let access := fun m : Mask => Event.own (.memoryAccessComplete g.id o.id m)
  let late := if o.late.isEmpty then [] else [result Mask.all, result 0]
  let apart := fun n : Nat => if 2 ≤ n then [result 0] else []
  let parts := fun accs : List Access =>
    access Mask.all :: (if 2 ≤ accs.length then access 0 :: accs.map fun a => access (maskOf (· == a.lane)) else [])
  if o.done then []
  else
    match o.kind with
    | .result regs forms => result Mask.all :: apart (regs.length + forms.length + o.late.length)
    | .deck _ _ _ => [result Mask.all, result 0]
    | .access accs _ => (if accs.isEmpty then [] else parts accs) ++ late
    | .formLoad accs _ => parts accs
    | .matrix regs image started => if started then apart (regs.length + image.length) else []
    | .acquire _ _ _ _ => [access Mask.all, access 0] ++ late
    | .copy _ _ _ _ => [.own (.copyLand g.id o.id), access 0]
    | .coll c _ => if !c.src.isEmpty || (s.collImage (s.asidOf g) c).isSome then [.own (.copyLand g.id o.id), access 0] else []
    | .spawn _ _ => [.own (.spawnRecordArrival g.id o.id)]
    | .drop _ => []
    | _ => [access Mask.all]

/-- What a group's operations, its fetch and its retirement wait for. A frozen group's operations are saved (R442). -/
def State.groupEvents (s : State) (g : Group) : List Event :=
  let frozen := ((s.team? g.team).map fun t => t.residency == .frozen).getD false
  (if frozen then [] else g.ops.flatMap (s.opEvents g))
    ++ (if s.mayIssue g && (s.missOf g (s.fronts g)).isSome then [.own (.fetchMiss g.id)] else [])
    ++ (if s.retires g && s.resident g.team then [.own (.groupRetire g.id)] else [])

/-- What a CU does: instruction lines that arrive, its matrix engine, and the end of its bar. -/
def State.cuEvents (s : State) (c : Nat × Cu) : List Event :=
  (c.2.fetching.map fun x => .own (.fetchLineFill c.1 x.asid x.va))
    ++ (match c.2.matrixQueue with
      | [] => []
      | (g, id) :: _ =>
        match ((s.group? g).bind fun g => g.op? id).map Op.kind with
        | some (.matrix _ _ false) => [.own (.matrixEngineStart c.1)]
        | _ => [.own (.matrixComplete c.1)])
    ++ (if c.2.barUntil != 0 && c.2.barUntil ≤ s.now then [⟨.barExpiry, ⟨0, 0, 0, [c.1], []⟩⟩] else [])

/-! ### The registry -/

/-- The evaluation of held writes, and the course of revocations (R402, R409). -/
def State.registryEvents (s : State) : List Event :=
  ((s.held.filter fun h => s.evaluable h || (h.evaluated && h.slots.isEmpty && !(before h.id s.held).any h.meets)).map fun h =>
      .own (.caughtWriteEvaluate h.id))
    ++ s.slots.flatMap fun x =>
      match x.2.revocation with
      | none => []
      | some v =>
        (v.toSend.map fun d => .own (.revocationDeliver x.1 d.1))
          ++ (v.waiting.filterMap fun d =>
            match s.group? d.1 with
            | none => some (.own (.revocationAck x.1 d.1))
            | some g =>
              if s.saved g then (if s.readsDone g then some (.own (.imagePatch x.1 d.1)) else none)
              else if s.readsDone g || g.live == 0 then some (.own (.revocationAck x.1 d.1))
              else none)
          ++ (if s.acked x.1 then [.own (.heldWriteRelease x.1)] else [])

/-! ### Scheduling -/

/-- The cluster that placement has chosen for work (R304, R429): one where ways are being converted, else a free value's
choice of those that can hold it. -/
def State.chosenCluster (s : State) (w : Work) : Option (Nat × List Nat) :=
  let sets := (List.range 32).filterMap fun cl => (s.setOf w cl none).map fun cus => (cl, cus)
  let begun := sets.filter fun x => x.2.any fun c => s.blocksNeeded c < (s.cu c).scratchBlocks
  let key := match w.job with
    | .first l => (l, ((s.launch? l).map Launch.placed).getD 0)
    | .back t => (t, w.start)
    | .spawn p => (p, w.start)
  choose (if begun.isEmpty then sets else begun) (Config.cluster key.1 key.2)

/-- A team's place, its way conversions, and the spill of its Waste rows (R304, R429, R436). -/
def State.placeEvents (s : State) : List Event :=
  (s.teams.filterMap fun t =>
    if s.spillDue t then some (.own (.wasteRowSpill (t.cus.getD 0 0) t.id)) else none)
    ++ match s.nextWork with
      | none => []
      | some w =>
        match s.chosenCluster w with
        | none => []
        | some (cl, cus) =>
          let more := cus.filter fun c => !s.converted w c
          if !more.isEmpty then more.map fun c => .own (.sramWayConvert c)
          else
            match w.job with
            | .first l => [.own (.teamPlace l cl)]
            | .back t => [.own (.teamPlace t cl)]
            | .spawn _ => cus.map fun c => .own (.spawnGroupLaunch (c / 64) c)

/-- Swaps for forward progress and for a higher class (R432, R438). -/
def State.swapEvents (s : State) : List Event :=
  if s.works.isEmpty then []
  else
    ((s.cus.filter fun c => (s.progressOn c.1).isSome).map fun c => .own (.forwardProgressSwap c.1))
      ++ match s.preempting with
        | none => []
        | some w => ((List.range 32).filter fun cl => (s.classOn w cl).isSome).map fun cl => .own (.preemptByClass w.job.number cl)

/-- A context that ends has work left (R448). -/
def State.hasWork (s : State) (asid : Nat) : Bool :=
  s.groups.any (fun g => s.asidOf g == asid) || s.teams.any (fun t => t.asid == asid)
    || s.launches.any (fun l => l.asid == asid) || s.bins.any (fun b => b.asid == asid)
    || s.pending.any (fun p => p.asid == asid)
    || s.slots.any fun x => x.2.asid == asid && (x.2.state != .free || x.2.revocation.isSome)

/-- Queue entries, ends and checkpoints of a context (R425, R446, R448). -/
def State.contextEvents (s : State) (c : Context) : List Event :=
  (if c.considered then
    ((List.range 8).filter fun q => (s.nextEntry c q).isSome).map fun q => .own (.queueEntryConsider c.asid q)
  else [])
    ++ (if c.state == .running && c.ckptWanted then [.own (.checkpointTake c.asid)] else [])
    ++ (if c.state == .ending && c.ended.isSome && s.hasWork c.asid then [.own (.contextEnd c.asid)] else [])

/-- Launches that start or complete (R59, R427). -/
def State.launchEvents (s : State) (l : Launch) : List Event :=
  (if s.nodeReady l then [.own (.graphNodeStart l.id)] else [])
    ++ (if !l.complete && s.launchOver l then [.own (.launchComplete l.id)] else [])

/-- Page requests to send, and bins that close (R47, R150). -/
def State.timerEvents (s : State) : List Event :=
  ((s.pageReqs.filter fun q => s.nextToSend q && s.maySend q.func).map fun q => .own (.pageRequestSend q.id))
    ++ ((s.bins.filter fun b => s.binDue b && s.queued b.die < Config.pendingGroups).map fun b =>
      .own (.spawnBinTimerExpiry b.die b.id))

/-! ### Coherence, management and the fabric -/

/-- Requests for tokens and what they come to, the slices' acceptance of what CUs have sent, and trump entries that are done
(R368, R370 to R373). -/
def State.tokenEvents (s : State) : List Event :=
  (s.attempts.flatMap fun a =>
    .own (.transientRequest a.who a.line a.write) ::
      if needs a.write ≤ (s.line a.line).tokens a.who then []
      else
        .own (.attemptFail a.who a.line a.write) ::
          if s.escalates a.who a.line a.write && !s.entered a.who a.line then [.own (.trumpRequest a.who a.line a.write)] else [])
    ++ (s.cus.flatMap fun c => ((c.2.sentWords.map (· / 32)).eraseDups).map fun l =>
      .own (.transientRequest (.die (dieOfCu c.1)) l true))
    ++ (s.trumps.filter fun t => t.active && (s.line t.line).tokens t.requester == 32 && !s.wants t.requester t.line).map fun t =>
      .own (.trumpRelease t.requester t.line)

/-- What the host answers, and pages whose reclassification has begun (R366, R374). -/
def State.lineEvents (s : State) : List Event :=
  (s.lines.flatMap fun l =>
    (if l.2.snooped && s.hasRoom l.1 (s.tokenDest l.1) then [.own (.birsp l.1)] else [])
      ++ ((l.2.asked.map Prod.fst).eraseDups.filter fun d =>
          !((s.activeTrump l.1).any fun t => t.requester != .die d) && !s.flipping (128 * l.1)
            && s.hasRoom l.1 (.die d)).map fun d =>
        .own (.d2hCompletion d l.1))
    ++ s.classes.filterMap fun c =>
      match c.2 with
      | .transit d => some (.own (.reclassify c.1 d))
      | _ => none

/-- An access from outside can still not be performed (R372, R375, R402). -/
def State.heldUp (s : State) (e : Event) : Bool :=
  let write := fun (w : Writer) (pa : Nat) (bs : List Byte) =>
    if s.caught pa (.store bs) || s.behindHeld pa bs.length then !s.holdRoom w pa
    else s.linesWait w.holder (linesOf pa bs.length) true
  match e.event with
  | .hostMemrd pa n => s.linesWait .host ((linesOf pa n).filter fun l => s.inDevice (128 * l)) false
  | .hostMemwr pa bs => write .host pa bs
  | .peerAccess pa (.read n) => s.linesWait .link (linesOf pa n) false
  | .peerAccess pa (.write bs) => write .peer pa bs
  | .doorbell =>
    let x := e.input.value.toNat
    (s.context? (bitsAt x 0 10)).any fun c => !s.writesFree c [(c.header (bitsAt x 10 3), 32)]
  | _ => false

/-- Accesses from outside that have waited and can go on. -/
def State.outsideEvents (s : State) : List Event := s.waiting.filter fun e => !s.heldUp e

/-- The event of a mailbox command (R464). -/
def commandOf (code : Nat) : Instr :=
  match code with
  | 0x40 => .imgInsert
  | 0x41 => .imgLookup
  | 0x42 => .imgRelease
  | 0x43 => .imgQuery
  | 0x48 => .biasHost
  | 0x49 => .biasDevice
  | 0x50 => .tlbInvVa
  | 0x51 => .tlbInvAsid
  | 0x52 => .tlbInvFunc
  | 0x53 => .tlbInvS2
  | 0x58 => .ctxCreate
  | 0x59 => .ctxDelete
  | 0x60 => .freeze
  | 0x61 => .thaw
  | 0x68 => .partSet
  | 0x69 => .vfBind
  | 0x6A => .ctxBw
  | 0x6B => .vfReset
  | 0x6C => .clusterLend
  | 0x6D => .clusterReclaim
  | 0x70 => .frameClaim
  | 0x71 => .frameFree
  | _ => .mbCmdUnassigned

/-- Commands that run on, and a freeze that a peer began. -/
def State.manageEvents (s : State) : List Event :=
  ((s.mail.filter fun m => !m.2.done).map fun m => ⟨commandOf m.2.cmd, ⟨m.1, 1, 0, [], []⟩⟩)
    ++ (match s.freeze with
      | some f => if f.fn = 65 then [.own .podFreezeMessage] else []
      | none => [])

/-- Frames that the zero engine works on (R377). -/
def State.zeroEvents (s : State) : List Event :=
  (s.frames.filter fun f => f.2 == some .freeDirty || f.2 == some .zeroing).map fun f => .own (.frameZeroing f.1)

/-- Packets without acknowledgement, and ports that hold requests or refill (R310, R471). -/
def State.fabricEvents (s : State) : List Event :=
  (if s.packets.any fun p => p.sent + 100 * Config.ticksPerUs ≤ s.now then [.own .ethRetransmitTimeout] else [])
    ++ (if s.lostPacket.isSome then [.own .ethAckTimeout] else [])
    ++ (if !s.ports.isEmpty || s.buckets.any fun b => b.tokens < s.burstOf b.asid || b.pool != 0 then [.own .portAdmit] else [])

/-- Every event that is due. -/
def State.events (s : State) : List Event :=
  s.groups.flatMap s.groupEvents ++ s.cus.flatMap s.cuEvents ++ s.registryEvents ++ s.contexts.flatMap s.contextEvents
    ++ s.launches.flatMap s.launchEvents ++ s.placeEvents ++ s.swapEvents ++ s.timerEvents ++ s.tokenEvents
    ++ s.lineEvents ++ s.outsideEvents ++ s.manageEvents ++ s.zeroEvents ++ s.fabricEvents

/-! ### The zero engine behind everything else (R377, R467) -/

/-- The first unlisted frame from one on that is FREE-DIRTY, below a bound. -/
def State.dirtyFrom (s : State) (bound : Nat) : Nat → Nat → Option Nat
  | 0, _ => none
  | fuel + 1, f =>
    if bound ≤ f then none
    else if (sget none s.frames f).isNone && s.inDevice (4096 * f) then some f
    else s.dirtyFrom bound fuel (f + 1)

/-- The next frame of the second tier, channel by channel, or of an expander, that reset left FREE-DIRTY. -/
def State.nextDirty (s : State) : Option Nat :=
  (((List.range 16).map fun k => (2 ^ 32 + k * 2 ^ 28, 2 ^ 28)) ++ (List.range 4).map fun k =>
    (2 ^ 33 + k * 2 ^ 30, 2 ^ 30)).findSome? fun (x : Nat × Nat) => s.dirtyFrom (x.1 + x.2) (s.frames.length + 1) x.1

/-! ### Time (R2, R47, R449) -/

/-- One tick: the clock advances, the timers of bins run but for those of frozen contexts, no hang time passes for a context that
is frozen or has no team on its CUs (DESIGN CHOICE, log 1), teams that have come to be blocked are noted (R432), and counts that
waited are made (R389). -/
def State.tick (s : State) : State :=
  let out := fun c : Context => c.state == .frozen || !(s.teams.any fun t => t.asid == c.asid && t.residency == .resident)
  ({ s with
    clock := s.clock + 1
    teams := s.teams.map fun t =>
      { t with blockedAt := if t.residency == .resident && s.teamBlocked t.id then some (t.blockedAt.getD s.now) else none }
    bins := s.bins.map fun b =>
      { b with left := if ((s.context? b.asid).map fun c => c.state == .frozen).getD false then b.left else b.left - 1 }
    contexts := s.contexts.map fun c =>
      { c with lastProgress := if out c then c.lastProgress + 1 else c.lastProgress } } : State).settleCounts

/-! ### What comes from outside -/

/-- The rows that are events, and no words that a group fetches. -/
def isEvent (i : Instr) : Bool :=
  match i with
  | .clauseHeader _ => false
  | i => i.fields?.isNone

end Sys2Proof.Machine
end

