-- ==== Sys2Proof/Machine/Step.lean ====
section
/-!
DEFINITION. One step of the part: what is prompt, then what comes from outside, then one of the issues and events that can
happen now, chosen by a free value (DESIGN CHOICE, log 2); and the state in which a given word is the next to issue
(DESIGN CHOICE, log 5).
-/
namespace Sys2Proof.Machine

/-- Going on with the state of an outcome. -/
def andThen (o : Host.Outcome State Fault Refusal) (f : State → Host.Outcome State Fault Refusal) :
    Host.Outcome State Fault Refusal :=
  match o with
  | .next s => f s
  | .fault r => .fault r
  | .refused r => .refused r

/-- An event happens, with its input. -/
def State.happen (s : State) (e : Event) : Host.Outcome State Fault Refusal := exec e.event { s with input := e.input }

/-- The marks of an issue are made where it has changed its group: one that has only asked for what it waits for is none. -/
def State.marked (t : State) (g : Group) (cur : Cur) (u : State) : State :=
  if u.group? g.id == t.group? g.id then u else u.markIssue g cur

/-- What a group could do is done. -/
def Ready.run (r : Ready) (g : Group) : Host.Outcome State Fault Refusal :=
  match r with
  | .fault f p t => .next (t.faultAt g.id f p)
  | .issue cur none t => andThen (t.execWord cur) fun u => .next (t.marked g cur u)
  | .issue cur (some h) t => andThen (t.execHeader cur h) fun u => .next (t.marked g cur u)

/-- Something that can happen now. -/
inductive Next where
  | issue (c : Candidate)
  | event (e : Event)

/-- Everything that can happen now. -/
def State.nexts (s : State) : List Next :=
  (chosen s.candidates).map .issue ++ s.events.map .event

/-- The part goes on by itself: with one of the things that can happen, or with the zero engine where there is none. -/
def State.goOn (s : State) : Host.Outcome State Fault Refusal :=
  let draw : State → State := fun s => { s with draws := s.draws + 1 }
  match choose s.nexts (Config.order s.draws) with
  | some (.issue c) => andThen (c.ready.run c.g) fun s => .next (draw s)
  | some (.event e) => andThen ({ s with waiting := s.waiting.erase e }.happen e) fun s => .next (draw s)
  | none =>
    match s.nextDirty with
    | some f => s.happen (.own (.frameZeroing f))
    | none => .next s

/-- What comes from outside in this step, where something does: an entry that is no event stands for a step in which
nothing comes. -/
def State.outside (s : State) : Option Event × State :=
  match s.agenda with
  | [] => (none, s)
  | e :: rest => (if isEvent e.event then some e else none, { s with agenda := rest })

/-- A step of a part that has power. -/
def State.work (s : State) : Host.Outcome State Fault Refusal :=
  match s.prompt with
  | e :: _ => s.happen e
  | [] =>
    match s.outside with
    | (some e, s) => s.happen e
    | (none, s) => s.goOn

/-- Without power only a power-on reset happens (R467). -/
def State.dark (s : State) : Host.Outcome State Fault Refusal :=
  match s.outside with
  | (some ⟨.powerOnReset, x⟩, s) => s.happen ⟨.powerOnReset, x⟩
  | (_, s) => .next s

/-- One step. -/
def step (s : State) : Host.Outcome State Fault Refusal :=
  if s.powered then andThen s.work fun s => .next s.tick else s.dark

/-! ### A given word as the next instruction (DESIGN CHOICE, log 5) -/

/-- The frame of the word and the ASID of its context. -/
def fetchFrame : Nat := 0x100
def fetchAsid : Nat := 0

/-- The header under which the word stands: one instruction of its opcode's engine, without waits (R60). -/
def fetchHeader (w : DWord) : DWord :=
  BitVec.ofNat 64 (0xCA * 2 ^ 56 + 2 ^ 16 * (classOf (fieldOf w 56 8)).getD 0)

/-- The words of the first line: a header word stands where a header is, an instruction behind the header. -/
def fetchWords (w : DWord) : List DWord :=
  if fieldOf w 56 8 = 0xCA then w :: List.replicate 15 0
  else fetchHeader w :: w :: List.replicate 14 0

/-- The position of the lanes. -/
def fetchPos (w : DWord) : Pos := if fieldOf w 56 8 = 0xCA then Pos.fall 0 else Pos.first 0 (fetchHeader w)

/-- A launch record with one team of one GENERAL group of 255 registers. -/
def fetchRecord : Record where
  kernel := 0
  teams := 1
  teamCus := 1
  prio := 0
  sclass := 0
  debug := false
  ckpt := false
  roles := [⟨1, 255⟩, ⟨0, 0⟩, ⟨0, 0⟩, ⟨0, 0⟩]
  slots := List.replicate 8 0
  trap := 0
  tags := 64
  rings := 8
  barriers := 32
  scratchKib := 64
  spawnTimer := 4096
  affinePool := 0
  paramSize := 0
  pgt := 0
  pgtRanks := 0

/-- Its launch, all of whose teams are placed. -/
def fetchLaunch : Launch where
  id := 1
  asid := fetchAsid
  queue := 0
  entry := 0
  done := 0
  graph := 0
  node := 0
  preds := 0
  info := fetchRecord
  fwd := false
  param := []
  regions := []
  handles := []
  rank := 0
  firstTeam := 0
  share := 1
  placed := 1
  retired := 0
  links := []
  pods := []
  accepted := 0
  started := true
  complete := false

/-- `s` with an instruction where the step fetches next: a context with one resident group, whose lanes stand at the word,
whose code page is in the instruction TLB and whose line is in the instruction cache. What else could happen first is
taken away. -/
def State.withFetchWord (s : State) (nbits w : Nat) : State :=
  let x := BitVec.ofNat 64 (w % 2 ^ min nbits 64)
  let words := fetchWords x
  let lane : Lane := ⟨fetchPos x, .running, Pos.fall 0, false, false⟩
  let code : Tlb := ⟨fetchAsid, 0, false, 0, 12, 4096 * fetchFrame, 4096 * fetchFrame, true, true, true, 0, false⟩
  let line : CodeLine := ⟨fetchAsid, 0, fetchFrame, words, [], s.now⟩
  let ctx := contextOf (2 ^ 144 * fetchAsid) 0 4096 true [] s.now
  { s.setBytes (4096 * fetchFrame) (words.flatMap bytesOfDword) with
    powered := true
    agenda := []
    contexts := [ctx]
    launches := [fetchLaunch]
    teams := [Team.new 1 1 fetchAsid 0 false [0] 64 s.now s.now]
    groups := [Group.fresh 1 1 0 0 255 false 0 0 (List.replicate 32 lane)]
    cus := [(0, { Cu.empty with lines := [line], itlb := [code], scratchBlocks := 1, lastIssue := s.now })]
    nextId := max s.nextId 2
    frames := sset none (s.frames.filter fun f => f.2 != some .freeDirty && f.2 != some .zeroing) fetchFrame (some (.owned 0))
    funcs := sset Func.unbound s.funcs 0 ⟨some 0, 0, 512, false⟩
    graphs := [], bins := [], pending := [], held := [], slots := [], pageReqs := [], attempts := [], trumps := [], trumpQueue := []
    waiting := [], lines := s.lines.map (fun l => (l.1, { l.2 with snooped := false, asked := [] }))
    classes := s.classes.filter (fun c => match c.2 with | .transit _ => false | _ => true)
    packets := [], ports := [], grants := [], counts := [], buckets := [], mail := [], freeze := none, cur := none }

end Sys2Proof.Machine
end

