-- ==== Sys2Proof/Safety.lean ====
section
/-!
DEFINITION. What counts as a sound state and a safe run, in the terms that claims use: the invariants, the conditions
under which a selected instruction issues and completes, and what its issue leaves as it was.
-/
namespace Sys2Proof.Safety

open Sys2Proof.Machine

/-! ### Invariants -/

/-- Memory is in its canonical form. -/
def MemoryCanonical (s : State) : Prop := Memory.wf s.mem = true

/-- Every line has all its tokens, of which the holders have shares (R369). -/
def TokensConserved (s : State) : Prop := ∀ l, (s.line l).total = Config.tokens

/-- The caches agree: the tables of a line's and of an L1's words are in order, a line's owner exists and has a token, a
registration and the word that its L1 holds registered go together, on shared pages alone, and a word is dirty in the L1 of
its private page's owner alone, until the page's reclassification is done (R365 to R369). -/
structure Coherent (s : State) : Prop where
  tokens  : TokensConserved s
  owner   : ∀ l, known (s.line l).owner = true ∧ 0 < (s.line l).tokens (s.line l).owner
  ordered : ∀ l, ((s.line l).dirty.map Prod.fst).Pairwise (· < ·) ∧ ((s.line l).regs.map Prod.fst).Pairwise (· < ·)
  sorted  : ∀ c, ((s.cu c).l1.map Prod.fst).Pairwise (· < ·)
  inLine  : ∀ l, (∀ x ∈ (s.line l).dirty, x.1 < 32) ∧ ∀ x ∈ (s.line l).regs, x.1 < 32
  holds   : ∀ w c, s.registered? w = some c →
    (∃ v, s.l1? c w = some ⟨.registered, v⟩) ∧ sget PageClass.untouched s.classes (w / 1024) = .shared
  known   : ∀ w c v, s.l1? c w = some ⟨.registered, v⟩ → s.registered? w = some c
  dirty   : ∀ w c v, s.l1? c w = some ⟨.dirty, v⟩ → (sget PageClass.untouched s.classes (w / 1024)).owner? = some c

/-- The step answers a next state. -/
def Steps (s : State) : Prop := ∃ t, step s = .next t

/-! ### The issue at hand -/

/-- The group `g` issues `i` with the fields `f` for the lanes `cur.lanes`: its word is at hand, nothing holds it back
(R23, R73, R77, R263, R288, R297), and checks 4 to 11 of R88 find nothing under what `gd` asks of it. -/
structure Issues (s : State) (cur : Cur) (g : Group) (i : Instr) (f : Fields) (gd : Guard) : Prop where
  chosen : s.cur = some cur
  group  : s.group? cur.group = some g
  word   : encode i = some cur.word
  fields : i.fields? = some f
  free   : s.stalled g (fieldOf cur.word 56 8) f cur.lanes = false
  checks : s.checks g cur i f gd = none

/-- The half an issue acts for where it acts once: half 1 where its lanes are half 1's in forerunner mode (R162). -/
def halfOf (g : Group) (cur : Cur) : Nat := if g.fwd && cur.lanes &&& halfMask 0 == 0 then 1 else 0

/-- The instruction acts once in this issue: always where it acts for its lanes alone, and for a group or half where the
issue is not a merged one (R111, R162). -/
def Alone (g : Group) (cur : Cur) (how : Acting) : Prop := actions g.fwd how cur.lanes = [(halfOf g cur, cur.lanes)]

/-- The group once the issuing lanes stand past the instruction: every window counts the issue, and the half's wait has
ended (R61, R73, R164). -/
def moved (g : Group) (cur : Cur) (now : Nat) : Group := (g.advance cur cur.lanes now).setWait (halfOf g cur) .none

/-- What the instruction sees. -/
def seen (g : Group) (cur : Cur) (f : Fields) : Ictx :=
  ⟨g, f, cur.lanes, participants g f cur.lanes, halfOf g cur, cur.addr, cur.word, cur.lanes⟩

/-- The lane issues and its predicate holds (R70, R111). -/
def takes (g : Group) (cur : Cur) (f : Fields) (l : Nat) : Bool := cur.lanes.has l && predHolds g f l

/-- The instruction has a participant (R111). -/
def Taken (g : Group) (cur : Cur) (f : Fields) : Prop := ∃ l, l < 32 ∧ takes g cur f l = true

/-- The issuing lanes stay in the region in which the group is resident, where it is in one and runs no handler (R408). -/
def Stays (s : State) (g : Group) (cur : Cur) : Prop :=
  g.handler = true ∨ s.escape (moved g cur s.now) cur.addr cur.lanes = none

/-- The state after an issue that changes nothing but its group, by `F` from where its lanes have moved on. -/
def issued (s : State) (cur : Cur) (g : Group) (F : Group → Group) : State :=
  { s with
    cur := none
    groups := updId Group.id (fun _ => (F (moved g cur s.now)).closeIssue g cur) s.groups g.id }

/-- A 32-bit result: the destination register takes it. -/
def into (v : Ictx → Nat → Word) (c : Ictx) (r l : Nat) : Option Word :=
  if r = c.f.dst.toNat then some (v c l) else none

/-- A 64-bit result: the destination pair takes it, low word first (R67). -/
def intoPair (v : Ictx → Nat → DWord) (c : Ictx) (r l : Nat) : Option Word :=
  if r = c.f.dst.toNat then some ((v c l).extractLsb' 0 32)
  else if r = c.f.dst.toNat + 1 then some ((v c l).extractLsb' 32 32)
  else none

/-- The guard of a meaning, as the issue in state `s` sees it. -/
def guardIn (guard : State → Group → Fields → Guard) (s : State) (g : Group) (f : Fields) : Guard :=
  guard { s with cur := none } g f

/-- A fixed-latency instruction: where it issues and `pre` holds of what it sees, the step goes on; `v255` apart, each
register of each lane that takes part holds what `val` gives for it and every other register what it held; the issuing
lanes stand past the instruction, and nothing else of the machine changes. -/
def WritesIf (i : Instr) (f : Fields) (guard : State → Group → Fields → Guard) (pre : Ictx → Prop)
    (val : Ictx → Nat → Nat → Option Word) : Prop :=
  ∀ s cur g, Issues s cur g i f (guardIn guard s g f) → Stays s g cur → pre (seen g cur f) →
    ∃ rs, exec i s = .next (issued s cur g fun h => { h with regs := rs }) ∧
      ∀ r l, r ≠ 255 → l < 32 →
        Group.reg { g with regs := rs } r l =
          if takes g cur f l then (val (seen g cur f) r l).getD (g.reg r l) else g.reg r l

/-- The same of an instruction that asks nothing more. -/
def Writes (i : Instr) (f : Fields) (guard : State → Group → Fields → Guard) (val : Ictx → Nat → Nat → Option Word) :
    Prop :=
  WritesIf i f guard (fun _ => True) val

/-- Where it issues and `pre` holds of what it sees, the instruction raises a fault and has no other effect (R88, R136). -/
def Faults (i : Instr) (f : Fields) (guard : State → Group → Fields → Guard) (how : Acting) (pre : State → Ictx → Prop)
    (rec : State → Ictx → FaultRecord) : Prop :=
  ∀ s cur g, Issues s cur g i f (guardIn guard s g f) → (how = .grouped → Taken g cur f) → pre s (seen g cur f) →
    exec i s = .next (State.takeFault { s with cur := none } g (rec s (seen g cur f)))

/-- Where it issues, takes part for the group or for one half, and `cond` holds, the instruction waits: the group stands
as it did, with the wait and the slot that the waiting instruction holds (R112), and its turn (R161). -/
def Holds (i : Instr) (f : Fields) (how : Acting) (cond : Ictx → State → Prop) (w : Ictx → Wait) : Prop :=
  ∀ s cur g, Issues s cur g i f Guard.plain → Alone g cur how → Taken g cur f → cond (seen g cur f) s →
    exec i s = .next
      { s with
        cur := none
        groups := updId Group.id (fun _ =>
          (g.setWait (halfOf g cur) (w (seen g cur f)) f.sbset.toNat).closeIssue g cur)
          s.groups g.id }

/-- The actions of an issue, one after another: for the lanes and half of each, its lanes move on, and `own` makes the
effect from what it sees; an instruction that acts once for the group does nothing for a half without participants (R111,
R162). None where `own` gives no effect, or where lanes would leave the group's region (R408). -/
def acting (how : Acting) (own : Ictx → State → Option State) (cur : Cur) (f : Fields) :
    List (Nat × Mask) → State → Option State
  | [], s => some s
  | (h, m) :: rest, s =>
    match s.group? cur.group with
    | none => none
    | some g =>
      let c : Ictx := ⟨g, f, m, participants g f m, h, cur.addr, cur.word, cur.lanes⟩
      let s' := s.putGroup ((g.advance cur m s.now).setWait h .none)
      match if how == .grouped && participants g f m == 0 then some s' else own c s' with
      | none => none
      | some t =>
        if (t.group? cur.group).all fun g' => (g.handler && g'.handler) || (t.escape g' cur.addr m).isNone then
          acting how own cur f rest t
        else none

/-- An instruction completes: where it issues and each of its actions has its effect, the step goes on to the state they
leave, the selection of the issue gone and its turn recorded (R161). -/
def Completes (i : Instr) (f : Fields) (guard : State → Group → Fields → Guard) (how : Acting)
    (own : Ictx → State → Option State) : Prop :=
  ∀ s cur g t, Issues s cur g i f (guardIn guard s g f) →
    acting how own cur f (actions g.fwd how cur.lanes) { s with cur := none } = some t →
    exec i s = .next (t.modGroup g.id fun h => h.closeIssue g cur)

/-- No guard beyond the word. -/
def unguarded (_ : State) (_ : Group) (_ : Fields) : Guard := Guard.plain

/-- The state in which an issue's own effect begins. -/
def begun (s : State) (cur : Cur) (g : Group) : State := { s with cur := none }.putGroup (moved g cur s.now)

/-- The state after an issue whose own effect came to `t`. -/
def closed (t : State) (cur : Cur) (g : Group) : State :=
  t.modGroup g.id fun h => h.closeIssue g cur

end Sys2Proof.Safety
end

