-- ==== Sys2Proof/Certificates/Slice0/Obligations.lean ====
section
/-!
DEFINITION. The statements for the provers. Where a statement speaks of an instruction at issue, `Issues` says that it
issues and that no check of R88 stands in its way, `takes` which lanes take part (R111), and `issued` the state after it.
Values that an instruction computes are said here in the spec's own terms, apart from the model's.
-/
namespace Sys2Proof.Claims

open Sys2Proof.Machine Sys2Proof.Safety

/-! ### The machine -/

/-- The state that an outcome goes on to, changed by what the step adds. -/
def thenTick (o : Host.Outcome State Fault Refusal) : Host.Outcome State Fault Refusal :=
  match o with
  | .next t => .next (State.tick { t with draws := t.draws + 1 })
  | .fault x => .fault x
  | .refused x => .refused x

/-- The word is one that decodes to an instruction of a clause. -/
def reads (w : DWord) (i : Instr) : Prop :=
  decode (bytesOfDword w) = .ok (i, []) ∧ WellFormed i ∧ ∀ h, i ≠ .clauseHeader h

/-- The record of a fault at an instruction (R139): code, lanes, information, PC and address. -/
def faultRecord (cur : Cur) (code info : Nat) : FaultRecord :=
  ⟨BitVec.ofNat 32 code, cur.lanes, BitVec.ofNat 32 info, cur.addr, cur.word⟩

/-- An opcode and a clause's class, as a word and its header give them (R60, R66). -/
def opcodeOf (w : DWord) : Nat := (w.extractLsb' 56 8).toNat
def engineOf (h : DWord) : Nat := (h.extractLsb' 16 3).toNat

/-- The fault is fatal to its context, or replayable (R136, R138, R151). -/
def goesToHandler (s : State) (g : Group) (r : FaultRecord) (image : Bool) : Prop :=
  fatalCodes.contains r.fcode = false ∧ s.replayable g r image = false

/-- The address of the launch's trap handler; 0 for none. -/
def trapOf (s : State) (g : Group) : DWord := ((s.launchOf? g).map fun l => l.info.trap).getD 0

/-- A group that has entered its handler (R140): the record, the lanes that neither wait nor have exited saved and sent to
the handler's address, its waits set aside; the rest as it was. -/
def inHandler (g h : Group) (r : FaultRecord) (trap : DWord) : Prop :=
  h = { g with
    lanes := h.lanes, record := r, handler := true, trapWait := none, parked := none
    saveWait0 := g.wait0, saveWait1 := g.wait1, saveSlot0 := g.waitSlot0, saveSlot1 := g.waitSlot1
    wait0 := .none, wait1 := .none, waitSlot0 := 0, waitSlot1 := 0 }
  ∧ ∀ l, l < 32 →
    h.lane l =
      if (g.lane l).exited = false ∧ (g.lane l).park = .running then
        { g.lane l with pos := ⟨trap, 0, 0, .entry⟩, save := (g.lane l).pos, setsr := false, entered := true }
      else g.lane l

/-- A context that a fault has ended (R143, R448): its record is kept and every group of it stands as if each of its lanes
had executed EXIT; groups of other contexts stay as they were. -/
def endedBy (s t : State) (asid : Nat) (r : FaultRecord) : Prop :=
  (∃ c, t.context? asid = some c ∧ c.state = .ending ∧ c.ended = some r)
  ∧ (∀ a, a ≠ asid → t.context? a = s.context? a)
  ∧ ∀ id h, s.group? id = some h →
    if s.asidOf h = asid then
      ∃ h', t.group? id = some h' ∧ (∀ l, l < h.lanes.length → (h'.lane l).pc = exitedPc ∧ (h'.lane l).park = .running)
        ∧ h'.regs = h.regs ∧ h'.wait0 = .none ∧ h'.wait1 = .none
    else t.group? id = some h

/-- The position past a word that faulted: inside a clause the next position, and behind a header that could not be read the
clause's first instruction (R62, R141). -/
def pastWord (p : Pos) : Pos :=
  if p.arrival = .inClause ∨ p.arrival = .past then p.next else ⟨p.pc + 8, p.pc, 0, .past⟩

/-- A lane's position after TRAPRET at `here` (R62, R141). -/
def returned (skip : Bool) (r : FaultRecord) (here : DWord) (l : Lane) : Lane :=
  { l with
    entered := false
    pos :=
      if l.setsr then ⟨l.save.pc, 0, 0, .transfer here⟩
      else if skip ∧ l.save.pc = r.pc ∧ r.fcode ≠ 0x01 ∧ r.fcode ≠ 0x02 ∧ r.fcode ≠ 0x06 then pastWord l.save
      else l.save }

/-- The lanes that TRAPRET returns. -/
def returns (g : Group) : Mask := maskOf fun l => !(g.lane l).exited && (g.lane l).entered

/-- A wait set aside at the handler's entry goes on where every lane that returns to it stands at its instruction (the model's
choice: log 61). -/
def waitGoesOn (skip : Bool) (g : Group) (half : Nat) : Bool :=
  (List.range 32).all fun l =>
    !((returns g).has l && (!g.fwd || l / 16 == half))
      || (!(g.lane l).setsr
        && !(skip && (g.lane l).save.pc == g.record.pc && !([0x01, 0x02, 0x06].contains g.record.fcode)))

/-- The group after TRAPRET (R141). -/
def afterReturn (skip : Bool) (here : DWord) (g : Group) : Group :=
  let back (half : Nat) (w w' : Wait) := if half = 0 ∨ g.fwd then (if waitGoesOn skip g half then w else .none) else w'
  let slot (half : Nat) (w w' : Nat) := if half = 0 ∨ g.fwd then (if waitGoesOn skip g half then w else 0) else w'
  { g with
    lanes := (List.range 32).map fun l => if (returns g).has l then returned skip g.record here (g.lane l) else g.lane l
    handler := false
    wait0 := back 0 g.saveWait0 g.wait0, waitSlot0 := slot 0 g.saveSlot0 g.waitSlot0
    wait1 := back 1 g.saveWait1 g.wait1, waitSlot1 := slot 1 g.saveSlot1 g.waitSlot1
    saveWait0 := .none, saveWait1 := .none, saveSlot0 := 0, saveSlot1 := 0 }

/-- The state that settling the joins of a group leaves (R41): none where a fault is raised, or the engine has no room. -/
def settledState (e : Effect) : Option State :=
  match e with
  | .done t => some t
  | _ => none

/-- TRAPRET in handler mode (R26, R141): a revocation that waits for it sends the group to its handler instead. -/
def trapReturn (skip : Bool) (c : Ictx) (s : State) : Option State :=
  match s.group? c.g.id with
  | none => none
  | some g =>
    if c.g.handler = false then none
    else
      match c.g.redirect with
      | some r => some (s.putGroup { ({ c.g with ops := g.ops }).redirectTo r with handler := false })
      | none =>
        let h := afterReturn skip c.addr g
        if (s.escape h c.addr (returns c.g)).isNone then settledState ((s.putGroup h).settled g.id 0) else none

/-! ### Values of row 1 -/

/-- clamp(x, lo, hi) (R128). -/
def clamp (x lo hi : Int) : Int := max lo (min x hi)

/-- An operand as R128 reads it: signed under `.s.sat`. -/
def exact {w : Nat} (f : Fields) (x : BitVec w) : Int := if low f.mod = 3 then x.toInt else x.toNat

/-- The narrowing of R128. -/
def narrowed (w : Nat) (f : Fields) (x : Int) : BitVec w :=
  BitVec.ofInt w
    (if low f.mod = 1 then clamp x 0 (2 ^ w - 1)
     else if low f.mod = 3 then clamp x (-2 ^ (w - 1)) (2 ^ (w - 1) - 1) else x)

/-- An operand under the X code (R127). -/
def underX (f : Fields) (x : Word) : Int := if low f.mod = 2 then x.toInt else x.toNat

/-- The bits that SHR shifts in, and the whole of BFE, bit by bit (R129). -/
def extracted (f : Fields) (a b : Word) : Word :=
  let pos := b.toNat % 256
  let len := b.toNat / 256 % 256
  let e := min (pos + len) 32
  if len = 0 ∨ 32 ≤ pos then 0
  else maskOf fun k => if pos + k < e then a.getLsbD (pos + k) else low f.mod == 2 && a.getLsbD (e - 1)

/-- BFI bit by bit (R129). -/
def inserted (a b c : Word) : Word :=
  let pos := b.toNat % 256
  let len := b.toNat / 256 % 256
  let e := min (pos + len) 32
  if len = 0 ∨ 32 ≤ pos then c
  else maskOf fun k => if pos ≤ k ∧ k < e then a.getLsbD (k - pos) else c.getLsbD k

/-- The conditions of ISET by MOD (R130). -/
def compared (m : BitVec 3) (a b : Int) : Bool :=
  match m.toNat with
  | 0 => a = b
  | 1 => a ≠ b
  | 2 => a < b
  | 3 => a ≤ b
  | 4 => a > b
  | _ => a ≥ b

/-- ISET's operands, signed where SRCC is 0 (R130). -/
def underC (f : Fields) (x : Word) : Int := if f.srcc = 0 then x.toInt else x.toNat

/-- The window byte w_k of BWIN before ZERO and EXT (R133). -/
def window (a b c : Word) (k : Nat) : Nat :=
  let k := if c.getLsbD 3 then 3 - k else k
  let j := (k + c.toNat % 8) % 8
  if j < 4 then a.toNat / 256 ^ j % 256 else b.toNat / 256 ^ (j - 4) % 256

/-- The byte k of BWIN's result (R133). -/
def windowByte (a b c : Word) : Nat → Nat
  | 0 => if c.getLsbD 4 then 0 else window a b c 0
  | k + 1 =>
    if c.getLsbD (4 + (k + 1)) then 0
    else if c.getLsbD (8 + (k + 1)) then (if windowByte a b c k / 128 % 2 = 1 then 0xFF else 0x00)
    else window a b c (k + 1)

/-- The lane whose a LXCH reads (R134, R166). -/
def exchanged (c : Ictx) (i : Nat) : Nat :=
  let s : Word := BitVec.ofNat 32 ((c.b i).toNat + c.f.srcc.toNat)
  let n : Nat := if c.g.fwd then 16 else 32
  let own : Int := (i % n : Nat)
  let src : Int :=
    match (low c.f.mod).toNat with
    | 0 => if c.g.fwd then (s.toNat % 16 : Nat) else s.toNat
    | 1 => own + s.toInt
    | 2 => (own + s.toNat) % n
    | _ => ((i % n) ^^^ (s.toNat % n) : Nat)
  if 0 ≤ src ∧ src < n then i / n * n + src.toNat else i

/-- The participants whose values are combined for lane `i` (R135, R167). -/
def combined (c : Ictx) (i : Nat) : List Nat :=
  (List.range 32).filter fun j => c.parts.has j && (!c.g.fwd || j / 16 == i / 16)

/-- The first lane of what is combined for lane `i`, and how many lanes there are. -/
def firstLane (c : Ictx) (i : Nat) : Nat := if c.g.fwd then i / 16 * 16 else 0
def laneCount (c : Ictx) : Nat := if c.g.fwd then 16 else 32

/-- LMASK for lane `i` (R135, R167). -/
def maskResult (c : Ictx) (i : Nat) : Word :=
  let set := (combined c i).filter fun j => c.bt j ≠ 0
  match c.f.mod.toNat with
  | 0 => maskOf fun k => set.any fun j => j - firstLane c i == k
  | 1 => BitVec.ofNat 32 set.length
  | 2 => if ∀ j ∈ combined c i, c.bt j ≠ 0 then 0xFFFFFFFF else 0
  | 3 => if ∃ j ∈ combined c i, c.bt j ≠ 0 then 0xFFFFFFFF else 0
  | 4 => if ∀ j ∈ combined c i, ∀ k ∈ combined c i, c.bt j = c.bt k then 0xFFFFFFFF else 0
  | 5 => BitVec.ofNat 32 ((set.foldr (fun j m => min (j - firstLane c i) m) (laneCount c)))
  | _ => if set = [] then BitVec.ofNat 32 (laneCount c)
    else BitVec.ofNat 32 ((set.foldr (fun j m => max (j - firstLane c i) m) 0))

/-- LCOMB for lane `i`: over the participants of its lane block (R135, R167). -/
def blockResult (c : Ictx) (i : Nat) : Word :=
  let n := 2 ^ c.f.srcc.toNat
  let vs := ((combined c i).filter fun j => j / n = i / n).map c.bt
  match c.f.mod.toNat with
  | 0 => BitVec.ofNat 32 ((vs.map BitVec.toNat).sum)
  | 1 => BitVec.ofInt 32 ((vs.map BitVec.toInt).foldr min (2 ^ 31 - 1))
  | 2 => BitVec.ofInt 32 ((vs.map BitVec.toInt).foldr max (-2 ^ 31))
  | 3 => BitVec.ofNat 32 ((vs.map BitVec.toNat).foldr min (2 ^ 32 - 1))
  | 4 => BitVec.ofNat 32 ((vs.map BitVec.toNat).foldr max 0)
  | 5 => vs.foldr (· &&& ·) 0xFFFFFFFF
  | 6 => vs.foldr (· ||| ·) 0
  | _ => vs.foldr (· ^^^ ·) 0

/-- Every participant's index names a register of the group (R132). -/
def namesRegister (c : Ictx) : Prop :=
  ∀ l, c.parts.has l = true → (c.a l).toNat + c.f.srcc.toNat < c.g.nregs ∧ (c.a l).toNat + c.f.srcc.toNat ≠ 255

/-- The lanes whose index names none, and the lowest of them. -/
def misindexed (c : Ictx) : Mask :=
  maskOf fun l => c.parts.has l
    && (c.g.nregs ≤ (c.a l).toNat + c.f.srcc.toNat || (c.a l).toNat + c.f.srcc.toNat == 255)

/-- A result in the register that the lane's own index names (R132). -/
def intoIndexed (v : Ictx → Nat → Word) (c : Ictx) (r l : Nat) : Option Word :=
  if r = (c.a l).toNat + c.f.srcc.toNat then some (v c l) else none

/-! ### Row 0 -/

/-- The participants stand at an address to which they were transferred from the instruction (R36, R64). -/
def jump (c : Ictx) (dest : Nat → DWord) (s : State) : State :=
  s.modGroup c.g.id fun g =>
    { g with lanes := (List.range 32).map fun i =>
        if c.parts.has i then { g.lane i with pos := ⟨dest i, 0, 0, .transfer c.addr⟩ } else g.lane i }

/-- The link pair of each participant takes the address after the instruction (R113). -/
def link (c : Ictx) (s : State) : State := s.writeResults c (c.each64 fun _ => c.addr + 8)

/-- BRA's and CALL's target (R113). -/
def near (c : Ictx) : DWord := c.addr + BitVec.ofInt 64 (8 * c.f.imm.toInt)

/-- Joins after a change of the group: what completes is settled (R41); none where that raises a fault,
or the engine has no room for the multiplies that would issue. -/
def settledAs (c : Ictx) (F : Group → Group) (s : State) : Option State := settledState ((s.modGroup c.g.id F).settled c.g.id 0)

/-- The join register of an issue: in forerunner mode each half has eight of its own (R163). -/
def joinAt (c : Ictx) : Nat := c.f.dst.toNat + if c.g.fwd then 8 * c.half else 0

/-- JENR's declared mask: the group operand, its low 16 bits in forerunner mode for the half's own lanes (R40, R163). -/
def declaredMask (c : Ictx) : Mask :=
  maskOf fun i =>
    if c.g.fwd then i / 16 == c.half && (c.g.reg c.f.srca.toNat c.lead).getLsbD (i % 16)
    else (c.g.reg c.f.srca.toNat c.lead).getLsbD i

/-- The group with a join declared anew: signed bits of lanes that wait at it are kept (R40). -/
def declared (j : Nat) (m : Mask) (g : Group) : Group :=
  g.setJoin j ⟨m, maskOf fun i => (g.join j).signed.has i && ((g.waiters j).has i || (g.holders j).has i)⟩

/-- The group with a join signed by lanes that it declares (R40). -/
def signed (j : Nat) (m : Mask) (g : Group) : Group :=
  g.setJoin j ⟨(g.join j).declared, maskOf fun i =>
    (g.join j).signed.has i || (m.has i && (g.join j).declared.has i)⟩

/-- The group with lanes parked at a JWAIT on a join (R37, R41): a parked lane keeps its PC. -/
def parkedAt (c : Ictx) (j : Nat) (g : Group) : Group :=
  { g with lanes := (List.range 32).map fun i =>
      if c.parts.has i then { c.g.lane i with park := .join j } else g.lane i }

/-- A slot that a mask names holds no instruction, nor the wait of the other half (R77, R112, R117). -/
abbrev slotsClear (c : Ictx) (m : Nat) : Prop :=
  ∀ k, k < 7 → m.testBit k = true → c.g.slotCount (k + 1) = 0 ∧ ¬(c.g.fwd = true ∧ c.g.waitSlot (1 - c.half) = k + 1)

/-- The tag mask names no tag beyond the team's (R118). -/
abbrev tagsExist (c : Ictx) (s : State) : Prop :=
  ∀ k, k < 64 → (c.a64 c.lead).getLsbD k = true → k < s.need c.g Record.tags

/-- The lowest set bit of a tag mask as TWANY and TFIND write it (R118). -/
def tagNumber (x : BitVec 64) : Word :=
  if x = 0 then 0xFFFFFFFF else BitVec.ofNat 32 ((List.range 64).takeWhile fun k => !x.getLsbD k).length

/-- The tags of the mask that are set. -/
def tagsSet (c : Ictx) (s : State) : BitVec 64 := s.tagsOf c.g &&& c.a64 c.lead

/-- An arrival at a barrier (R119): none where it faults, else the state after the arrival and the flip that it brings. -/
def arrived (counted : Bool) (c : Ictx) (s : State) : Option State :=
  let n := c.f.srca.toNat
  let offered := (c.g.reg c.f.srcb.toNat c.lead).toNat
  match s.team? c.g.team with
  | none => none
  | some t =>
    let b := t.barrier n
    let first := b.form.isNone
    if n < s.need c.g Record.barriers
        ∧ (counted = true → 1 ≤ offered ∧ offered ≤ 384)
        ∧ (first = true ∨ (b.form = some counted ∧ (counted = true → b.expected = offered))) then
      some ((s.modTeam t.id fun t =>
        { t with
          barriers := sset Barrier.start t.barriers n
            ⟨b.count + 1, if counted then offered else 0, some counted, b.phase⟩ }).flipBarrier t.id n)
    else none

/-- The phase bit of a barrier and of a ring slot of the group's team. -/
def barrierPhase (c : Ictx) (s : State) : Bool :=
  ((s.team? c.g.team).map fun t => (t.barrier c.f.srca.toNat).phase).getD false
def ringPhase (c : Ictx) (s : State) : Option Bool :=
  (s.team? c.g.team).map fun t => (t.ring c.f.srca.toNat c.f.srcc.toNat).phase

/-- Reads that an instruction makes as it issues, one after another, where each can be made at once (R369): the values by lane,
and the state after; none where one has to wait, or goes to a peer that cannot be reached. -/
def readsAtOnce (g : Group) : List Access → State → Option (List (Nat × Nat) × State)
  | [], s => some ([], s)
  | a :: as, s =>
    match s.readNow g a with
    | .bytes bs s => (readsAtOnce g as s).map fun x => ((a.lane, natOfBytes bs) :: x.1, x.2)
    | _ => none

/-- The accesses of an MWAIT at its participants' addresses, and the state after their translations; none where an access of
its own is outstanding there or a check faults (R121). -/
def watched (c : Ictx) (s : State) : Option (List Access × State) :=
  let n := if c.f.mod.getLsbD 0 then 8 else 4
  let at' := (lanesOf c.parts).map fun i => (i, c.a64 i)
  if c.ownAccess n at' s then none else (s.reach c n .read at' (fun _ => .load n false) true []).toOption

/-- The lane's word still has its expected value. -/
def stillSame (c : Ictx) (r : List (Nat × Nat)) (i : Nat) : Bool :=
  r.any fun x => x.1 == i && x.2 == if c.f.mod.getLsbD 0 then (c.b64 i).toNat else (c.g.reg c.f.srcb.toNat i).toNat

/-- How an MWAIT that began at `start` ends (R121): none while it sleeps. A sleeper reads when what its scope shows of every word
differs (R338), or its timeout is due. -/
def waitOver (asleep : Bool) (start : BitVec 64) (c : Ictx) (s : State) : Option State :=
  match watched c s with
  | none => none
  | some (accs, u) =>
    let timeout := (c.g.reg c.f.srcc.toNat c.lead).toNat
    let due := timeout ≠ 0 ∧ timeout ≤ (u.clock - start).toNat
    let shown := accs.map fun a => (a.lane, u.valueAt c.g.cu (c.f.mod.toNat / 2) a)
    if asleep ∧ ¬due ∧ (lanesOf c.parts).any (stillSame c shown) then none
    else
      match readsAtOnce c.g accs u with
      | none => none
      | some (r, t) =>
        if (lanesOf c.parts).all (fun i => !stillSame c r i) then some (t.writeResults c (c.each fun _ => 0))
        else if due then some (t.writeResults c (c.each fun i => if stillSame c r i then 1 else 0))
        else none

/-- The 64-bit special registers, and what each special register reads in a lane (R125, R126, R160). -/
def srValue (s : State) (g : Group) (l n : Nat) : DWord :=
  let num := fun x : Nat => BitVec.ofNat 64 x
  match n with
  | 0 => num (if g.fwd then l % 16 else l)
  | 1 => num (if g.fwd then 2 * g.index + l / 16 else g.index)
  | 2 => num (((s.team? g.team).map Team.number).getD 0)
  | 3 => num g.role
  | 4 => num (g.cu % 64)
  | 5 => num g.quad
  | 6 => num (g.cu % 64 / 8)
  | 7 => num (g.cu / 64)
  | 8 => num (((s.launchOf? g).map Launch.rank).getD 0)
  | 9 => num g.nregs
  | 10 => num (s.devCap.toNat % 2 ^ 32)
  | 11 => s.clock
  | 12 => g.record.code.zeroExtend 64
  | 13 => g.record.lanes.zeroExtend 64
  | 14 => g.record.info.zeroExtend 64
  | 15 => g.record.pc
  | 16 => g.record.addr
  | 17 => (g.lane l).save.pc
  | 18 => if g.handler then 1 else 0
  | 19 => if ((s.team? g.team).map Team.spawn).getD false then 1 else 0
  | _ => num (((s.team? g.team).map fun t => t.spos.getD (t.cuIndex g) 0).getD 0)

/-! ### Values of rows 2 and 3 -/

/-- The real number that a finite code stands for (R171). -/
noncomputable def realOf (F : Fmt) (code : Nat) : Option ℝ :=
  match F.read code with
  | .fin s n e => some ((if s then -1 else 1) * n * (2 : ℝ) ^ e)
  | _ => none

/-- The sign of a code. -/
def signOf (F : Fmt) (code : Nat) : Bool := code.testBit (F.w + F.m)

/-- The magnitudes of a format with its exponent range unbounded above, in ascending order: the k-th has exponent field
k / 2^m and mantissa field k mod 2^m (R171, R179). -/
noncomputable def magnitude (F : Fmt) (k : Nat) : ℝ :=
  if k < 2 ^ F.m then k * (2 : ℝ) ^ F.qmin
  else ((k % 2 ^ F.m + 2 ^ F.m : Nat) : ℝ) * (2 : ℝ) ^ (F.qmin + (k / 2 ^ F.m : Nat) - 1)

/-- Which magnitude a mode takes for x between the k-th and the next: R179. -/
noncomputable def taken (F : Fmt) (mode : Nat) (s : Bool) (x : ℝ) (k : Nat) : Nat :=
  open Classical in
  if x = magnitude F k then k
  else
    match mode with
    | 0 =>
      if 2 * x < magnitude F k + magnitude F (k + 1) then k
      else if magnitude F k + magnitude F (k + 1) < 2 * x then k + 1
      else if k % 2 = 0 then k else k + 1
    | 1 => k
    | 2 => if s then k + 1 else k
    | _ => if s then k else k + 1

/-- The code of a magnitude that is rounded to the k-th, non-saturating, in a format with infinities (R180). -/
def codeOf (F : Fmt) (mode : Nat) (s : Bool) (k : Nat) : Nat :=
  if k < F.top then F.signed s k
  else
    match mode with
    | 0 => F.signed s F.top
    | 1 => F.signed s (F.top - 1)
    | 2 => if s then F.signed s F.top else F.signed s (F.top - 1)
    | _ => if s then F.signed s (F.top - 1) else F.signed s F.top

/-- `code` is the magnitude x with the sign s rounded into a format under a mode (R179, R180). -/
def Rounded (F : Fmt) (mode : Nat) (s : Bool) (x : ℝ) (code : Nat) : Prop :=
  ∃ k : Nat, magnitude F k ≤ x ∧ x < magnitude F (k + 1) ∧ code = codeOf F mode s (taken F mode s x k)

/-- The arithmetic formats. -/
def arithmetic : List Fmt := [f64, f32, f16, bf16]

/-- A NaN code and its quieted form (R172, R193). -/
def isNan (F : Fmt) (code : Nat) : Prop := F.top < code % 2 ^ (F.w + F.m)
def quieted (F : Fmt) (code : Nat) : Nat := code ||| 2 ^ (F.m - 1)

/-- The pair of codes that two words hold, each element by an operation (R197). -/
def elements (op : List Nat → Nat) (xs : List Word) : Word :=
  BitVec.ofNat 32 (op (xs.map fun x => x.toNat % 2 ^ 16) % 2 ^ 16
    + 2 ^ 16 * (op (xs.map fun x => x.toNat / 2 ^ 16) % 2 ^ 16))

/-- The mode in MOD bits 1:0 (R82). -/
def modeOf (f : Fields) : Nat := f.mod.toNat % 4

/-- An operation becomes outstanding (R22, R73, R77): its counter class, its slot, its window, and the registers that are
pending in the lanes of a mask; `v255` is none. -/
def outstanding (cls : Option Nat) (dsts : List Nat) (pend : Mask) (kind : OpKind) (c : Ictx) (s : State) : State :=
  let ds := dsts.filter (· ≠ 255)
  { (s.modGroup c.g.id fun g =>
      { g with
        ops := g.ops ++
          [{ id := s.nextId, pc := c.addr, cls := cls, slot := c.f.sbset.toNat, look := c.f.look.toNat
             since0 := 0, since1 := 0, lanes := c.lanes, dsts := ds, pend := if ds = [] then 0 else pend
             kind := kind, weight := max 1 (c.g.starts (opcodeOf c.word) c.f c.lanes), late := [], shadow := [], fixed := []
             done := false }] }) with
    nextId := s.nextId + 1 }

/-- A long-latency instruction of row 2 or 3 with known results. -/
def pending (dsts : List Nat) (ws : Ictx → List RegWrite) (c : Ictx) (s : State) : Option State :=
  some (outstanding none dsts c.parts (.result (ws c) []) c s)

/-- Results of an operation land and others are left: each register and lane takes the last of them that names it, but
where an instruction after it has written that register and another has read it since (R74); the operation owes the others,
and completes where none is left. No other operation changes, but in what it knows to be overwritten. -/
def Lands (s : State) (g : Group) (o : Op) (m : Mask) (now left : List RegWrite) : Prop :=
  ∃ h : Group, h = { g with regs := h.regs, ops := h.ops }
    ∧ (∀ r l, r ≠ 255 → l < 32 → Group.reg h r l =
        ((now.reverse.find? fun w => w.reg == r && w.lane == l && !o.fixed.contains (32 * r + l)).map RegWrite.value).getD
          (g.reg r l))
    ∧ h.ops.map (fun p => { p with shadow := [] }) = g.ops.map (fun p =>
        if p.id = o.id then
          { p with
            kind := .result left [], shadow := []
            dsts := p.dsts.filter fun r => left.any fun w => w.reg == r
            pend := maskOf fun l => left.any fun w => w.lane == l && p.dsts.contains w.reg }
        else { p with shadow := [] })
    ∧ let t : State := { s with groups := updId Group.id (fun _ => h) s.groups g.id }
      exec (.longLatencyResult g.id o.id m) s = .next (if left = [] then t.finish g.id o.id else t)

/-! ### Conversions -/

/-- `v` is a real number rounded to an integer under a mode (R179, R183). -/
def RoundedInt (mode : Nat) (x : ℝ) (v : Int) : Prop :=
  match mode with
  | 0 => |x - v| ≤ 1 / 2 ∧ (|x - v| = 1 / 2 → v % 2 = 0)
  | 1 => v = if 0 ≤ x then ⌊x⌋ else ⌈x⌉
  | 2 => v = ⌊x⌋
  | _ => v = ⌈x⌉

/-- The floating-point format of a code of R207. -/
def formatOf (code : Nat) : Fmt := if code = 2 then f16 else if code = 3 then bf16 else if code = 9 then f64 else f32

/-- The width and the sign of an integer code of R208. -/
def widthOf (code : Nat) : Nat := [32, 32, 64, 64, 16, 16, 8].getD code 8
def isSigned (code : Nat) : Bool := code == 0 || code == 2 || code == 4 || code == 6

/-- The least and the greatest value of an integer code. -/
def leastOf (code : Nat) : Int := if isSigned code then -2 ^ (widthOf code - 1) else 0
def greatestOf (code : Nat) : Int := if isSigned code then 2 ^ (widthOf code - 1) - 1 else 2 ^ widthOf code - 1

/-- The integer of a code that the low bits of a value hold. -/
def integerOf (code : Nat) (x : Nat) : Int :=
  let b := BitVec.ofNat (widthOf code) x
  if isSigned code then b.toInt else b.toNat

/-- The source and the destination code in SRCC, and the source's bits: a pair where it is 64 bits wide. -/
def fromCode (f : Fields) : Nat := f.srcc.toNat / 16
def toCode (f : Fields) : Nat := f.srcc.toNat % 16
def sourceBits (wide : Bool) (c : Ictx) (l : Nat) : Nat := if wide then (c.b64 l).toNat else (c.b l).toNat

/-- A result of 32 or 64 bits, in a register or a pair. -/
def intoSize (wide : Bool) (v : Ictx → Nat → Nat) : Ictx → Nat → Nat → Option Word :=
  if wide then intoPair fun c l => BitVec.ofNat 64 (v c l) else into fun c l => BitVec.ofNat 32 (v c l)

/-- The slot that CVTN, CVTW, BSCALE and CBDEC name, and how many elements of its format a register packs (R209). -/
def slotBitsOf (s : State) (f : Fields) (c : Ictx) : BitVec 64 := s.slotBits c.g (f.srcc.toNat % 8)
def packs (element : Nat) : Nat :=
  if element = 2 ∨ element = 3 then 2 else if element = 6 then 8 else if element ∈ [4, 5, 8, 11] then 4 else 1

/-- What an instruction that uses a slot asks for (R28, R56, R209): its block, and a slot that it accepts. -/
def asks (accepts : BitVec 64 → Bool) (block : Fields → BitVec 8) (packed decoder : Bool) (s : State) (g : Group)
    (f : Fields) : Guard :=
  slotGuard cvtSlot (fun el f => if packed then [(packedKind el, (block f).toNat)] else []) accepts decoder s g f

/-- The lanes of lane `l`'s block that take part in a BSCALE: at most a half in forerunner mode (R212). -/
def blockLanes (c : Ictx) (l : Nat) : List Nat :=
  let L := c.f.srcc.toNat / 8 % 8
  let n := 2 ^ (if c.g.fwd then min L 4 else L)
  (List.range 32).filter fun j => c.parts.has j && j / n == l / n

/-- The weights of a CB2 index under a codebook word, each rounded with its scale (R177, R213). -/
def weights (x : BitVec 64) (mode scale index word : Nat) : List Word :=
  (cb2Weights index word).map fun w => BitVec.ofNat 32
    (if scale = 0xFF then 0x7FC00000 else f32.roundTo mode (slotSat x) false w.1 w.2 ((scale : Int) - 128) false)

/-! ### Row 4 -/

/-- The bytes of a type code, and whether it sign-extends (R314). -/
def accessSize (t : Nat) : Nat := [1, 1, 2, 2, 4, 8].getD t 16
def extends' (t : Nat) : Bool := t == 1 || t == 3

/-- The registers of an access of `z` bytes, and the bytes that they hold in a lane, the lowest first (R67, R314). -/
def registersOf (first z : Nat) : List Nat := (List.range (max 1 (z / 4))).map (first + ·)
def bytesAt (c : Ictx) (first z l : Nat) : List Byte :=
  (List.range z).map fun k => (c.g.reg (first + k / 4) l).extractLsb' (8 * (k % 4)) 8

/-- The addresses of the participants, and their scratchpad offsets, with an offset in units of the access (R315). -/
def addresses (c : Ictx) (off : BitVec 8) (z : Nat) : List (Nat × DWord) :=
  (lanesOf c.parts).map fun l => (l, c.a64 l + BitVec.ofInt 64 (off.toInt * z))
def offsets (c : Ictx) (off : BitVec 8) (z : Nat) : List (Nat × Nat) :=
  (lanesOf c.parts).map fun l => (l, (c.a l + BitVec.ofInt 32 (off.toInt * z)).toNat)

/-- The address of the lowest participant. -/
def leadAddress (c : Ictx) : List (Nat × DWord) := [(c.lead, c.a64 c.lead)]

/-- The width of an atomic, its operand from a register, and the operations of ATOM and CAS in a lane (R322, R324). -/
def atomicSize (f : Fields) : Nat := if f.mod = 1 then 8 else 4
def operandAt (c : Ictx) (first l : Nat) : BitVec 64 := BitVec.ofNat 64 (natOfBytes (bytesAt c first (atomicSize c.f) l))
def atomAt (c : Ictx) (l : Nat) : AccessOp := .atom c.f.srcc.toNat (c.f.mod == 1) (operandAt c c.f.srcb.toNat l)
def swapAt (c : Ictx) (l : Nat) : AccessOp :=
  .cas (c.f.mod == 1) (operandAt c c.f.srcb.toNat l) (operandAt c c.f.srcc.toNat l)

/-- Accesses of lanes to memory, or to team scratchpad, become outstanding, where every check of R316 lets them. -/
def overMemory (z : Nat) (kind : AccessKind) (xs : Ictx → List (Nat × DWord)) (op : Ictx → Nat → AccessOp) (noL1 : Bool)
    (rets : List Nat) (c : Ictx) (s : State) (stream : Bool := false) : Option State :=
  if c.parts = 0 then some s
  else
    match s.reach c z kind (xs c) (op c) noL1 rets stream with
    | .error _ => none
    | .ok (accs, t) => some (outstanding (some 0) rets c.parts (.access (highestStores accs) []) c t)
def overScratch (z : Nat) (write : Bool) (xs : Ictx → List (Nat × Nat)) (op : Ictx → Nat → AccessOp) (rets : List Nat)
    (c : Ictx) (s : State) : Option State :=
  if c.parts = 0 then some s
  else
    match s.reachScratch c z write (xs c) (op c) rets with
    | .error _ => none
    | .ok accs => some (outstanding (some 0) rets c.parts (.access (highestStores accs) []) c s)

/-- The offsets of LDP: no address wraps below zero (log 28). -/
def blockOffsets (c : Ictx) (off : BitVec 8) (z : Nat) : List (Nat × Nat) :=
  (lanesOf c.parts).map fun l => (l, (BitVec.ofInt 64 ((c.a l).toNat + off.toInt * z)).toNat)

/-- A group's access of a line: it is outstanding, with no register pending. -/
def overLine (z : Nat) (kind : AccessKind) (op : AccessOp) (shift : Nat) (c : Ictx) (s : State) : Option State :=
  match s.reach c z kind (leadAddress c) (fun _ => op) true [] with
  | .error _ => none
  | .ok (accs, t) => some (outstanding (some 0) [] 0 (.access (accs.map fun a => a.shift shift) []) c t)

/-- The lines of a CCTL. -/
def cacheLines (c : Ictx) : List (Nat × DWord) :=
  (List.range (c.f.srcc.toNat % 16 + 1)).map fun k => (c.lead, c.a64 c.lead + BitVec.ofNat 64 (128 * k))

/-- A CCTL of translated lines becomes outstanding (R334). -/
def overCache (kind : List Nat → List DWord → OpKind) (c : Ictx) (s : State) : Option State :=
  if (c.a64 c.lead).toNat % 128 ≠ 0 then none
  else
    match s.translateLanes c .any (cacheLines c) with
    | .error _ => none
    | .ok (rs, t) => some (outstanding (some 0) [] 0 (kind (rs.map Reached.pa) (rs.map Reached.va)) c t)

/-- A MARM counts in `oc.mem` until it completes (R312). -/
def finished (c : Ictx) (s : State) : State := outstanding (some 0) [] 0 (.result [] []) c s

/-- MARM.arm: the word is read past the L1, at once, and the monitor fires where it differs already (R332). -/
def armed (wide : Bool) (c : Ictx) (s : State) : Option State :=
  let z := if wide then 8 else 4
  let x := if wide then c.g.reg64 c.f.srcb.toNat c.lead else (c.g.reg c.f.srcb.toNat c.lead).setWidth 64
  if c.ownAccess z (leadAddress c) s then none
  else
    match s.reach c z .read (leadAddress c) (fun _ => .load z false) true [] with
    | .error _ => none
    | .ok (accs, t) =>
      (readsAtOnce c.g accs t).map fun r =>
        let fired := (r.1.headD (0, 0)).2 != x.toNat
        let m : Monitor := ⟨true, fired, wide, c.f.srcc.toNat / 4 % 4, c.a64 c.lead, x⟩
        finished c ((r.2.modGroup c.g.id fun g => { g with monitors := g.monitors.set (c.f.srcc.toNat % 4) m }).writeResults
          c (c.each fun _ => if fired then 1 else 0))

/-- A byte of memory, as its newest copy holds it. -/
def newest (s : State) (pa : Nat) : List Byte := s.peek pa 1

/-- No CU has sent a registration that is not yet accepted (R318, R368). -/
def noneSent (s : State) : Prop := ∀ c, (s.cu c).sentWords = []

/-- The frame-entry table is read only: no copy of a word of it differs from it (R457). -/
def tableRead (s : State) : Prop := ∀ w, s.inTable (4 * w) = true → s.word w = s.homeWord w

/-- Some words are none of the frame-entry table's. -/
def offTable (s : State) (ws : List Nat) : Prop := ∀ w ∈ ws, s.inTable (4 * w) = false

/-- The access of a lane is made: the bytes that stood at its place, and the state after. -/
def madeBy (s : State) (g : Group) (id : Nat) (a : Access) : List Byte × State :=
  let x := s.performAt g a false
  match a.place with
  | .mem pa =>
    (x.1, x.2.accessDone (s.asidOf g) (some (g.id, id)) (s.portsOf g.cu a pa false) (s.requests g.cu a pa false))
  | _ => x

/-- Nothing keeps an access from being made: it is in its turn (R78), reaches its peer (R19), is neither held nor caught by
the registry nor behind a write that is (R401, R402), waits for no token, room or port (R301, R310, R370), and, where it is a
release of the CU's earlier writes, they are acknowledged (R328). -/
def mayBeMade (s : State) (g : Group) (id : Nat) (a : Access) : Prop :=
  s.inTurn g id a = true ∧ ∀ pa, a.place = .mem pa →
    s.isHeld g.id id a.lane pa = false ∧ s.peerGone pa = false ∧ s.caught pa a.op = false
    ∧ s.behindHeld pa a.op.size = false ∧ s.accessWaits g.cu (s.asidOf g) (some (g.id, id)) a pa false = false
    ∧ ∀ add v sig, a.op = .rel add v (some sig) → (s.cu g.cu).sentWords = []

/-- The record of a misaligned access of `z` bytes (R316, R137): the lanes whose address is no multiple of `z`, and the
least of those addresses. -/
def misaligned (z : Nat) (xs : List (Nat × DWord)) (c : Ictx) : FaultRecord :=
  let bad := xs.filter fun x => x.2.toNat % z != 0
  ⟨0x21, maskOf fun l => bad.any fun x => x.1 == l, BitVec.ofNat 32 z, c.addr,
    BitVec.ofNat 64 ((bad.map fun x => x.2.toNat).foldl min (2 ^ 64 - 1))⟩

/-! ### The matrix row -/

/-- The real number of a finite operand. -/
noncomputable def realNum : Machine.Num → Option ℝ
  | .fin s n e => some ((if s then -1 else 1) * n * (2 : ℝ) ^ e)
  | _ => none

/-- All of a list's values, where all are finite. -/
noncomputable def realNums (xs : List Machine.Num) : Option (List ℝ) := xs.mapM realNum

/-- The record of lanes that a join does not declare (R269). -/
def stray (c : Ictx) : Mask := c.lanes &&& ~~~(c.g.join (c.f.dst.toNat % 16)).declared

/-- The group in which the issuing lanes have signed the join of a multiply and are held at it (R42). -/
def heldAtMultiply (i : Instr) (c : Ictx) (g : Group) : Group :=
  { g with
    lanes := (List.range 32).map fun l => if c.lanes.has l then { c.g.lane l with park := .mma (c.f.dst.toNat % 16) i } else g.lane l }.setJoin
      (c.f.dst.toNat % 16) ⟨(g.join (c.f.dst.toNat % 16)).declared, (g.join (c.f.dst.toNat % 16)).signed ||| c.lanes⟩

/-- A multiply outside handler mode, reached by lanes that its join declares: they sign and are held, and joins that are
complete are settled, which issues the multiply to the engine (R42, R269). -/
def multiplied (i : Instr) (c : Ictx) (s : State) : Option State :=
  if c.g.handler ∨ stray c ≠ 0 then none
  else
    settledState ((s.modGroup c.g.id (heldAtMultiply i c)).settled c.g.id c.lanes)

/-- An engine issue (R263, R267): outstanding in `oc.mat` with its registers pending in every lane, and last in the
engine's queue. -/
def atEngine (c : Ictx) (dsts : List Nat) (regs : List RegWrite) (image : List Access) (s : State) : Option State :=
  match s.group? c.g.id with
  | none => none
  | some g =>
    let o : Op :=
      { id := s.nextId, pc := c.addr, cls := some 2, slot := c.f.sbset.toNat, look := c.f.look.toNat, since0 := 0
        since1 := 0, lanes := 0xFFFFFFFF, dsts := dsts, pend := if dsts = [] then 0 else 0xFFFFFFFF
        kind := .matrix regs image false, weight := 1, late := [], shadow := [], fixed := [], done := false }
    let s := s.modGroup c.g.id fun _ => { g with ops := g.ops ++ [o] }
    some { s.modCu g.cu (fun k => { k with matrixQueue := k.matrixQueue ++ [(c.g.id, o.id)] }) with nextId := s.nextId + 1 }

/-- The code of element `i` of a row of an A fragment (R252), and whether it is a zero (R272). -/
def codeAt (g : Group) (element first row i : Nat) : Nat :=
  let p := packs element
  (g.reg (first + i / p) row).toNat / 2 ^ (32 / p * (i % p)) % 2 ^ (32 / p)
def isZero (element code : Nat) : Bool :=
  if element = 8 ∨ element = 11 then code == 0 else code % 2 ^ (32 / packs element - 1) == 0

/-- MBMAP's bitmap: a bit for each block of eight rows by eight elements, set where the block holds no zero alone (R272). -/
def blockMap (g : Group) (element first : Nat) : DWord :=
  let n := 2 * packs element
  BitVec.ofNat 64 (((List.range (4 * n)).filter fun b => (List.range 8).any fun m => (List.range 8).any fun e =>
    !isZero element (codeAt g element first (8 * (b / n) + m) (8 * (b % n) + e))).map (2 ^ ·)).sum

/-- A value in a register of every lane. -/
def everywhere (r : Nat) (x : Word) : List RegWrite := (List.range 32).map fun l => ⟨r, l, x⟩

/-- The state in which an engine issue has read a block of `n` registers in every lane: a result that a window still owes one of
them, and that a later write has replaced, does not land (R74). -/
def blockRead (first n : Nat) (c : Ictx) (s : State) : State :=
  s.modGroup c.g.id fun g => { g with
    ops := readAgain ((List.range n).flatMap fun r => (List.range 32).map fun l => regKey (first + r) l) g.ops }

/-- The place of a fragment image of `n` bytes at an aligned offset (R275). -/
def imageAt (c : Ictx) (n : Nat) (s : State) : Option (Nat × Nat × Nat) :=
  let off := (c.g.reg c.f.srca.toNat c.lead).toNat
  if off % 128 ≠ 0 then none
  else
    match (s.team? c.g.team).bind fun t => t.place? off n with
    | some (.scratch t i o) => some (t, i, o)
    | _ => none

/-! ### The affine row -/

/-- The parts of a form as real numbers: its centre, its residue, and the linear part under an assignment of values to
symbols (R216). -/
noncomputable def centreOf (x : Form) : ℝ := (realOf f64 x.centre.toNat).getD 0
noncomputable def residueOf (x : Form) : ℝ := (realOf f32 x.residue.toNat).getD 0
noncomputable def linearOf (x : Form) (e : Nat → ℝ) : ℝ :=
  (x.terms.map fun t => ((realOf f32 t.coef.toNat).getD 0) * e t.id.toNat).sum

/-- An ordinary form (R215): finite parts, a residue that is not negative, terms of distinct ids. -/
def ordinary (x : Form) : Prop :=
  x.void = false ∧ x.isUnbounded = false ∧ f64.finite x.centre.toNat = true ∧ x.residue.toNat < 0x7F800000
  ∧ (x.terms.map Term.id).Nodup ∧ ∀ t ∈ x.terms, f32.finite t.coef.toNat = true

/-- A form encloses a value under an assignment; the unbounded form encloses every value (R216, R220). -/
def encloses (x : Form) (e : Nat → ℝ) (v : ℝ) : Prop :=
  x.void = false ∧ (x.isUnbounded = true ∨ |v - (centreOf x + linearOf x e)| ≤ residueOf x)

/-- Affine results of fixed latency. -/
def writesForm (v : Ictx → Nat → Form) (c : Ictx) (s : State) : Option State :=
  some (s.modGroup c.g.id fun g => g.writeForms (c.eachForm (v c)))

/-- Affine results that mint a symbol in each participant and land later (R223, R231, R242). -/
def mintsForm (v : Ictx → Nat → Nat → Form) (c : Ictx) (s : State) : Option State :=
  match s.mint c with
  | .error _ => none
  | .ok (id, t) =>
    some (outstanding none [256 + c.f.dst.toNat] c.parts (.result [] (c.eachForm fun l => v c l (id l))) c t)

/-- The records of the participants. -/
def records (c : Ictx) : List (Nat × DWord) := (lanesOf c.parts).map fun l => (l, c.a64 l)

/-- The Deck after an ADECK (R246): next hand and allowance. -/
def deckNext (mod b h a : Nat) : Nat × Nat :=
  if mod = 1 then (h, min (a + b) (2 ^ 18 - h))
  else if mod = 2 ∧ 1 ≤ b ∧ b ≤ 2 ^ 18 then (b, min a (2 ^ 18 - b))
  else (h, a)

/-- ADECK is outstanding with its effect on the Deck still to come. -/
def deckRead (c : Ictx) (s : State) : Option State :=
  some (outstanding none ((List.range 4).map (c.f.dst.toNat + ·)) c.parts
    (.deck c.f.mod.toNat (c.g.reg c.f.srcb.toNat c.lead).toNat c.f.dst.toNat) c s)

/-- What ADECK gives each participant: next hand and allowance after it, and the group's next id and what its hand holds. -/
def deckValues (d : Nat × Nat) (g : Group) (parts : Mask) (dst : Nat) : List RegWrite :=
  (lanesOf parts).flatMap fun l => [d.1, d.2, g.handNext, g.handLeft].zipIdx.map fun v =>
    ⟨dst + v.2, l, BitVec.ofNat 32 v.1⟩

/-! ### The copy row -/

/-- The first five checks of R286 pass but for the bounds: the target, the counter's line, and the record. -/
abbrev admits (c : Ictx) (s : State) (ctx : Context) (gather reads writes : Bool) (formats : Nat → Bool) : Prop :=
  s.targetCheck c = none ∧ counterCheck c = none ∧ recordCheck c ctx c.copyBlock.rec1 gather reads writes formats = none

/-- The tensor that a copy block names first. -/
def tensorAt (ctx : Context) (c : Ictx) : Tensor := tensorOf (ctx.object c.copyBlock.rec1)

/-- Runs cut at page bounds, between elements where they can be. -/
def paged (t : Tensor) (rs : List Run) : List Run := rs.flatMap fun r => cutRun t.grain r (r.size + 1)

/-- A copy becomes outstanding in `oc.copy`, a collective in `oc.coll`; no register is pending. -/
def copying (kind : OpKind) (c : Ictx) (s : State) : State := outstanding (some 1) [] 0 kind c s

/-- A tile copy between memory and an image in scratchpad (R293, R294): from the rows of the tile, each cut at page bounds
and for CPYR at elements, come its moves. Of tiles of CPYS whose rows share bytes, whose
order the spec leaves open (R294), nothing is said. -/
def tileCopied (reads writes toMem : Bool) (op : Tensor → MoveOp) (formats : Nat → Bool) (kind : AccessKind) (c : Ictx)
    (s : State) : Option State :=
  match s.contextOf? c.g with
  | none => none
  | some ctx =>
    let b := c.copyBlock
    let t := tensorAt ctx c
    let rows := t.runs b.origin t.b
    let sums := match op t with
      | .add _ => true
      | _ => false
    if admits c s ctx false reads writes formats ∧ boundsCheck c b.rec1 t b.origin = none
        ∧ s.imageCheck c b.spad (t.row * t.rows false) (!toMem) = none ∧ (toMem = true → sums = false → overlapping rows = false) then
      match s.runCheck c ((paged t (if sums then rows.flatMap (Machine.elements t.grain) else rows)).map fun r => (r, kind)) with
      | .error _ => none
      | .ok (rs, counter, u) =>
        let moves := u.movesOf c b.spad toMem rs
        some (copying (.copy moves (op t) [] (c.target counter)) c { u with draws := u.draws + moves.length })
    else none

/-- CPYG (R293): the piece of each participant, at its lane's place in the image. -/
def gathered (c : Ictx) (s : State) : Option State :=
  match s.contextOf? c.g with
  | none => none
  | some ctx =>
    let b := c.copyBlock
    let t := tensorAt ctx c
    let piece := t.row * t.b 2 * t.b 3 * t.b 4
    if admits c s ctx true true false (fun _ => true) ∧ gatherCheck c b.rec1 t b.origin = none
        ∧ s.imageCheck c b.spad (32 * piece) true = none then
      match s.runCheck c ((paged t ((lanesOf c.parts).flatMap fun l =>
          (t.runs (c.pieceOrigin b.origin l) t.pieceBox).map fun r => { r with off := r.off + l * piece })).map fun r => (r, .read)) with
      | .error _ => none
      | .ok (rs, counter, u) => some (copying (.copy (u.movesOf c b.spad false rs) (.copy t.grain) [] (c.target counter)) c u)
    else none

/-- CPYP (R295): runs whose page does not translate are passed over. -/
def prefetched (c : Ictx) (s : State) : Option State :=
  match s.contextOf? c.g with
  | none => none
  | some ctx =>
    let b := c.copyBlock
    let t := tensorAt ctx c
    if admits c s ctx false true false (fun _ => true) ∧ boundsCheck c b.rec1 t b.origin = none then
      let got := (paged t (t.runs b.origin t.b)).foldl (fun (acc : List (Run × Tlb) × State) r =>
        match acc.2.translate c.g.cu .ahead ctx (BitVec.ofNat 64 r.va) .read with
        | (.ok x, u) => (acc.1 ++ [(r, x)], u)
        | (.error _, u) => (acc.1, u)) ([], s)
      match got.2.runCheck c [] with
      | .error _ => none
      | .ok (_, counter, u) =>
        some (copying (.copy (got.1.zipIdx.map fun r =>
          ⟨r.2, .mem (r.1.2.pa' r.1.1.va), .mem (r.1.2.pa' r.1.1.va), r.1.1.size, r.1.2.attr == 2, false,
            ctx.counterOf r.1.2 r.1.1.va, none⟩) .fetch [] (c.target counter)) c u)
    else none

/-- A COLL whose checks pass (R296): it has still to read its source, and then to send what goes to other pods. -/
def collected (c : Ictx) (s : State) : Option State :=
  match s.contextOf? c.g, s.launchOf? c.g with
  | some ctx, some l =>
    let op := c.f.srcc.toNat
    let b := c.copyBlock
    let x := tensorOf (ctx.object b.rec1)
    let y := tensorOf (ctx.object b.rec2)
    let sums := op == 0 || op == 2
    if s.targetCheck c = none ∧ counterCheck c = none
        ∧ (op ≠ 4 → recordCheck c ctx b.rec1 false true false (fun k => !sums || sumFormat k) = none
            ∧ boundsCheck c b.rec1 x b.origin = none)
        ∧ (op ≠ 3 → recordCheck c ctx b.rec2 false false true (fun k => op == 4 || k == x.format) = none
            ∧ boundsCheck c b.rec2 y b.origin = none)
        ∧ (op < 3 → shapeCheck op l.ranks x y = none) ∧ (3 ≤ op → b.aux < l.ranks ∧ b.aux ≠ l.rank) then
      let xs := if op = 4 then [] else paged x (x.runs b.origin x.b)
      let ys := if op = 3 then [] else paged y (y.runs b.origin y.b)
      match s.runCheck c ((xs.map fun r => (r, .read)) ++ ys.map fun r => (r, .write)) with
      | .error _ => none
      | .ok (rs, counter, u) =>
        let src := (rs.take xs.length).zipIdx.map fun r =>
          (⟨r.2, .mem (r.1.2.pa' r.1.1.va), .param r.1.1.off, r.1.1.size, r.1.2.attr == 2, false,
            ctx.counterOf r.1.2 r.1.1.va, none⟩ : Move)
        let dst := (rs.drop xs.length).zipIdx.map fun r =>
          (⟨r.1.1.off, .param r.1.1.off, .mem (r.1.2.pa' r.1.1.va), r.1.1.size, false, r.1.2.attr == 2, none,
            ctx.counterOf r.1.2 r.1.1.va⟩ : Move)
        some (outstanding (some 3) [] 0 (.coll
          { kind := op, collId := b.spad, element := x.format, ranks := l.ranks, rank := l.rank, peer := b.aux
            sent := List.replicate (if op = 4 then 0 else x.row * x.rows false) 0, bad := [], src := src
            size := if op = 3 then 0 else y.row * y.rows false, dst := dst, pods := u.podsOf ctx l op b.aux
            image := none, lines := [] }
          (c.target counter)) c u)
    else none
  | _, _ => none

/-! ### The registry -/

/-- ASMK (R399): the descriptor is read past the L1, and the row that applies gives status, handle and state; none where the
read, or a recall that precedes the watch, has to wait (R369, R400). -/
def assumed (c : Ictx) (s : State) : Option State :=
  match s.contextOf? c.g with
  | none => none
  | some ctx =>
    match s.reach c 256 .read (leadAddress c) (fun _ => .load 256 false) true [] with
    | .ok (accs, t) =>
      (readsAtOnce c.g accs t).bind fun r =>
        let kind := c.f.mod.toNat % 4
        let x := (r.1.map Prod.snd).foldr (fun v n => v + 2 ^ 64 * n) 0
        if r.2.watchWaits ctx kind x ≠ [] then none
        else
          let m := r.2.makeAssumption ctx kind x
          let d := c.f.dst.toNat
          some (outstanding none [d, d + 1, d + 2, d + 3] c.parts
            (.result ((lanesOf c.parts).flatMap fun l =>
              [⟨d, l, m.2.1.extractLsb' 0 32⟩, ⟨d + 1, l, m.2.1.extractLsb' 32 32⟩, ⟨d + 2, l, BitVec.ofNat 32 m.1⟩, ⟨d + 3, l, 0⟩]) [])
            c m.2.2)
    | .error _ => none

/-- ASDROP (R403): ignored, dropped at once with every other ASDROP that awaits the slot, or a break with reason DROP for whose revocation it waits. -/
def droppedBy (c : Ictx) (s : State) : Option State :=
  let h := c.a64 c.lead
  let k := handleSlot h
  if s.currentHandle (s.asidOf c.g) h = false then some s
  else if (s.slot k).state = .broken then
    some ((s.modSlot k fun x => { x with state := .free, watches := [], entries := 0, dropping := false }).finishDrops k)
  else some (outstanding none [] 0 (.drop k) c ((s.breakSlot k 5).modSlot k fun x => { x with dropping := true }))

/-- The word of ASQRY (R404): REASON, KIND, STATE and SLOT. -/
def queried (s : State) (asid : Nat) (h : DWord) : Word :=
  let k := handleSlot h
  let x := s.slot k
  let word := fun reason kind state : Nat => BitVec.ofNat 32 (reason * 2 ^ 20 + kind * 2 ^ 18 + state * 2 ^ 12 + k)
  if s.names asid h then
    match x.state with
    | .live => word 0 x.kind 0
    | .broken => word x.reason x.kind 1
    | .free => word x.reason x.kind 2
  else word 0 (h.toNat / 2 ^ 12 % 4) 2

/-- RENTER where a region holds its address, every live lane issues, and the group has the cause register (R407): the group
is resident, or, with no register pending (R75), every lane has the cause word of WHEN 2 and goes to the region's handler. -/
def regionEntered (c : Ictx) (s : State) : Option State :=
  match s.regionAt c.g c.addr with
  | none => none
  | some (k, r) =>
    if c.g.live &&& ~~~c.all ≠ 0 ∨ c.g.nregs ≤ r.cause then none
    else
      match s.notLive c.g r with
      | none => some (s.modGroup c.g.id fun g => { g with region := some k })
      | some w =>
        if c.g.noPending = false then none
        else some ((s.writeNoted c ((lanesOf c.g.live).map fun l => ⟨r.cause, l, w⟩)).modGroup c.g.id fun g =>
            { g.modLanes g.live fun l => { l with pos := ⟨r.handler, 0, 0, .entry⟩ } with region := none })

/-- RLEAVE (R408). -/
def regionLeft (c : Ictx) (s : State) : Option State :=
  match s.regionAt c.g c.addr with
  | none => some s
  | some _ => if c.g.live &&& ~~~c.all ≠ 0 then none else some (s.modGroup c.g.id fun g => { g with region := none })

/-- A group that its redirect has moved (R25, R409, R411): every lane that has not exited stands at the handler; waits,
parks, joins and the residency are over; once nothing of the group is outstanding, the cause register has the cause word. -/
def redirected (r : Redirect) (g h : Group) : Prop :=
  h.region = none ∧ h.wait0 = .none ∧ h.wait1 = .none ∧ h.parked = none ∧ h.trapWait = none ∧ h.ops = g.ops
  ∧ (∀ j, j < 16 → h.join j = ⟨0, 0⟩)
  ∧ (∀ l, l < 32 → h.lane l =
      if (g.lane l).exited then g.lane l
      else { g.lane l with pos := ⟨r.handler, 0, 0, .entry⟩, park := .running, entered := false })
  ∧ (g.ops ≠ [] → h.redirect = some { r with moved := true } ∧ h.regs = g.regs)
  ∧ (g.ops = [] → h.redirect = none ∧ ∀ k l, k ≠ 255 → l < 32 →
      h.reg k l = if k = r.reg ∧ (g.lane l).exited = false then r.cause else g.reg k l)

/-! ### Spawns, launches and checkpoints -/

/-- SPAWN (R45): a record for each participant, its entry and four arguments; every issuing lane awaits a status. -/
def spawned (c : Ictx) (s : State) : Option State :=
  some (outstanding none [c.f.dst.toNat] c.lanes (.spawn ((lanesOf c.parts).map fun l =>
    ⟨l, c.a64 l, [0, 1, 2, 3].map fun k => c.g.reg (c.f.srcb.toNat + k) l⟩) c.f.dst.toNat) c s)

/-- LAUNCH with an aligned record and line (R428): what its CU has sent is accepted, and the entry goes to queue 7 at TAIL; a
full queue takes none. It waits for the tokens of the one and of the other. -/
def launchedBy (c : Ictx) (s : State) : Option State :=
  let record := c.a64 c.lead
  let line := c.b64 c.lead
  let graph := c.f.mod = 1
  let answer (x : Word) (u : State) := outstanding none [c.f.dst.toNat] c.parts (.result (c.each fun _ => x) []) c u
  if record.toNat % (if graph then 64 else 256) ≠ 0 ∨ line.toNat % 128 ≠ 0 then none
  else
    match s.contextOf? c.g with
    | none => none
    | some ctx =>
      (s.settleSent c.g.cu).bind fun s =>
      match s.queue? ctx 7 with
      | none => some (answer 0xFFFFFFFF (s.countError eDoorbell))
      | some q =>
        if 2 ^ q.log2 ≤ q.count then some (answer 0xFFFFFFFF s)
        else if s.writesFree ctx (q.writes ctx 7 q.tail) = false then none
        else
          some (answer (BitVec.ofNat 32 q.tail) ((s.writeVa ctx (q.entry q.tail)
            (bytesOfNat 32 (record.toNat + (if graph then 2 ^ 64 else 0) + 2 ^ 128 * line.toNat))).setTail ctx 7
              ((q.tail + 1) % 2 ^ 16)))

/-- CKPT outside handler mode (R444): 1 where no backing can be reserved, and else 0, with a checkpoint to take before the
group issues again. What is reserved is the model's choice (log 29). -/
def checkpointed (c : Ictx) (s : State) : Option State :=
  if c.g.handler then none
  else if c.parts = 0 then some s
  else
    match s.contextOf? c.g with
    | none => none
    | some ctx =>
      match s.reserveCkpt ctx with
      | none => some (s.writeResults c (c.each fun _ => 1))
      | some u =>
        some (((u.modContext ctx.asid fun x => { x with ckptWanted := true }).writeResults c (c.each fun _ => 0)).modGroup
          c.g.id fun g => { g with ckpt := some (c.f.dst.toNat, c.parts ||| ((g.ckpt.map Prod.snd).getD 0)) })

/-- The statuses of records that arrive one after another at a die (R46), and the state that they leave. -/
def arrivals (die : Nat) (ctx : Context) (l : Launch) : List ThreadRecord → State → List (Nat × Nat) × State
  | [], s => ([], s)
  | r :: rs, s =>
    let y := s.takeRecord die ctx l r
    let z := arrivals die ctx l rs y.2
    ((r.lane, y.1) :: z.1, z.2)

/-- The pending group that a bin's closing appends (R47). -/
def closedBin (s : State) (b : Bin) (rs : List ThreadRecord) (bins : List Bin) : State :=
  { s with
    bins := bins
    pending := s.pending ++ [⟨s.nextId, b.die, b.asid, b.launch, b.entry, b.word, rs, s.now⟩]
    nextId := s.nextId + 1 }

/-! ### Fetch and translation -/

/-- The classes that a role admits (R87); handler mode admits every class (R140). -/
def admitsClass (g : Group) (engine : Nat) : Prop :=
  g.handler = true ∨ engine ∈ [[0, 1, 2, 3, 4, 5, 6], [0, 5, 4], [0, 5, 3], [0, 5, 1, 2]].getD g.role []

/-- The waits of a header have ended (R61). -/
def headerPasses (g : Group) (half : Nat) (h : Header) : Prop :=
  (∀ k, k < 7 → h.sbmask.getLsbD k = true → (∀ o ∈ g.ops, o.slot = k + 1 → o.done = true)
      ∧ ¬(g.fwd = true ∧ g.waitSlot (1 - half) = k + 1))
  ∧ (h.cwen = 1 → g.counter h.cclass.toNat ≤ h.cthresh.toNat)

/-- A line that IPREF treats (R147): dropped, or requested for no group. -/
def askedAhead (g : Group) (line : Nat) (s : State) : State :=
  let va : DWord := BitVec.ofNat 64 (128 * line)
  let flying := (s.cu g.cu).fetching
  match s.contextOf? g with
  | none => s
  | some ctx =>
    if (∃ x ∈ flying, x.asid = ctx.asid ∧ x.va = line) ∨ canonical va = false ∨ 2 ^ 57 ≤ 128 * line
        ∨ ∃ q ∈ s.pageReqs, q.asid = ctx.asid ∧ q.va = 128 * line / 4096 * 4096 then s
    else
      match s.translate g.cu .code ctx va .fetch with
      | (.error _, _) => s
      | (.ok t, u) =>
        let pa := t.pa' (128 * line)
        if ((s.cu g.cu).codeLine ctx.asid line (pa / 4096)).isSome = true then u
        else if 32 ≤ (flying.filter Fetching.prefetched).length then s
        else u.modCu g.cu fun k => { k with fetching := k.fetching ++ [⟨ctx.asid, line, pa, ctx.counterOf t (128 * line), true⟩] }

/-- The record on which a group is parked, where its page is a request's and the request serves it (R151). -/
def parkedFor (q : PageRequest) (g : Group) : Option FaultRecord :=
  g.parked.filter fun r => q.groups.contains g.id && r.addr.toNat / 4096 == q.va / 4096

/-! ### Scheduling -/

/-- A doorbell that is taken (R424): its fields, the context and queue that it names, and who wrote it. -/
def rings (s : State) (c : Context) (q tail : Nat) (h : Queue) : Prop :=
  let x := s.input.value.toNat
  x / 2 ^ 48 = 0 ∧ x / 2 ^ 13 % 2 ^ 19 = 0 ∧ q = x / 2 ^ 10 % 8 ∧ q ≠ 7 ∧ tail = x / 2 ^ 32 % 2 ^ 16
  ∧ s.context? (x % 2 ^ 10) = some c ∧ (s.input.fn = 64 ∨ s.input.fn = c.func) ∧ s.queue? c q = some h
  ∧ (tail + 2 ^ 16 - h.head) % 2 ^ 16 ≤ 2 ^ h.log2

/-- Everything of a launch has ended (R59), and its context has not. -/
def overNow (s : State) (l : Launch) (c : Context) : Prop :=
  s.launch? l.id = some l ∧ s.context? l.asid = some c ∧ c.state ≠ .ending ∧ l.complete = false ∧ l.started = true
  ∧ l.placed = l.share ∧ l.retired = l.share ∧ (∀ t ∈ s.teams, t.launch ≠ l.id) ∧ (∀ b ∈ s.bins, b.launch ≠ l.id)
  ∧ ∀ p ∈ s.pending, p.launch ≠ l.id

/-- The order in which waiting work is offered (R429). -/
def noLater (w v : Work) : Prop :=
  v.sclass < w.sclass ∨ (w.sclass = v.sclass ∧ (v.prio < w.prio ∨ (w.prio = v.prio ∧ w.start ≤ v.start)))

/-! ### Coherence -/

/-- A step that moves copies alone: the caches still agree and every byte's newest value stays. -/
def movesCopies (s t : State) : Prop := Coherent t ∧ ∀ pa, newest t pa = newest s pa

/-- A line that no entry of its trump table serves. -/
def unserved (s : State) (line : Nat) : Prop := ∀ t ∈ s.trumps, t.line = line → t.active = false

/-- How many tokens a requester has. -/
def has' (s : State) (line : Nat) (who : Holder) : Nat := (s.line line).tokens who

/-- The waiting requests of a port. -/
def waitingAt (s : State) (port : Nat) : List PortRequest := s.ports.filter fun r => r.port == port

/-! ### Mailbox commands -/

/-- The commands with their codes, whether a virtual function's mailbox is refused, and what each comes to (R154, R375,
R387, R421, R441, R451). -/
def commands : List (Instr × Nat × Bool × (Nat → List Nat → State → Answer)) :=
  [(.imgInsert, 0x40, true, imgInsert), (.imgLookup, 0x41, false, imgLookup), (.imgRelease, 0x42, false, imgRelease),
    (.imgQuery, 0x43, true, imgQuery), (.biasHost, 0x48, true, biasCommand true), (.biasDevice, 0x49, true, biasCommand false),
    (.tlbInvVa, 0x50, false, tlbInvVa), (.tlbInvAsid, 0x51, false, tlbInvAsid), (.tlbInvFunc, 0x52, false, tlbInvFunc),
    (.tlbInvS2, 0x53, true, tlbInvS2), (.ctxCreate, 0x58, false, ctxCreate), (.ctxDelete, 0x59, false, ctxDelete),
    (.freeze, 0x60, true, freezeCommand), (.thaw, 0x61, true, thawCommand), (.partSet, 0x68, true, partSet),
    (.vfBind, 0x69, true, vfBind), (.ctxBw, 0x6A, true, ctxBw), (.vfReset, 0x6B, true, vfReset),
    (.clusterLend, 0x6C, true, clusterLend), (.clusterReclaim, 0x6D, true, clusterReclaim),
    (.frameClaim, 0x70, true, frameClaim), (.frameFree, 0x71, true, frameFree)]

/-- RES0 to RES7 of an answer, DONE and the status in the first, and vector 0 has fired (R463). -/
def answered (fn status : Nat) (values : List Nat) (s : State) : State :=
  let words := BitVec.ofNat 64 (2 ^ 63 + status) :: (List.range 7).map fun k => BitVec.ofNat 64 (values.getD k 0)
  { s with mail := supd Mailbox.reset s.mail fn (fun m => { m with res := words }), msix := supd 0 s.msix fn (· + 1) }

/-- The mailbox of the function that writes is idle, or its command runs on (R463). -/
def idle (s : State) : Prop := ((s.mailbox s.input.fn).res.getD 0 0).getLsbD 63 = true

/-- MB_CMD takes the code, and DONE falls. -/
def commanded (code : Nat) (s : State) : State :=
  s.modMailbox s.input.fn fun m => { m with cmd := code, res := 0 :: m.res.drop 1 }

/-- The answer that a command comes to: its status, its values and the state it leaves. -/
def comesTo (a : Answer) (status : Nat) (values : List Nat) (p : State → Prop) : Prop :=
  ∃ t, a = .done status values t ∧ p t

/-- A number of a range of frames. -/
def frameIn (pa n f : Nat) : Prop := pa / 4096 ≤ f ∧ f < pa / 4096 + n

/-! ### The host, power and links -/

/-- A context that a fault ended (R143, R448), where it was not ending already. -/
def ends (t : State) (asid : Nat) (r : FaultRecord) : Prop := ∃ c, t.context? asid = some c ∧ c.state = .ending ∧ c.ended = some r

/-- The registers of the management block that take a write (R20, R432, R449, R461, R468, R469, R471), by offset: what the
write leaves; none where it is ignored and counted, and `r` itself where it is ignored. -/
def written (s : State) (offset v : Nat) : Option Regs :=
  let r := s.regs
  let once (set : Bool) (x : Regs) : Option Regs := some (if set ∨ r.ctxEver then r else x)
  match offset with
  | 0x0018 => once r.ilvSet { r with ilvSet := true, coarse := v % 2 = 1 }
  | 0x0020 => if 2 ^ 24 ≤ v then none else once r.podSet { r with podSet := true, podId := BitVec.ofNat 24 v }
  | 0x0028 => once r.biasSet { r with biasSet := true, biasBase := BitVec.ofNat 64 (4096 * (v / 4096)) }
  | 0x0038 => once r.netSet { r with netSet := true, netBase := BitVec.ofNat 64 (4096 * (v / 4096)) }
  | 0x0040 => some (if 12 ≤ v % 32 ∧ v % 32 ≤ 24 then { r with log2n := v % 32 } else r)
  | 0x0048 => some (if v % 2 ^ 17 ≤ 100000 then { r with hangMs := v % 2 ^ 17 } else r)
  | 0x0058 => if 2 ^ 12 ≤ v then none else some (if 1000 ≤ v ∧ v ≤ 3000 then { r with limitW := v } else r)
  | n =>
    if n ∈ [0x0000, 0x0010, 0x0030, 0x0050, 0x0060, 0x0068, 0x0070] ∨ (0x0200 ≤ n ∧ n < 0x0300) ∨ (0x0300 ≤ n ∧ n < 0x0390) then
      some r
    else none

/-- The number at `k` of what the outside presents. -/
def given (s : State) (k d : Nat) : Nat := s.input.nums.getD k d

end Sys2Proof.Claims

section

open Sys2Proof Sys2Proof.Machine Sys2Proof.Safety Sys2Proof.Claims

/-! ### Encodings -/

/-- R60, R66 and R83: decoding the word of a well-formed instruction gives the instruction back, with every operand field
at every value that its kind admits. -/
def Obligations.DecodeEncode : Prop :=
  ∀ (i : Instr) (w : DWord), WellFormed i → encode i = some w → decodeWord w = .ok i

/-- R60 and R66: what the decoder reads from a word is well-formed, and its word is the one that was read; so no two
instructions share a word. -/
def Sys2Proof.Claims.EncodeDecode : Prop :=
  ∀ (i : Instr) (w : DWord), decodeWord w = .ok i → WellFormed i ∧ encode i = some w

/-- Words written out from the spec's encodings (R60, R66, R69, R127, R131) decode to the instructions they stand for. -/
def Obligations.DecodingIsRight : Prop :=
  decodeWord 0x3800_0800_48D1_5BF0 = .ok (.movi ⟨0, 0, 4, 0, 0x24, 0x68, 5, 6, 63, 0, 0⟩)
  ∧ decodeWord 0x3900_0800_0001_E3F0 = .ok (.movhi ⟨0, 0, 4, 0, 0, 0, 7, 8, 63, 0, 0⟩)
  ∧ decodeWord 0x0100_0001_FFFF_E074 = .ok (.bra ⟨0, 0, 0, 0, 0xFF, 0xFF, 7, 8, 7, 0, 4⟩)
  ∧ decodeWord 0x0A00_0600_0000_03F0 = .ok (.jwait ⟨0, 0, 3, 0, 0, 0, 0, 0, 63, 0, 0⟩)

/-- R60 and R88: a header word whose MBZ fields or ENGINE R60 forbids, and a word of fewer than eight bytes, decode
to no instruction; an opcode that the map leaves unassigned decodes to its own row, which traps. Fewer than eight
bytes is the decoder's own refusal. -/
def Sys2Proof.Claims.ReservedWords : Prop :=
  (∀ w : DWord, w.extractLsb' 56 8 = 0xCA → (w.extractLsb' 48 8 ≠ 0 ∨ w.extractLsb' 20 12 ≠ 0 ∨ w.extractLsb' 4 12 ≠ 0
      ∨ w.extractLsb' 16 3 = 7) → decodeWord w = .error .illegalHeader)
  ∧ (∀ w : DWord, w.extractLsb' 56 8 = 0xCB → decodeWord w = .error .illegalHeader)
  ∧ (∀ w : DWord, unassigned (w.extractLsb' 56 8) = true →
      decodeWord w = .ok (.unassignedOpcode (w.extractLsb' 56 8) (Fields.ofWord w)))
  ∧ ∀ bs : List Byte, bs.length < 8 → decode bs = .error .truncated

/-- R60, R66 and R88: words and instructions answer to each other, and what no encoding gives is refused or traps. -/
def Obligations.DecodingIsExact : Prop := Claims.EncodeDecode ∧ Claims.ReservedWords

/-! ### Steps -/

/-- A step in which nothing prompt is due and nothing comes from outside runs the instruction that the chosen issue's word
decodes to, after its clause's header where that is reached with it and lets it pass, marks the issue, and then lets one tick
pass (log 1, log 2). -/
def Obligations.StepRunsDecodedInstruction : Prop :=
  ∀ (s u t : State) (c : Candidate) (cur : Cur) (i : Instr),
    s.powered = true → s.prompt = [] → s.outside = (none, u) →
    choose u.nexts (Config.order u.draws) = some (.issue c) → reads cur.word i →
    let mark := fun v : State => Host.Outcome.next (if v.group? c.g.id = t.group? c.g.id then v else v.markIssue c.g cur)
    (c.ready = .issue cur none t → step s = thenTick (andThen (exec i { t with cur := some cur }) mark))
    ∧ ∀ h, c.ready = .issue cur (some h) t →
      step s = thenTick (andThen
        (exec (.clauseHeader h) { t with cur := some { cur with addr := cur.hdr, word := cur.hdrWord } })
        fun v =>
          if (v.group? cur.group).any (fun g => (g.posOf cur.lanes).pc == cur.addr) then
            andThen (exec i { v with cur := some cur }) mark
          else mark v)

/-- R37, R62 and R144: for lanes at one PC, the word that issues is the one that the instruction cache holds there, or, at
a clause's header, the word after the header. Lanes inside a clause issue without those that have come from outside it; behind a
header that `.skip` has passed, the header's word is fetched too. -/
def Sys2Proof.Claims.IssuedWordIsFetched : Prop :=
  ∀ (s t : State) (g : Group) (m : Mask) (cur : Cur) (h : Option Header),
    (∀ l, m.has l = true → (g.lane l).pc = (g.posOf m).pc) → s.plan g m = (.go cur h, t) →
    let inside := fun l => m.has l = true ∧ ((g.lane l).pos.arrival = .inClause ∨ (g.lane l).pos.arrival = .past)
    let here := g.posOf cur.lanes
    cur.group = g.id
    ∧ (h = none → (∀ l, cur.lanes.has l = true ↔ inside l)
        ∧ cur.addr = here.pc ∧ cur.hdr = here.hdr
        ∧ ∃ u v, ((∀ l, m.has l = true → inside l) → u = s)
          ∧ (here.arrival = .past → u.fetch g cur.hdr cur.lanes = (.word cur.hdrWord, v))
          ∧ (here.arrival ≠ .past → v = u ∧ cur.hdrWord = here.word)
          ∧ v.fetch g cur.addr cur.lanes = (.word cur.word, t))
    ∧ (∀ hd, h = some hd → cur.lanes = m ∧ (∀ l, ¬ inside l)
        ∧ cur.hdr = (g.posOf m).pc ∧ cur.addr = cur.hdr + 8 ∧ Header.ofWord? cur.hdrWord = some hd
        ∧ ∃ u, s.fetch g cur.hdr m = (.word cur.hdrWord, u) ∧ u.fetch g cur.addr m = (.word cur.word, t))
    ∧ ∀ (v : State) (va w : DWord) (u : State), v.fetch g va m = (.word w, u) →
      ∃ ctx x l v', v.contextOf? g = some ctx ∧ v.translate g.cu .code ctx va .fetch = (.ok x, v')
        ∧ l ∈ (v'.cu g.cu).lines ∧ l.asid = ctx.asid ∧ l.va = va.toNat / 128 ∧ l.frame = x.pa' va.toNat / 4096
        ∧ w = l.words.getD (x.pa' va.toNat / 8 % 16) 0

/-- R37: outside forerunner mode the lanes that issue are those that neither wait nor have exited and whose PC is the
least of theirs. -/
def Sys2Proof.Claims.IssuingLanes : Prop :=
  ∀ (s : State) (g : Group), g.fwd = false → g.lanes.length = 32 → s.over g 0 = true → g.active ≠ 0 →
    ∃ m, s.fronts g = [m] ∧ m ≠ 0 ∧ ∀ l, l < 32 →
      (m.has l = true ↔ (g.lane l).exited = false ∧ (g.lane l).park = .running
        ∧ ∀ k, k < 32 → (g.lane k).exited = false → (g.lane k).park = .running → (g.lane l).pc.toNat ≤ (g.lane k).pc.toNat)

/-- R37 and R144: which lanes issue, and which word. -/
def Obligations.IssueSelection : Prop := Claims.IssuedWordIsFetched ∧ Claims.IssuingLanes

/-! ### Reset -/

/-- R461, R463, R465, R467: what the registers of the physical function read after reset, and what no function's block
lists; R27 gives DEV_CAP and R462 PART. (DEV_ID's SERIAL, FRAME_BASE, PORT_CFG and T2_CFG are fittings: log 4.) -/
def Sys2Proof.Claims.ResetRegisters : Prop :=
  let r := State.reset.readRegister 64
  r 0x0018 = 0 ∧ r 0x0020 = 0 ∧ r 0x0028 = 0 ∧ r 0x0038 = 0 ∧ r 0x0040 = 16 ∧ r 0x0048 = 10000 ∧ r 0x0050 = 1
  ∧ (∀ p, p < 32 → r (0x0200 + 8 * p) = 0x00FFFFFF)
  ∧ (r 0x0000).extractLsb' 32 16 = 0x0A11 ∧ r 0x0010 = 0x0000000012440103
  ∧ (∀ fn, (State.reset.readRegister fn 0x1048).getLsbD 63 = true ∧ (State.reset.readRegister fn 0x1110).getLsbD 63 = true)
  ∧ (∀ fn k, fn ≠ 64 → ¬(0x1000 ≤ k ∧ k < 0x1200) → State.reset.readRegister fn k = 0)

/-- R467: a reset leaves no context, group, team, launch, assumption or outstanding work, READY set and the clock at zero,
whatever the part was doing; a power-on keeps LAST_CAUSE's account of why it came. -/
def Sys2Proof.Claims.ResetDiscards : Prop :=
  ∀ s : State, s.fitting.portCfg ≠ 15 →
    (s.powered = true → ∃ t, exec .hostReset s = .next t ∧ t.regs.ready = true ∧ t.regs.cause = 1
      ∧ t = { State.resetOf s.fitting with
          mem := t.mem, regs := t.regs, agenda := s.agenda, draws := s.draws }
      ∧ (∀ pa, t.byte pa = if inHost pa ∨ inPeer pa then s.byte pa else 0))
    ∧ ∃ t, exec .powerOnReset s = .next t ∧ t.powered = true ∧ t.regs.ready = true ∧ t.contexts = [] ∧ t.groups = []
      ∧ t.teams = [] ∧ t.launches = [] ∧ t.slots = [] ∧ t.clock = 0 ∧ t.fitting = s.fitting

/-- R461 to R467: what a reset leaves. -/
def Obligations.ResetState : Prop := Claims.ResetRegisters ∧ Claims.ResetDiscards

/-- R365 to R369 and the form of memory: after reset memory is in its canonical form, every line has its 32 tokens, and the
caches agree. -/
def Obligations.ResetSound : Prop := MemoryCanonical State.reset ∧ Coherent State.reset

/-- R369: every step keeps memory in its canonical form and the tokens of every line. -/
def Obligations.StepKeepsSound : Prop :=
  ∀ s t : State, MemoryCanonical s → TokensConserved s → step s = .next t → MemoryCanonical t ∧ TokensConserved t

/-- R365 to R369: every step keeps the caches in agreement. -/
def Obligations.StepKeepsCoherent : Prop := ∀ s t : State, Coherent s → step s = .next t → Coherent t

/-! ### Checks and faults -/

/-- R88: the checks 4 to 11 at an instruction, in their order, each with its record; where none fails the instruction goes
on to its own execution. -/
def Sys2Proof.Claims.ChecksInOrder : Prop :=
  ∀ (s : State) (g : Group) (cur : Cur) (i : Instr) (f : Fields) (gd : Guard),
    let bad4 := i.sig? = none ∨ (g.fwd = true ∧ fwdUnassigned (opcodeOf cur.word) = true)
    let bad5 := ∃ k, classOf (opcodeOf cur.word) = some k ∧ k ≠ engineOf cur.hdrWord
    let bad6 := ¬ WellFormed i ∨ (g.fwd = true ∧ (∃ sg, i.sig? = some sg ∧ sg.dst = .j) ∧ 8 ≤ f.dst.toNat)
      ∨ ∃ b ∈ gd.blocks, b.1.ok b.2 = false
    let regs := ((i.sig?.map fun sg => touched sg gd f).getD [])
    let bad9 := gd.priv = true ∧ ((s.contextOf? g).map Context.priv).getD false = false
    (bad4 → s.checks g cur i f gd = some (faultRecord cur 0x03 0))
    ∧ (¬bad4 → bad5 → s.checks g cur i f gd = some (faultRecord cur 0x05 (engineOf cur.hdrWord)))
    ∧ (¬bad4 → ¬bad5 → bad6 → s.checks g cur i f gd = some (faultRecord cur 0x04 0))
    ∧ (¬bad4 → ¬bad5 → ¬bad6 →
      (∀ u, gd.unit = some u → s.checks g cur i f gd = some (faultRecord cur 0x0A u))
      ∧ (gd.unit = none →
        (∀ r, regs.find? (fun r => g.nregs ≤ r) = some r → s.checks g cur i f gd = some (faultRecord cur 0x07 r))
        ∧ ((∀ r ∈ regs, r < g.nregs) →
          (bad9 → s.checks g cur i f gd = some (faultRecord cur 0x0B 0))
          ∧ (¬bad9 → ∀ k, gd.slot = some k →
            s.checks g cur i f gd = some { faultRecord cur 0x0C k with addr := s.slotBits g k })
          ∧ (¬bad9 → gd.slot = none → ((s.launchOf? g).map fun l => l.info.debug).getD false = false →
            s.checks g cur i f gd = none))))

/-- R84 and R88: an unassigned opcode raises ILLEGAL_OPCODE with the word in `sr.faddr`, and has no other effect. -/
def Sys2Proof.Claims.UnassignedOpcodeFaults : Prop :=
  ∀ (s : State) (cur : Cur) (g : Group) (op : BitVec 8) (f : Fields),
    s.cur = some cur → s.group? cur.group = some g → g.heldBack (fieldOf cur.word 56 8) f cur.lanes = false →
    exec (.unassignedOpcode op f) s = .next (State.takeFault { s with cur := none } g (faultRecord cur 0x03 0))

/-- R84 and R88: the checks before an instruction, and the opcodes that no row has. -/
def Obligations.InstructionChecks : Prop := Claims.ChecksInOrder ∧ Claims.UnassignedOpcodeFaults

/-- R139 and R140: a fault of class TH in a group that is in no handler, whose launch has one and of which no register is
pending: the record is written, Successes count no more (R152) and the group is in its handler, at its address; no other group
and nothing else of the machine changes. With a register pending the fault waits, and TRAP_HANDLER_ENTRY makes the same entry
when none is. -/
def Obligations.TrapEntry : Prop :=
  ∀ (s : State) (g : Group) (r : FaultRecord), s.group? g.id = some g → trapOf s g ≠ 0 →
    (∀ image, g.handler = false → goesToHandler s g r image →
      ∃ h, s.takeFault g r image =
          { s with groups := updId Group.id (fun _ => h) s.groups g.id }
        ∧ (g.noPending = true → inHandler { g with replays := 0, lastFault := none } h r (trapOf s g))
        ∧ (g.noPending = false → h = { g with replays := 0, lastFault := none, trapWait := some r, parked := none }))
    ∧ (g.trapWait = some r → s.running g = true → g.noPending = true →
      ∃ h, inHandler g h r (trapOf s g)
        ∧ exec (.trapHandlerEntry g.id) s = .next { s with groups := updId Group.id (fun _ => h) s.groups g.id })

/-- R136, R140 and R143: a fault of class FA, a fault of class TH without a handler, and one in the handler, which is
DOUBLE_FAULT (its recorded address and information are the model's: log 15), end the context. -/
def Obligations.FatalFaultsEndTheContext : Prop :=
  ∀ (s : State) (g : Group) (c : Context) (r : FaultRecord) (image : Bool), s.group? g.id = some g →
    s.contextOf? g = some c → c.state ≠ .ending →
    (fatalCodes.contains r.fcode = true → endedBy s (s.takeFault g r image) c.asid r)
    ∧ (goesToHandler s g r image → g.handler = false → trapOf s g = 0 → endedBy s (s.takeFault g r image) c.asid r)
    ∧ (goesToHandler s g r image → g.handler = true →
      endedBy s (s.takeFault g r image) c.asid
        ⟨0x15, r.lanes, BitVec.ofNat 32 r.fcode, r.pc, g.record.pc⟩)

/-- R26, R62 and R141: TRAPRET.replay and TRAPRET.skip in handler mode. -/
def Sys2Proof.Claims.TrapReturn : Prop := ∀ f : Fields,
  Completes (.trapretReplay f) f unguarded .whole (trapReturn false)
  ∧ Completes (.trapretSkip f) f unguarded .whole (trapReturn true)

/-- R140 and R141: a handler that changes nothing and ends with `.replay` gives the group back as it was at the fault,
but for the record and the marks of the handler: every lane stands where it stood, and every wait goes on. -/
def Sys2Proof.Claims.ReplayRestores : Prop :=
  ∀ (g : Group) (r : FaultRecord) (trap here : DWord), g.handler = false → g.lanes.length = 32 →
    trap ≠ exitedPc → (∀ l, l < 32 → (g.lane l).entered = false) →
    let h := (g.enterHandler r trap).leaveHandler false here
    h = { g with
      lanes := h.lanes, record := r, trapWait := none, parked := none
      wait1 := if g.fwd then g.wait1 else .none, waitSlot1 := if g.fwd then g.waitSlot1 else 0
      saveWait0 := .none, saveWait1 := .none, saveSlot0 := 0, saveSlot1 := 0 }
    ∧ ∀ l, l < 32 → (h.lane l).pos = (g.lane l).pos ∧ (h.lane l).park = (g.lane l).park ∧ (h.lane l).entered = false

/-- R26, R62, R140 and R141: the return from a handler. -/
def Obligations.HandlerReturn : Prop := Claims.TrapReturn ∧ Claims.ReplayRestores

/-! ### Row 1 -/

/-- R128: arithmetic of the S and X families is exact, then narrowed; IMULH gives the high word, IMIN and IMAX compare
under the X code, and the immediate of IADDI and IADDI64 is signed in every mode. -/
def Obligations.IntegerArithmetic : Prop := ∀ f : Fields,
  Writes (.iadd f) f unguarded (into fun c l => narrowed 32 f (exact f (c.a l) + exact f (c.b l)))
  ∧ Writes (.isub f) f unguarded (into fun c l => narrowed 32 f (exact f (c.a l) - exact f (c.b l)))
  ∧ Writes (.imul f) f unguarded (into fun c l => narrowed 32 f (exact f (c.a l) * exact f (c.b l)))
  ∧ Writes (.imad f) f unguarded
      (into fun c l => narrowed 32 f (exact f (c.a l) * exact f (c.b l) + exact f (c.c l)))
  ∧ Writes (.iaddi f) f unguarded (into fun c l => narrowed 32 f (exact f (c.a l) + f.imm.toInt))
  ∧ Writes (.iadd64 f) f unguarded (intoPair fun c l => narrowed 64 f (exact f (c.a64 l) + exact f (c.b64 l)))
  ∧ Writes (.iaddi64 f) f unguarded (intoPair fun c l => narrowed 64 f (exact f (c.a64 l) + f.imm.toInt))
  ∧ Writes (.imulh f) f unguarded
      (into fun c l => BitVec.ofInt 32 (underX f (c.a l) * underX f (c.b l) / 2 ^ 32))
  ∧ Writes (.imin f) f unguarded
      (into fun c l => if underX f (c.b l) < underX f (c.a l) then c.b l else c.a l)
  ∧ Writes (.imax f) f unguarded
      (into fun c l => if underX f (c.b l) < underX f (c.a l) then c.a l else c.b l)

/-- R129: the shifts and bit fields, b read as unsigned. -/
def Sys2Proof.Claims.ShiftsAndBitFields : Prop := ∀ f : Fields,
  Writes (.shl f) f unguarded (into fun c l => BitVec.ofNat 32 ((c.a l).toNat * 2 ^ (c.b l).toNat))
  ∧ Writes (.shr f) f unguarded (into fun c l => BitVec.ofInt 32 (underX f (c.a l) / 2 ^ (c.b l).toNat))
  ∧ Writes (.bfe f) f unguarded (into fun c l => extracted f (c.a l) (c.b l))
  ∧ Writes (.bfi f) f unguarded (into fun c l => inserted (c.a l) (c.b l) (c.c l))

/-- The rows of R127 that the shared arithmetic does not give, ISET (R130), MOVI and MOVHI (R131); `v255` reads zero
(R67), and a write of it, as of any register that a statement does not name, leaves every register. -/
def Sys2Proof.Claims.LogicMovesAndConstants : Prop := ∀ f : Fields,
  (∀ (g : Group) (l : Nat), g.reg 255 l = 0)
  ∧ Writes (.and f) f unguarded (into fun c l => maskOf fun k => (c.a l).getLsbD k && (c.b l).getLsbD k)
  ∧ Writes (.orr f) f unguarded (into fun c l => maskOf fun k => (c.a l).getLsbD k || (c.b l).getLsbD k)
  ∧ Writes (.xor f) f unguarded (into fun c l => maskOf fun k => (c.a l).getLsbD k ^^ (c.b l).getLsbD k)
  ∧ Writes (.andn f) f unguarded (into fun c l => maskOf fun k => (c.a l).getLsbD k && !(c.b l).getLsbD k)
  ∧ Writes (.popc f) f unguarded
      (into fun c l => BitVec.ofNat 32 ((List.range 32).countP fun k => (c.b l).getLsbD k))
  ∧ Writes (.clz f) f unguarded
      (into fun c l => BitVec.ofNat 32 ((List.range 32).takeWhile fun k => !(c.b l).getLsbD (31 - k)).length)
  ∧ Writes (.brev f) f unguarded (into fun c l => maskOf fun k => (c.b l).getLsbD (31 - k))
  ∧ Writes (.sel f) f unguarded (into fun c l => if c.c l = 0 then c.b l else c.a l)
  ∧ Writes (.mov f) f unguarded (into fun c l => c.b l)
  ∧ Writes (.iset f) f unguarded
      (into fun c l => if compared f.mod (underC f (c.a l)) (underC f (c.bt l)) then 0xFFFFFFFF else 0)
  ∧ Writes (.movi f) f unguarded
      (into fun _ _ => if low f.mod = 1 then BitVec.ofInt 32 f.imm.toInt else BitVec.ofNat 32 f.imm.toNat)
  ∧ Writes (.movhi f) f unguarded
      (into fun c l => BitVec.ofNat 32 (f.imm.toNat * 2 ^ 24 + (c.d l).toNat % 2 ^ 24))

/-- R67 and R127 to R131: shifts, bit fields, logic, compares, moves and constants. -/
def Obligations.BitsAndConstants : Prop := Claims.ShiftsAndBitFields ∧ Claims.LogicMovesAndConstants

/-- R132: an index that names no register in any participant raises REG_INDEX with no effect; otherwise MOVX reads, and
MOVXW writes, the register that the lane's own index names. -/
def Sys2Proof.Claims.IndexedMoves : Prop := ∀ f : Fields,
  WritesIf (.movx f) f unguarded namesRegister
      (into fun c l => c.g.reg ((c.a l).toNat + f.srcc.toNat) l)
  ∧ WritesIf (.movxw f) f unguarded namesRegister (intoIndexed fun c l => c.b l)
  ∧ ∀ i ∈ [Instr.movx f, Instr.movxw f],
      Faults i f unguarded .whole (fun _ c => ¬ namesRegister c) fun _ c =>
        ⟨BitVec.ofNat 32 0x08, misindexed c, BitVec.ofNat 32 c.g.nregs, c.addr,
          BitVec.ofNat 64 ((c.a ((lowest (misindexed c)).getD 0)).toNat + f.srcc.toNat)⟩

/-- R133 to R135, R166 and R167: BWIN, and the exchanges and combinations between lanes, confined to the lane's half in
forerunner mode. -/
def Sys2Proof.Claims.WindowsAndLanes : Prop := ∀ f : Fields,
  Writes (.bwin f) f unguarded
      (into fun c l =>
        let w := windowByte (c.a l) (c.b l) (c.c l)
        BitVec.ofNat 32 (w 0 + w 1 * 2 ^ 8 + w 2 * 2 ^ 16 + w 3 * 2 ^ 24))
  ∧ Writes (.lxch f) f unguarded (into fun c l => c.a (exchanged c l))
  ∧ Writes (.lmask f) f unguarded (into maskResult)
  ∧ Writes (.lcomb f) f unguarded (into blockResult)

/-- R132 to R135, R166 and R167: indexed moves, byte windows, and exchanges between lanes. -/
def Obligations.IndexesWindowsAndLanes : Prop := Claims.IndexedMoves ∧ Claims.WindowsAndLanes

/-! ### Row 0 -/

/-- R113: the control transfers. A lane that issues and does not take part goes to the word after. -/
def Sys2Proof.Claims.ControlTransfers : Prop := ∀ f : Fields,
  Completes (.bra f) f unguarded .whole (fun c s => some (jump c (fun _ => near c) s))
  ∧ Completes (.brax f) f unguarded .whole (fun c s => some (jump c c.a64 s))
  ∧ Completes (.call f) f unguarded .whole (fun c s => some (jump c (fun _ => near c) (link c s)))
  ∧ Completes (.callx f) f unguarded .whole (fun c s => some (jump c c.a64 (link c s)))
  ∧ Completes (.ret f) f unguarded .whole (fun c s => some (jump c c.a64 s))

/-- R36, R40, R63 and R115: NOP does nothing, YIELD makes the group the last issued, EXIT ends its participants and
settles the joins in which they then count as signed. -/
def Sys2Proof.Claims.NopYieldExit : Prop := ∀ f : Fields,
  Completes (.nop f) f unguarded .whole (fun _ s => some s)
  ∧ Completes (.yield f) f unguarded .grouped
      (fun c s => some (s.modGroup c.g.id fun g => { g with lastIssue := s.now }))
  ∧ Completes (.exit f) f unguarded .whole (fun c s =>
      if c.parts = 0 then some s
      else
        (settledAs c (fun g => g.modLanes c.parts fun l =>
            { l with pos := ⟨0xFFFFFFFFFFFFFFFF, 0, 0, .fall⟩, park := .running }) s).map fun t =>
          if c.g.fwd then t.recheckTeam c.g.team else t)

/-- R36, R40, R63, R113 and R115: the control transfers, NOP, YIELD and EXIT. -/
def Obligations.ControlFlow : Prop := Claims.ControlTransfers ∧ Claims.NopYieldExit

/-- R40, R41 and R116: JENR, JENR.act, JSIGN and JWAIT outside handler mode, after each of which complete joins are
settled. -/
def Obligations.JoinInstructions : Prop := ∀ f : Fields,
  let own (F : Ictx → Group → Group) (c : Ictx) (s : State) : Option State :=
    if c.g.handler then none else if c.parts = 0 then some s else settledAs c (F c) s
  Completes (.jenr f) f unguarded .halved (own fun c => declared (joinAt c) (declaredMask c))
  ∧ Completes (.jenrAct f) f unguarded .halved (own fun c => declared (joinAt c) c.parts)
  ∧ Completes (.jsign f) f unguarded .halved (own fun c => signed (joinAt c) c.parts)
  ∧ Completes (.jwait f) f unguarded .halved (own fun c g => parkedAt c (joinAt c) (signed (joinAt c) c.parts g))

/-- R40 and R41: settling the joins of a group in which no lane is held at a multiply, some lane runs on, and
none that waits would leave the group's region (R408). A join whose
declared lanes have all signed or exited releases the lanes that wait at it, past the JWAIT, clears its signed mask and
keeps its declared mask; any other stays as it is. -/
def Obligations.CompleteJoinsRelease : Prop :=
  ∀ (s : State) (g : Group), s.group? g.id = some g → g.handler = false → g.lanes.length = 32 → g.joins.length = 16 →
    (∀ j, g.holders j = 0) →
    (∀ k l r, g.region = some k → s.launchOf? g = some l → l.regions[k]? = some r → ∀ i, i < 32 →
      (∃ j, (g.lane i).park = .join j) → r.start.toNat ≤ (g.lane i).pos.next.pc.toNat ∧ (g.lane i).pos.next.pc.toNat < r.stop.toNat) →
    let complete := fun j => ∀ l, l < 32 → (g.join j).declared.has l = true →
      (g.join j).signed.has l = true ∨ (g.lane l).exited = true
    (∃ l, l < 32 ∧ (g.lane l).exited = false ∧
      ((g.lane l).park = .running ∨ ∃ j, j < 16 ∧ complete j ∧ (g.lane l).park = .join j)) →
    ∃ t h, s.settled g.id 0 = .done t ∧ t = { s with groups := t.groups } ∧ t.group? g.id = some h
    ∧ (∀ j, j < 16 → (complete j → h.join j = ⟨(g.join j).declared, 0⟩) ∧ (¬ complete j → h.join j = g.join j))
    ∧ ∀ l, l < 32 →
      ((∃ j, j < 16 ∧ complete j ∧ (g.lane l).park = .join j ∧ (g.lane l).exited = false) →
        h.lane l = { g.lane l with park := .running, pos := (g.lane l).pos.next })
      ∧ ((∀ j, j < 16 → complete j → ¬((g.lane l).park = .join j ∧ (g.lane l).exited = false)) → h.lane l = g.lane l)

/-- R117 and R118: each of SBWAIT, CWAIT, TWAIT and TWANY goes on where its wait is over, TFIND and TCLR at once; TCLR
clears the tags of the mask and no other. -/
def Sys2Proof.Claims.WaitsPass : Prop := ∀ f : Fields,
  Completes (.sbwait f) f unguarded .grouped (fun c s => if slotsClear c f.srcc.toNat then some s else none)
  ∧ Completes (.cwait f) f unguarded .grouped
      (fun c s => if c.g.counter (f.mod.toNat % 4) ≤ f.srcc.toNat then some s else none)
  ∧ Completes (.twait f) f unguarded .grouped
      (fun c s => if tagsExist c s ∧ tagsSet c s = c.a64 c.lead then some s else none)
  ∧ Completes (.twany f) f unguarded .grouped (fun c s =>
      if tagsExist c s ∧ (c.a64 c.lead = 0 ∨ tagsSet c s ≠ 0) then
        some (s.writeResults c (c.each fun _ => tagNumber (tagsSet c s)))
      else none)
  ∧ Completes (.tfind f) f unguarded .grouped (fun c s =>
      if tagsExist c s then some (s.writeResults c (c.each fun _ => tagNumber (tagsSet c s))) else none)
  ∧ Completes (.tclr f) f unguarded .grouped (fun c s =>
      if tagsExist c s then
        some (s.modTeam c.g.team fun t =>
          { t with tags := t.tags.set (t.cuIndex c.g) (t.tags.getD (t.cuIndex c.g) 0 &&& ~~~(c.a64 c.lead)) })
      else none)

/-- R117, R118 and R120: where its wait is not over, the instruction holds its group, or the half it acts for, at itself:
nothing else of the machine changes. -/
def Sys2Proof.Claims.WaitsHold : Prop := ∀ f : Fields,
  Holds (.sbwait f) f .grouped (fun c _ => ¬ slotsClear c f.srcc.toNat) (fun _ => .slots f.srcc.toNat)
  ∧ Holds (.cwait f) f .grouped (fun c _ => f.srcc.toNat < c.g.counter (f.mod.toNat % 4))
      (fun _ => .counter (f.mod.toNat % 4) f.srcc.toNat)
  ∧ Holds (.twait f) f .grouped (fun c s => tagsExist c s ∧ tagsSet c s ≠ c.a64 c.lead)
      (fun c => .allTags (c.a64 c.lead))
  ∧ Holds (.twany f) f .grouped (fun c s => tagsExist c s ∧ c.a64 c.lead ≠ 0 ∧ tagsSet c s = 0)
      (fun c => .someTag (c.a64 c.lead))
  ∧ Holds (.rwait f) f .grouped
      (fun c s => f.srca.toNat < s.need c.g Record.rings ∧ c.g.wait c.half ≠ .released
        ∧ ringPhase c s = some (!(f.mod == 1)))
      (fun _ => .ring f.srca.toNat f.srcc.toNat (f.mod == 1))

/-- R117, R118 and R120: the waits go on where they are over, and hold where they are not. -/
def Obligations.WaitInstructions : Prop := Claims.WaitsPass ∧ Claims.WaitsHold

/-- R119 and R120: BARA and RARV arrive; BARW goes on where its arrival flips the phase or the phase has flipped since;
RWAIT where the slot's phase bit is the one it names. -/
def Sys2Proof.Claims.BarriersAndRings : Prop := ∀ f : Fields,
  Completes (.bara f) f unguarded .grouped (arrived (f.mod == 1))
  ∧ Completes (.barw f) f unguarded .grouped (fun c s =>
      if c.g.wait c.half = .released then some s
      else (arrived (f.mod == 1) c s).bind fun t => if barrierPhase c t ≠ barrierPhase c s then some t else none)
  ∧ Completes (.rarv f) f unguarded .grouped (fun c s =>
      if f.srca.toNat < s.need c.g Record.rings then some (s.arriveRing c.g f.srca.toNat f.srcc.toNat) else none)
  ∧ Completes (.rwait f) f unguarded .grouped (fun c s =>
      if f.srca.toNat < s.need c.g Record.rings ∧ (c.g.wait c.half = .released ∨ ringPhase c s = some (f.mod == 1)) then
        some s
      else none)

/-- R119: the arrivals that reach the expected count flip a barrier's phase bit and return its count to zero; fewer leave
it. The expected count is the count that the phase's first arrival fixed, or the team's groups that have not retired. -/
def Sys2Proof.Claims.BarrierPhases : Prop :=
  ∀ (s : State) (t : Team) (n : Nat), s.team? t.id = some t → (t.barrier n).form ≠ none →
    let k := if (t.barrier n).form = some true then (t.barrier n).expected else s.units t.id none
    (k ≤ (t.barrier n).count → ∃ t', (s.flipBarrier t.id n).team? t.id = some t'
        ∧ t'.barrier n = ⟨0, 0, none, !(t.barrier n).phase⟩ ∧ (∀ m, m ≠ n → t'.barrier m = t.barrier m)
        ∧ ∀ g, (s.flipBarrier t.id n).group? g = (s.group? g).map fun g =>
            if g.team = t.id then g.release (onBarrier n) else g)
    ∧ ((t.barrier n).count < k → s.flipBarrier t.id n = s)

/-- R119 and R120: arrivals, and the phases that they complete. -/
def Obligations.BarriersFlip : Prop := Claims.BarriersAndRings ∧ Claims.BarrierPhases

/-- R121: an MWAIT whose words all differ, or whose timeout has fallen due, ends with its status; and a wake-up or a
timeout makes a sleeping MWAIT of a running group check again and end in the same way. Its words are read in the instruction's
turn where no token has to be waited for (R369). -/
def Obligations.MemoryWaits : Prop :=
  (∀ f : Fields, Completes (.mwait f) f unguarded .grouped (fun c s => waitOver false s.clock c s))
  ∧ ∀ (s : State) (g : Group) (half : Nat) (start : BitVec 64) (f : Fields) (lanes : Mask) (word : DWord) (t : State),
      s.group? g.id = some g → s.running g = true → g.wait half = .mwait start f lanes word →
      let p := g.posOf lanes
      acting .grouped (waitOver true start) ⟨g.id, lanes, p.pc, p.hdr, p.word, word⟩ f [(half, lanes)] s = some t →
      exec (.mwaitWake g.id half) s = .next t ∧ exec (.mwaitTimeout g.id half) s = .next t

/-- R142: TRAP, BKPT and ASSERT raise their fault where R142 says so, and otherwise do nothing. -/
def Sys2Proof.Claims.SoftwareTraps : Prop := ∀ f : Fields,
  let failing (c : Ictx) : Mask := maskOf fun l => c.parts.has l && c.a l == 0
  Faults (.trap f) f unguarded .whole (fun _ c => c.parts ≠ 0)
      (fun _ c => ⟨0x12, c.parts, BitVec.ofNat 32 f.imm.toNat, c.addr, 0⟩)
  ∧ Faults (.bkpt f) f unguarded .whole (fun _ c => c.parts ≠ 0)
      (fun _ c => ⟨0x13, c.parts, BitVec.ofNat 32 f.imm.toNat, c.addr, 0⟩)
  ∧ Faults (.assert f) f unguarded .whole (fun _ c => failing c ≠ 0)
      (fun _ c =>
        let l := (lowest (failing c)).getD 0
        ⟨0x14, failing c, BitVec.ofNat 32 l, c.addr, c.b64 l⟩)
  ∧ Completes (.trap f) f unguarded .whole (fun c s => if c.parts = 0 then some s else none)
  ∧ Completes (.bkpt f) f unguarded .whole (fun c s => if c.parts = 0 then some s else none)
  ∧ Completes (.assert f) f unguarded .whole (fun c s => if failing c = 0 then some s else none)

/-- R125, R126 and R160: GETSR writes a special register, the low word of one of 32 bits; SETSR in handler mode writes
the participants' `sr.savepc`, to which TRAPRET then returns them as by a transfer. -/
def Obligations.SpecialRegisters : Prop := ∀ f : Fields,
  Completes (.getsr f) f unguarded .whole (fun c s =>
      some (s.writeResults c
        (if f.srcc.toNat = 11 ∨ f.srcc.toNat = 15 ∨ f.srcc.toNat = 16 ∨ f.srcc.toNat = 17 then
          c.each64 fun l => srValue s c.g l f.srcc.toNat
        else c.each fun l => (srValue s c.g l f.srcc.toNat).truncate 32)))
  ∧ Completes (.setsr f) f unguarded .whole (fun c s =>
      if c.g.handler then
        some (s.modGroup c.g.id fun g =>
          { g with lanes := (List.range 32).map fun l =>
              if c.parts.has l then { g.lane l with save := ⟨c.a64 l, 0, 0, .transfer c.addr⟩, setsr := true }
              else g.lane l })
      else none)

/-- R116, R126 and R141: in handler mode JENR, JENR.act, JSIGN, JWAIT and every multiply raise HANDLER_STATE; outside
it SETSR and TRAPRET do. That they do so without participants too is the model's reading (log 16). -/
def Sys2Proof.Claims.HandlerStateFaults : Prop := ∀ f : Fields,
  let record (_ : State) (c : Ictx) : FaultRecord := ⟨0x11, c.all, 0, c.addr, c.word⟩
  (∀ i ∈ [Instr.jenr f, .jenrAct f, .jsign f, .jwait f],
    Faults i f unguarded .halved (fun _ c => c.lanes ≠ 0 ∧ c.g.handler = true) record)
  ∧ Faults (.mma f) f (mulGuard false) .whole (fun _ c => c.g.handler = true) record
  ∧ Faults (.mmas f) f (mulGuard false) .whole (fun _ c => c.g.handler = true) record
  ∧ Faults (.mmacb f) f (mulGuard true) .whole (fun _ c => c.g.handler = true) record
  ∧ Faults (.mmad f) f madGuard .whole (fun _ c => c.g.handler = true) record
  ∧ ∀ i ∈ [Instr.setsr f, .trapretReplay f, .trapretSkip f],
    Faults i f unguarded .whole (fun _ c => c.g.handler = false) record

/-- R116, R126, R141 and R142: software traps, and what handler mode forbids or requires. -/
def Obligations.TrapInstructions : Prop := Claims.SoftwareTraps ∧ Claims.HandlerStateFaults

/-! ### Rows 2 and 3 -/

/-- R171, R179 and R180: rounding takes the neighbour that the mode names, of every positive number n × 2^e. -/
def Obligations.RoundingIsCorrect : Prop :=
  ∀ F ∈ arithmetic, ∀ (mode : Nat) (s : Bool) (n : Nat) (e : Int), mode < 4 → 0 < n →
    Rounded F mode s (n * (2 : ℝ) ^ e) (F.round mode s n e)

/-- R193, R194 and R196: a sum, difference, product or fused product and sum of finite codes is exact and rounded once;
an exact zero takes its sign by R194; a NaN operand comes back quieted, the first of them; an invalid operation gives the
canonical quiet NaN. -/
def Obligations.ArithmeticRoundsOnce : Prop :=
  ∀ F ∈ arithmetic, ∀ (mode a b c : Nat), mode < 4 → a < 2 ^ F.width → b < 2 ^ F.width → c < 2 ^ F.width →
    (∀ x y z, realOf F a = some x → realOf F b = some y → realOf F c = some z →
      (x + y ≠ 0 → Rounded F mode (x + y < 0) |x + y| (F.add mode a b))
      ∧ (x - y ≠ 0 → Rounded F mode (x - y < 0) |x - y| (F.sub mode a b))
      ∧ (x * y ≠ 0 → Rounded F mode (x * y < 0) |x * y| (F.mul mode a b))
      ∧ (x * y + z ≠ 0 → Rounded F mode (x * y + z < 0) |x * y + z| (F.fma mode a b c))
      ∧ (x + y = 0 → F.add mode a b =
          F.signed (if x = 0 ∧ signOf F a = signOf F b then signOf F a else mode = 2) 0)
      ∧ (x - y = 0 → F.sub mode a b =
          F.signed (if x = 0 ∧ signOf F a ≠ signOf F b then signOf F a else mode = 2) 0)
      ∧ (x * y = 0 → F.mul mode a b = F.signed (signOf F a != signOf F b) 0)
      ∧ (x * y + z = 0 → F.fma mode a b c =
          F.signed (if z = 0 ∧ (signOf F a != signOf F b) = signOf F c then signOf F c else mode = 2) 0))
    ∧ (isNan F a → F.add mode a b = quieted F a ∧ F.sub mode a b = quieted F a ∧ F.mul mode a b = quieted F a
        ∧ F.fma mode a b c = quieted F a)
    ∧ (¬isNan F a → isNan F b → F.add mode a b = quieted F b ∧ F.sub mode a b = quieted F b
        ∧ F.mul mode a b = quieted F b ∧ F.fma mode a b c = quieted F b)
    ∧ (¬isNan F a → ¬isNan F b → isNan F c → F.fma mode a b c = quieted F c)
    ∧ ∀ s : Bool, F.add mode (F.signed s F.top) (F.signed (!s) F.top) = F.top + 2 ^ (F.m - 1)
        ∧ F.mul mode (F.signed s F.top) (F.signed false 0) = F.top + 2 ^ (F.m - 1)

/-- R202, R203 and R205: the reciprocal, the square root and the reciprocal square root of a positive finite code are the
exact values, rounded once. -/
def Obligations.RootsAndReciprocals : Prop :=
  ∀ F ∈ [f32, f64], ∀ (mode a : Nat) (x : ℝ), mode < 4 → a < 2 ^ F.width → realOf F a = some x →
    (x ≠ 0 → Rounded F mode (x < 0) (1 / |x|) (F.rcp mode a))
    ∧ (0 < x → Rounded F mode false (Real.sqrt x) (F.sqrt mode a) ∧ Rounded F mode false (1 / Real.sqrt x) (F.rsq mode a))
    ∧ (x < 0 → F.sqrt mode a = F.top + 2 ^ (F.m - 1) ∧ F.rsq mode a = F.top + 2 ^ (F.m - 1))
    ∧ (x = 0 → F.rcp mode a = F.signed (signOf F a) F.top ∧ F.sqrt mode a = a ∧ F.rsq mode a = F.signed (signOf F a) F.top)

/-- R196 and R201: the arithmetic and FRND of f32, f64 and the pairs, each element computed apart. -/
def Sys2Proof.Claims.FloatArithmetic : Prop := ∀ f : Fields,
  let m := modeOf f
  let w := fun (op : Nat → Nat → Nat) (c : Ictx) (l : Nat) => BitVec.ofNat 32 (op (c.a l).toNat (c.b l).toNat)
  let d := fun (op : Nat → Nat → Nat) (c : Ictx) (l : Nat) => BitVec.ofNat 64 (op (c.a64 l).toNat (c.b64 l).toNat)
  let h := fun (op : Nat → Nat → Nat) (c : Ictx) (l : Nat) => elements (fun e => op (e.getD 0 0) (e.getD 1 0)) [c.a l, c.b l]
  let h3 := fun (op : Nat → Nat → Nat → Nat) (c : Ictx) (l : Nat) =>
    elements (fun e => op (e.getD 0 0) (e.getD 1 0) (e.getD 2 0)) [c.a l, c.b l, c.c l]
  Writes (.faddF32 f) f unguarded (into (w (f32.add m)))
  ∧ Writes (.fsubF32 f) f unguarded (into (w (f32.sub m)))
  ∧ Writes (.fmulF32 f) f unguarded (into (w (f32.mul m)))
  ∧ Writes (.ffmaF32 f) f unguarded
      (into fun c l => BitVec.ofNat 32 (f32.fma m (c.a l).toNat (c.b l).toNat (c.c l).toNat))
  ∧ Writes (.faddF64 f) f unguarded (intoPair (d (f64.add m)))
  ∧ Writes (.fsubF64 f) f unguarded (intoPair (d (f64.sub m)))
  ∧ Writes (.fmulF64 f) f unguarded (intoPair (d (f64.mul m)))
  ∧ Writes (.ffmaF64 f) f unguarded
      (intoPair fun c l => BitVec.ofNat 64 (f64.fma m (c.a64 l).toNat (c.b64 l).toNat (c.c64 l).toNat))
  ∧ Writes (.hadd2F16 f) f unguarded (into (h (f16.add m)))
  ∧ Writes (.hsub2F16 f) f unguarded (into (h (f16.sub m)))
  ∧ Writes (.hmul2F16 f) f unguarded (into (h (f16.mul m)))
  ∧ Writes (.hfma2F16 f) f unguarded (into (h3 (f16.fma m)))
  ∧ Writes (.hadd2Bf16 f) f unguarded (into (h (bf16.add m)))
  ∧ Writes (.hsub2Bf16 f) f unguarded (into (h (bf16.sub m)))
  ∧ Writes (.hmul2Bf16 f) f unguarded (into (h (bf16.mul m)))
  ∧ Writes (.hfma2Bf16 f) f unguarded (into (h3 (bf16.fma m)))
  ∧ Writes (.frndF32 f) f unguarded (into fun c l => BitVec.ofNat 32 (f32.integral m (c.b l).toNat))
  ∧ Writes (.frndF64 f) f unguarded (intoPair fun c l => BitVec.ofNat 64 (f64.integral m (c.b64 l).toNat))

/-- R198 to R200: minima and maxima, compares and classes of f32, f64 and the pairs. -/
def Sys2Proof.Claims.FloatSelection : Prop := ∀ f : Fields,
  let nan := modeOf f == 1
  let w := fun (op : Nat → Nat → Nat) (c : Ictx) (l : Nat) => BitVec.ofNat 32 (op (c.a l).toNat (c.b l).toNat)
  let d := fun (op : Nat → Nat → Nat) (c : Ictx) (l : Nat) => BitVec.ofNat 64 (op (c.a64 l).toNat (c.b64 l).toNat)
  let h := fun (op : Nat → Nat → Nat) (c : Ictx) (l : Nat) => elements (fun e => op (e.getD 0 0) (e.getD 1 0)) [c.a l, c.b l]
  let set := fun (F : Fmt) (c : Ictx) (l : Nat) =>
    elements (fun e => if F.cmp f.mod.toNat (e.getD 0 0) (e.getD 1 0) then 0xFFFF else 0) [c.a l, c.bt l]
  Writes (.fminF32 f) f unguarded (into (w (f32.minmax false nan)))
  ∧ Writes (.fmaxF32 f) f unguarded (into (w (f32.minmax true nan)))
  ∧ Writes (.fminF64 f) f unguarded (intoPair (d (f64.minmax false nan)))
  ∧ Writes (.fmaxF64 f) f unguarded (intoPair (d (f64.minmax true nan)))
  ∧ Writes (.hmin2F16 f) f unguarded (into (h (f16.minmax false nan)))
  ∧ Writes (.hmax2F16 f) f unguarded (into (h (f16.minmax true nan)))
  ∧ Writes (.hmin2Bf16 f) f unguarded (into (h (bf16.minmax false nan)))
  ∧ Writes (.hmax2Bf16 f) f unguarded (into (h (bf16.minmax true nan)))
  ∧ Writes (.fsetF32 f) f unguarded
      (into fun c l => if f32.cmp f.mod.toNat (c.a l).toNat (c.bt l).toNat then 0xFFFFFFFF else 0)
  ∧ Writes (.fsetF64 f) f unguarded
      (into fun c l => if f64.cmp f.mod.toNat (c.a64 l).toNat (c.b64 l).toNat then 0xFFFFFFFF else 0)
  ∧ Writes (.hset2F16 f) f unguarded (into (set f16))
  ∧ Writes (.hset2Bf16 f) f unguarded (into (set bf16))
  ∧ Writes (.fclassF32 f) f unguarded (into fun c l => BitVec.ofNat 32 (2 ^ f32.classBit (c.b l).toNat))
  ∧ Writes (.fclassF64 f) f unguarded (into fun c l => BitVec.ofNat 32 (2 ^ f64.classBit (c.b64 l).toNat))

/-- R196 to R201: the fixed-latency instructions of rows 2 and 3. -/
def Obligations.FloatInstructions : Prop := Claims.FloatArithmetic ∧ Claims.FloatSelection

/-- R198 to R200: of codes that are no NaN, FMIN gives the lesser and FMAX the greater, −0 below +0, and the compares
order the values; a NaN is unordered, and `.num` passes it over. -/
def Obligations.SelectionOrdersValues : Prop :=
  ∀ F ∈ arithmetic, ∀ (a b : Nat) (x y : ℝ) (nan : Bool), a < 2 ^ F.width → b < 2 ^ F.width →
    (realOf F a = some x → realOf F b = some y →
      let less := x < y ∨ (x = y ∧ (a = b ∨ signOf F a = true))
      (less → F.minmax false nan a b = a ∧ F.minmax true nan a b = b)
      ∧ (¬less → F.minmax false nan a b = b ∧ F.minmax true nan a b = a)
      ∧ (F.cmp 0 a b = true ↔ x = y) ∧ (F.cmp 1 a b = true ↔ x ≠ y) ∧ (F.cmp 2 a b = true ↔ x < y)
      ∧ (F.cmp 3 a b = true ↔ x ≤ y) ∧ (F.cmp 4 a b = true ↔ y < x) ∧ (F.cmp 5 a b = true ↔ y ≤ x)
      ∧ F.cmp 6 a b = true ∧ F.cmp 7 a b = false)
    ∧ (isNan F a → ¬isNan F b → F.minmax false false a b = b ∧ F.minmax true false a b = b
        ∧ F.minmax false true a b = quieted F a ∧ F.cmp 6 a b = false ∧ F.cmp 7 a b = true ∧ F.cmp 1 a b = true)

/-- R202 to R206 and R73: the special functions become outstanding with their results, and land later; f32 functions
return one register, f64 functions a pair. -/
def Sys2Proof.Claims.SpecialFunctions : Prop := ∀ f : Fields,
  let m := modeOf f
  let d := f.dst.toNat
  let w := fun (op : Nat → Nat) (c : Ictx) => c.each fun l => BitVec.ofNat 32 (op (c.a l).toNat)
  let p := fun (op : Nat → Nat) (c : Ictx) => c.each64 fun l => BitVec.ofNat 64 (op (c.a64 l).toNat)
  Completes (.rcpF32 f) f unguarded .whole (pending [d] (w (f32.rcp m)))
  ∧ Completes (.rsqF32 f) f unguarded .whole (pending [d] (w (f32.rsq m)))
  ∧ Completes (.sqrtF32 f) f unguarded .whole (pending [d] (w (f32.sqrt m)))
  ∧ Completes (.ex2F32 f) f unguarded .whole (pending [d] (w (ex2 m)))
  ∧ Completes (.lg2F32 f) f unguarded .whole (pending [d] (w (lg2 m)))
  ∧ Completes (.sinF32 f) f unguarded .whole (pending [d] (w (sin2pi m)))
  ∧ Completes (.cosF32 f) f unguarded .whole (pending [d] (w (cos2pi m)))
  ∧ Completes (.tanhF32 f) f unguarded .whole (pending [d] (w (tanh32 m)))
  ∧ Completes (.rcpF64 f) f unguarded .whole (pending [d, d + 1] (p (f64.rcp m)))
  ∧ Completes (.sqrtF64 f) f unguarded .whole (pending [d, d + 1] (p (f64.sqrt m)))

/-- R73 and R74: results known at issue land in the lanes that the event names, or, where it names none, one of them in
one lane; the instruction completes with the last. Which land next is left open, and follows the events and a free value
(log 2). -/
def Sys2Proof.Claims.ResultsLand : Prop :=
  ∀ (s : State) (g : Group) (o : Op) (m : Mask) (ws : List RegWrite), s.group? g.id = some g → g.op? o.id = some o →
    (g.ops.map Op.id).Nodup → o.kind = .result ws [] → o.late = [] → o.done = false → (∀ w ∈ ws, w.lane < 32) →
    (m ≠ 0 → Lands s g o m (ws.filter fun w => m.has w.lane) (ws.filter fun w => !m.has w.lane))
    ∧ (m = 0 → ws = [] → Lands s g o m [] [])
    ∧ (m = 0 → ws ≠ [] → ∃ k w, ws[k]? = some w ∧ Lands s g o m [w] (ws.eraseIdx k))

/-- R22: completed operations lower their counter in issue order, each class by itself; an operation without a class goes
as it completes. -/
def Sys2Proof.Claims.CountersFallInOrder : Prop :=
  ∀ ops : List Op,
    (∀ k : Nat, (retireOps ops []).filter (fun o => o.cls == some k) =
      (ops.filter fun o => o.cls == some k).dropWhile fun o => o.done)
    ∧ (retireOps ops []).filter (fun o => o.cls.isNone) = ops.filter fun o => o.cls.isNone && !o.done

/-- R22 and R73: results land, and counters fall in issue order. -/
def Obligations.ResultsAndCounters : Prop := Claims.ResultsLand ∧ Claims.CountersFallInOrder

/-! ### Conversions -/

/-- R179, R180, R182, R183 and R207: a conversion between floating-point formats and one from an integer round once;
one to an integer rounds, and clamps to the type's range; a NaN gives 0. The payload of a NaN narrowed from f64 to
f16 or bf16 is a free value (log 10). -/
def Obligations.ConversionsRoundOnce : Prop :=
  ∀ F ∈ arithmetic, ∀ mode, mode < 4 →
    (∀ G ∈ arithmetic, ∀ (a : Nat) (x : ℝ), a < 2 ^ G.width → realOf G a = some x →
      (x ≠ 0 → Rounded F mode (x < 0) |x| (convert G F mode false false a))
      ∧ (x = 0 → convert G F mode false false a = F.signed (signOf G a) 0))
    ∧ (∀ v : Int, v ≠ 0 → Rounded F mode (v < 0) |(v : ℝ)| (F.ofInteger mode v))
    ∧ ∀ (a : Nat) (lo hi : Int), a < 2 ^ F.width → lo ≤ 0 → 0 ≤ hi →
      (∀ x, realOf F a = some x → ∃ v, RoundedInt mode x v ∧ toInteger mode lo hi (F.read a) = clamp v lo hi)
      ∧ (isNan F a → toInteger mode lo hi (F.read a) = 0)

/-- R207 to R213: CVT, CVTI, CVTF, CVTN, CVTW and BSCALE write their results; CBDEC reads its codebook and becomes
outstanding with the eight weights. -/
def Sys2Proof.Claims.Conversions : Prop := ∀ f : Fields,
  let m := modeOf f
  let S := formatOf (fromCode f)
  let D := formatOf (toCode f)
  let wide := fun code : Nat => code == 2 || code == 3
  (fromCode f ∈ [1, 2, 3, 9] → toCode f ∈ [1, 2, 3, 9] →
    Writes (.cvt f) f unguarded (intoSize (toCode f == 9) fun c l =>
      convert S D m false false (sourceBits (fromCode f == 9) c l % 2 ^ S.width)))
  ∧ (fromCode f ∈ [1, 2, 3, 9] → toCode f < 8 →
    Writes (.cvti f) f unguarded (intoSize (wide (toCode f)) fun c l =>
      (BitVec.ofInt 64 (toInteger m (leastOf (toCode f)) (greatestOf (toCode f))
        (S.read (sourceBits (fromCode f == 9) c l % 2 ^ S.width)))).toNat))
  ∧ (fromCode f < 8 → toCode f ∈ [1, 2, 3, 9] →
    Writes (.cvtf f) f unguarded (intoSize (toCode f == 9) fun c l =>
      D.ofInteger m (integerOf (fromCode f) (sourceBits (wide (fromCode f)) c l))))
  ∧ Completes (.cvtn f) f (asks packedAccepts Fields.srca true false) .whole (fun c s =>
      let x := slotBitsOf s f c
      let n := packs (slotElement x)
      some (s.writeResults c (c.each fun l => BitVec.ofNat 32 (((List.range n).map fun k =>
        2 ^ (32 / n * k) * narrowElement x m ((c.b l).toNat % 256) (c.g.reg (f.srca.toNat + k) l).toNat).sum))))
  ∧ Completes (.cvtw f) f (asks packedAccepts Fields.dst true false) .whole (fun c s =>
      let x := slotBitsOf s f c
      let n := packs (slotElement x)
      some (s.writeNoted c ((lanesOf c.parts).flatMap fun l => (List.range n).map fun k =>
        ⟨f.dst.toNat + k, l, BitVec.ofNat 32
          (widenElement x m ((c.b l).toNat % 256) ((c.a l).toNat / 2 ^ (32 / n * k) % 2 ^ (32 / n)))⟩)))
  ∧ Completes (.bscale f) f (asks (fun x => slotScale x == 0x0A && [4, 5, 6, 7].contains (slotElement x)) Fields.srca false
      false) .whole (fun c s =>
        some (s.writeResults c (c.each fun l => BitVec.ofNat 32
          (blockScale (slotElement (slotBitsOf s f c)) ((blockLanes c l).map fun j => (c.b j).toNat)))))
  ∧ Completes (.cbdec f) f (asks (fun x => slotElement x == 7) Fields.srca false true) .whole (fun c s =>
      if c.parts = 0 then some (outstanding none [] 0 (.result [] []) c s)
      else
        match s.readBook c.g (f.srcc.toNat % 8) c.parts c.addr with
        | .fault _ _ => none
        | .waits _ => none
        | .words book t =>
          some (outstanding none ((List.range 8).map (f.dst.toNat + ·)) c.parts (.result ((lanesOf c.parts).flatMap fun l =>
            let index := (c.a l).toNat % 2 ^ 16
            ((weights (slotBitsOf t f c) m ((c.b l).toNat % 256) index (book.getD (index / 256) 0).toNat).zipIdx.map fun w =>
              (⟨f.dst.toNat + w.2, l, w.1⟩ : RegWrite))) []) c t))

/-- R73, R82, R202 to R209: the special functions and the conversions. -/
def Obligations.ConversionsAndFunctions : Prop := Claims.SpecialFunctions ∧ Claims.Conversions

/-! ### Row 4 -/

/-- R313 to R324: LD, ST, SPLD, SPST, LDP, ATOM, RED, CAS, ATOMS and CASS become outstanding with an access for each
participant, at its address, of its type's size, with its registers' bytes. An LDP below its block reads zero by the
model's reading (log 28). -/
def Sys2Proof.Claims.LaneAccesses : Prop := ∀ f : Fields,
  let z := accessSize f.srcc.toNat
  let n := atomicSize f
  let d := f.dst.toNat
  let load : Ictx → Nat → AccessOp := fun _ _ => .load z (extends' f.srcc.toNat)
  let store : Ictx → Nat → AccessOp := fun c l => .store (bytesAt c f.srcb.toNat z l)
  let noL1 := f.mod.toNat % 4 == 2
  let stream := f.mod.toNat % 4 == 1
  Completes (.ld f) f unguarded .whole (overMemory z .read (addresses · f.srcb z) load noL1 (registersOf d z) · · stream)
  ∧ Completes (.st f) f unguarded .whole (overMemory z .write (addresses · f.dst z) store noL1 [] · · stream)
  ∧ Completes (.spld f) f unguarded .whole (overScratch z false (offsets · f.srcb z) load (registersOf d z))
  ∧ Completes (.spst f) f unguarded .whole (overScratch z true (offsets · f.dst z) store [])
  ∧ Completes (.ldp f) f unguarded .whole (fun c s =>
      if c.parts = 0 then some s
      else if (blockOffsets c f.srcb z).any (fun x => x.2 % z != 0) then none
      else
        some (outstanding (some 0) (registersOf d z) c.parts (.access (((blockOffsets c f.srcb z).map fun x =>
          (⟨x.1, BitVec.ofNat 64 x.2, .param x.2, load c x.1, false, false, none, registersOf d z, false⟩ : Access)).flatMap
            Access.pieces) []) c s))
  ∧ Completes (.atom f) f unguarded .whole (overMemory n .readWrite (addresses · 0 1) atomAt false (registersOf d n) · ·)
  ∧ Completes (.red f) f unguarded .whole (overMemory n .readWrite (addresses · 0 1) atomAt false [] · ·)
  ∧ Completes (.cas f) f unguarded .whole (overMemory n .readWrite (addresses · 0 1) swapAt false (registersOf d n) · ·)
  ∧ Completes (.atoms f) f unguarded .whole (overScratch n true (offsets · 0 1) atomAt (registersOf d n))
  ∧ Completes (.cass f) f unguarded .whole (overScratch n true (offsets · 0 1) swapAt (registersOf d n))

/-- R325 to R335: REL captures and resets the group's signature where its scope is TEAM or wider; ACQ, SIGCLR, FENCE, the
monitors, PREF, CCTL and PZERO, which zeroes the page's lines one by one. -/
def Sys2Proof.Claims.GroupAccesses : Prop := ∀ f : Fields,
  let scope := f.mod.toNat % 4
  let monitor := f.srcc.toNat % 4
  Completes (.rel f) f unguarded .grouped (fun c s =>
      let add := f.mod.getLsbD 2
      let op := AccessOp.rel add (c.g.reg64 f.srcb.toNat c.lead) (if scope = 0 then none else some c.g.sig)
      match s.reach c 128 (if add then .readWrite else .write) (leadAddress c) (fun _ => op) true [] with
      | .error _ => none
      | .ok (accs, t) => some (outstanding (some 0) [] 0 (.access accs []) c
          (if scope = 0 then t else t.modGroup c.g.id fun g => { g with sig := 0 })))
  ∧ Completes (.acq f) f unguarded .grouped (fun c s =>
      match s.reach c 128 .read (leadAddress c) (fun _ => .rel true 0 (some 0)) true [] with
      | .ok ([a], t) =>
        match a.place with
        | .mem pa => some (outstanding (some 0) [f.dst.toNat, f.dst.toNat + 1] c.parts (.acquire pa scope f.dst.toNat none) c t)
        | _ => none
      | _ => none)
  ∧ Completes (.sigclr f) f unguarded .grouped (overLine 128 .write .sigClear 8)
  ∧ Completes (.pzero f) f unguarded .grouped (fun c s =>
      match s.reach c 4096 .readWrite (leadAddress c) (fun _ => .zeroLine) true [] with
      | .error _ => none
      | .ok (accs, t) =>
        some (outstanding (some 0) [] 0 (.access (accs.flatMap fun a => (List.range 32).map fun k =>
          { a.shift (128 * k) with va := a.va + BitVec.ofNat 64 (128 * k) }) []) c t))
  ∧ Completes (.fence f) f unguarded .grouped (fun c s => some (outstanding none [] 0 (.fence f.srcc.toNat scope) c s))
  ∧ Completes (.marmArm f) f unguarded .grouped (armed false)
  ∧ Completes (.marmArmB64 f) f unguarded .grouped (armed true)
  ∧ Completes (.marmTest f) f unguarded .grouped (fun c s => some (finished c (s.writeResults c (c.each fun _ =>
      maskOf fun k => k < 4 && (c.g.monitor k).fired))))
  ∧ Completes (.marmClr f) f unguarded .grouped (fun c s => some (finished c (s.modGroup c.g.id fun g =>
      { g with monitors := g.monitors.set monitor { g.monitor monitor with armed := false, fired := false } })))
  ∧ Completes (.pref f) f unguarded .whole (fun c s =>
      some ((lanesOf c.parts).foldl (fun s l => s.prefetch c.g (f.mod == 1) (c.a64 l)) s))
  ∧ Completes (.cctlWb f) f unguarded .grouped (overCache fun pas _ => .cacheWb pas)
  ∧ Completes (.cctlInv f) f unguarded .grouped (overCache fun pas _ => .cacheInv pas)
  ∧ Completes (.cctlInvall f) f unguarded .grouped (fun c s => some (outstanding (some 0) [] 0 .cacheInvAll c s))
  ∧ Completes (.cctlIinv f) f unguarded .grouped (overCache fun _ vas => .codeInv vas)

/-- R313 to R335: the accesses of lanes and of groups. -/
def Obligations.MemoryInstructions : Prop := Claims.LaneAccesses ∧ Claims.GroupAccesses

/-- R316: alignment is checked first, over all participants; a misaligned access faults and has no other effect. -/
def Obligations.MisalignedAccessFaults : Prop := ∀ f : Fields,
  let bad (z : Nat) (xs : Ictx → List (Nat × DWord)) (_ : State) (c : Ictx) : Prop := ∃ x ∈ xs c, x.2.toNat % z ≠ 0
  let z := accessSize f.srcc.toNat
  let n := atomicSize f
  let lanewise (i : Instr) (z : Nat) (off : BitVec 8) : Prop :=
    Faults i f unguarded .whole (bad z (addresses · off z)) (fun _ c => misaligned z (addresses c off z) c)
  let ofGroup (i : Instr) (z : Nat) : Prop :=
    Faults i f unguarded .grouped (fun _ c => c.g.fwd = false ∧ (c.a64 c.lead).toNat % z ≠ 0)
      (fun _ c => misaligned z (leadAddress c) c)
  lanewise (.ld f) z f.srcb ∧ lanewise (.st f) z f.dst
  ∧ (∀ i ∈ [Instr.atom f, .red f, .cas f],
      Faults i f unguarded .whole (bad n (addresses · 0 1)) (fun _ c => misaligned n (addresses c 0 1) c))
  ∧ lanewise (.ald f) 64 0 ∧ lanewise (.ast f) 64 0
  ∧ (∀ i ∈ [Instr.rel f, .acq f, .sigclr f], ofGroup i 128) ∧ ofGroup (.pzero f) 4096

/-- R318: of the stores of one instruction to one place the last listed, the highest lane's, is made; the others keep their
lanes' later accesses behind it, and every other access stays as it is. For AST this is the model's reading (log 7). -/
def Sys2Proof.Claims.HighestLaneStores : Prop :=
  ∀ accs : List Access, (highestStores accs).length = accs.length
    ∧ ∀ (k : Nat) (a : Access), accs[k]? = some a →
      ((∃ bs, a.op = .store bs) ∧ (∃ b ∈ accs.drop (k + 1), b.place = a.place) →
        (highestStores accs)[k]? = some { a with op := .covered a.op.size })
      ∧ (¬((∃ bs, a.op = .store bs) ∧ ∃ b ∈ accs.drop (k + 1), b.place = a.place) → (highestStores accs)[k]? = some a)

/-- R322, R324, R328, R330 and R335: what an operation leaves, from the number that stands there. -/
def Sys2Proof.Claims.OperationsLeave : Prop :=
  ∀ (w m b : Nat), (w = 32 ∨ w = 64) → m < 2 ^ w → b < 2 ^ w →
    let sx := fun x : Nat => (BitVec.ofNat w x).toInt
    let F := if w = 64 then f64 else f32
    (sx (atomic 1 w m b) = min (sx m) (sx b) ∧ sx (atomic 2 w m b) = max (sx m) (sx b))
    ∧ [0, 3, 4, 5, 6, 7, 8].map (fun op => atomic op w m b) =
        [(m + b) % 2 ^ w, min m b, max m b, m &&& b, m ||| b, m ^^^ b, b]
    ∧ atomic 9 w m b = (if b ≤ m then 0 else m + 1) ∧ atomic 10 w m b = (if m = 0 ∨ b < m then b else m - 1)
    ∧ atomic 11 w m b = F.add 0 m b ∧ atomic 12 w m b = F.minmax false false m b ∧ atomic 13 w m b = F.minmax true false m b
    ∧ ∀ (old : List Byte) (x y : BitVec 64) (wide : Bool), old.length = (if wide then 8 else 4) →
      let n := if wide then 8 else 4
      (natOfBytes old = x.toNat % 2 ^ (8 * n) → (AccessOp.cas wide x y).after old = some (bytesOfNat n y.toNat))
      ∧ (natOfBytes old ≠ x.toNat % 2 ^ (8 * n) → (AccessOp.cas wide x y).after old = none)
      ∧ ∀ (line : List Byte) (sig : BitVec 512) (add : Bool) (merge : Bool), line.length = 128 →
        ∃ out, (AccessOp.rel add x (if merge then some sig else none)).after line = some out ∧ out.length = 128
          ∧ BitVec.ofNat 64 (natOfBytes (out.take 8)) = (if add then BitVec.ofNat 64 (natOfBytes (line.take 8)) + x else x)
          ∧ (∀ k, k < 512 → ((out.getD (16 + k / 8) 0).getLsbD (k % 8) =
              ((line.getD (16 + k / 8) 0).getLsbD (k % 8) || (merge && sig.getLsbD k))))
          ∧ ((out.getD 8 0).getLsbD 0 = ((line.getD 8 0).getLsbD 0
              || (merge && 256 < ((List.range 512).filter fun k => (out.getD (16 + k / 8) 0).getLsbD (k % 8)).length)))

/-- R318, R322, R324, R328, R330 and R335: what stores and operations leave in memory. -/
def Obligations.StoresAndOperations : Prop := Claims.HighestLaneStores ∧ Claims.OperationsLeave

/-- R317, R318, R322 and R339: where the caches agree and no registration is under way, an access of a CU inside a line finds the
newest bytes at its place, where its L1 holds no older ones, and leaves there what its operation leaves, once what it has sent
is accepted; it changes no other byte of memory, and a load changes none. When an access is made is left open (log 7); the
frame-entry table, which is read only, is written by none (R457). -/
def Obligations.MemoryReadsBack : Prop :=
  ∀ (s : State) (c : Nat) (a : Access) (pa : Nat) (home : Bool), Coherent s → noneSent s → a.count = none →
    (∀ k, k < a.op.size → inPeer (pa + k) = false) → a.op ≠ .zeroLine → (∀ n, a.op ≠ .covered n) →
    pa % 128 + a.op.size ≤ 128 → tableRead s →
    (a.noL1 = true ∨ ∀ w ∈ wordsOf pa a.op.size, ∀ x, s.l1? c w = some x → x.value = s.word w) →
    let r := s.performMem c a pa home
    let t := r.2.acceptCu c
    (∀ n sg, a.op = .load n sg → r.1 = s.peek pa n ∧ ∀ x, newest t x = newest s x)
    ∧ ((∀ n sg, a.op ≠ .load n sg) → s.zeroingFrame pa = false →
      offTable s (wordsOf pa a.op.size) →
      ((∀ bs, a.op ≠ .store bs) → r.1 = s.peek pa a.op.size)
      ∧ (∀ new, a.op.after (s.peek pa a.op.size) = some new →
        t.peek pa a.op.size = new
        ∧ ∀ x, x < pa ∨ pa + a.op.size ≤ x → newest t x = newest s x)
      ∧ (a.op.after (s.peek pa a.op.size) = none → ∀ x, newest t x = newest s x))

/-- R73, R312, R323 and R326: MEMORY_ACCESS_COMPLETE makes the accesses of a lane and writes their registers; the
instruction completes with its last access, whose lines have then entered the signature. A FENCE completes when the
counters that it names have fallen and the registrations that it names are accepted; MONITOR_FIRE fires a monitor whose
word, as its scope sees it, differs. When each lane's access is made is left open and follows the events (log 2, log 7). -/
def Obligations.AccessesComplete : Prop :=
  ∀ (s : State) (g : Group) (o : Op), s.group? g.id = some g → g.op? o.id = some o → o.done = false →
    (∀ (accs : List Access) (lines : List Nat) (a : Access), o.kind = .access accs lines → a.isCovered = false →
      a.lane < 32 → accs.filter (fun b => b.lane == a.lane) = [a] →
      (∀ b ∈ accs, b.place = a.place → together a = true ∨ together b = true → b = a) →
      (∀ b ∈ accs, b.place = a.place → b.isCovered = true → s.inTurn g o.id b = true) → mayBeMade s g o.id a →
      let x := madeBy s g o.id a
      exec (.memoryAccessComplete g.id o.id (maskOf fun l => l == a.lane)) s =
        .next ((x.2.modGroup g.id fun h => h.land o.id (a.results x.1) []).leave g.id o.id (accs.filter fun b => b != a)
          (lines ++ a.lines) o.late))
    ∧ (∀ (flags scope : Nat) (u : State), o.kind = .fence flags scope → (flags.testBit 2 = true → g.counter 1 = 0) →
      (flags.testBit 3 = true → g.counter 3 = 0) →
      (if flags.testBit 0 = true ∧ scope ≠ 0 then s.settleSent g.cu else some s) = some u → ∀ m,
      exec (.memoryAccessComplete g.id o.id m) s =
        .next ((if flags.testBit 1 = true ∧ scope ≠ 0 then u.fullInvalidation g else u).finish g.id o.id))
    ∧ ∀ k, k < 4 → (g.monitor k).armed = true → (g.monitor k).fired = false →
      (∃ v, s.seen g (g.monitor k).scope (g.monitor k).va (if (g.monitor k).wide then 8 else 4) = some v ∧ v ≠ (g.monitor k).expect.toNat) →
      exec (.monitorFire g.id k) s = .next { s with groups := updId Group.id (fun _ =>
        { g with monitors := g.monitors.set k { g.monitor k with fired := true } }) s.groups g.id }

/-- R74, R237 and R319: a load or store of more than 8 bytes is one access for each 8-byte word; every other access is one.
MEMORY_ACCESS_COMPLETE of no lane makes one access, whose results wait to be written; of a record's load it keeps the word,
and a lane of which no word is left receives the form that its words hold. Which access, and when, is left open (log 2,
log 7). -/
def Obligations.WordsOfAccesses : Prop :=
  (∀ a : Access,
    ((∀ n sg, a.op ≠ .load n sg) → (∀ bs, a.op ≠ .store bs) → a.pieces = [a])
    ∧ (a.op.size ≤ 8 → a.pieces = [a])
    ∧ (8 < a.op.size → (∃ n sg, a.op = .load n sg) ∨ (∃ bs, a.op = .store bs) →
      a.pieces.length = a.op.size / 8
      ∧ ∀ k, k < a.op.size / 8 → ∃ p, a.pieces[k]? = some p ∧ p.lane = a.lane ∧ p.place = a.place.shift (8 * k)
        ∧ p.va = a.va + BitVec.ofNat 64 (8 * k) ∧ p.rets = (a.rets.drop (2 * k)).take 2
        ∧ (∀ n sg, a.op = .load n sg → p.op = .load 8 sg)
        ∧ ∀ bs, a.op = .store bs → p.op = .store ((bs.drop (8 * k)).take 8)))
  ∧ ∀ (s : State) (g : Group) (o : Op), s.group? g.id = some g → g.op? o.id = some o → o.done = false →
    (∀ (accs : List Access) (lines : List Nat), o.kind = .access accs lines → accs ≠ [] →
      (∀ a ∈ accs, a.isCovered = false ∧ together a = false ∧ mayBeMade s g o.id a) →
      ∃ a ∈ accs,
        let x := madeBy s g o.id a
        exec (.memoryAccessComplete g.id o.id 0) s =
          .next (x.2.leave g.id o.id (accs.filter fun b => b != a) (lines ++ a.lines) (o.late ++ a.results x.1)))
    ∧ ∀ (accs : List Access) (read : List RecordRead), o.kind = .formLoad accs read → accs ≠ [] →
      (∀ a ∈ accs, mayBeMade s g o.id a) →
      ∃ a ∈ accs,
        let x := madeBy s g o.id a
        let rest := accs.filter fun b => b != a
        let read' := read ++ [⟨a.lane, a.va.toNat % 64, x.1⟩]
        let whole := o.pend &&& maskOf fun l => rest.all fun b => b.lane != l
        let forms : List FormWrite := o.dsts.flatMap fun d => (lanesOf whole).map fun l =>
          ⟨d - 256, l, formOf (natOfBytes ((List.range 8).flatMap fun k =>
            ((read'.find? fun r => r.lane == l && r.off == 8 * k).map RecordRead.bytes).getD []))⟩
        exec (.memoryAccessComplete g.id o.id 0) s =
          .next ((x.2.modGroup g.id fun h => (h.land o.id [] forms).modOp o.id fun p =>
            { p with kind := .formLoad rest read', pend := p.pend &&& ~~~whole }).close g.id o.id)

/-- R293, R294, R299 and R308: a copy may be made one unit at a time: an element of CPYR, an aligned word of team scratchpad,
or an aligned word of memory with all the elements that it touches. A unit cuts every run that it meets into what is moved
and what is left, and the last unit is left to the landing (log 7). -/
def Sys2Proof.Claims.UnitsOfCopies : Prop :=
  (∀ (m : Move) (op : MoveOp) (k : Nat), k < m.size → 0 < op.grain →
    (m.unit op k).1 ≤ m.imageAt + k ∧ m.imageAt + k < (m.unit op k).2)
  ∧ (∀ (m : Move) (lo hi k : Nat), k < m.size →
    let within (ps : List Move) : Prop := ∃ p ∈ ps, ∃ j, p = m.part j p.size ∧ j ≤ k ∧ k < j + p.size
    (within (m.split lo hi).1 ↔ lo ≤ m.imageAt + k ∧ m.imageAt + k < hi)
    ∧ (within (m.split lo hi).2 ↔ ¬(lo ≤ m.imageAt + k ∧ m.imageAt + k < hi)))
  ∧ ∀ (s : State) (g : Group) (o : Op), s.group? g.id = some g → g.op? o.id = some o → o.done = false →
    ∀ (moves : List Move) (op : MoveOp) (lines : List Nat) (target : Target), o.kind = .copy moves op lines target →
      op ≠ .fetch → moves ≠ [] → s.held = [] → s.slots = [] → s.poison = [] → (∀ t ∈ s.teams, t.poison = []) →
      ∃ m ∈ moves, ∃ k, k < max 1 m.size ∧
        let u := m.unit op k
        let parts := moves.flatMap fun x => (x.split u.1 u.2).1
        let rest := moves.flatMap fun x => (x.split u.1 u.2).2
        let r := s.runUnit g o.id op [] [] parts
        (rest = [] → exec (.memoryAccessComplete g.id o.id 0) s = .next s)
        ∧ (rest ≠ [] → exec (.memoryAccessComplete g.id o.id 0) s = .next
            (if r.1 then (r.2.2.cureWhole s g [] [] op parts).setKind g.id o.id (.copy rest op (lines ++ r.2.1) target)
              else r.2.2))

/-! ### The matrix row -/

/-- R257 and R258: a chunk's products are summed exactly with the accumulator, and the sum is rounded once, to nearest. -/
def Obligations.ChunksRoundOnce : Prop :=
  ∀ F ∈ [f32, f64], ∀ (c : Nat) (x : ℝ) (as bs : List Machine.Num) (us vs : List ℝ), c < 2 ^ F.width → realOf F c = some x →
    as.length = bs.length → realNums as = some us → realNums bs = some vs →
    let y := x + (List.zipWith (· * ·) us vs).sum
    y ≠ 0 → Rounded F 0 (y < 0) |y| (chunkAdd F c (chunkSum (List.zipWith mulNum as bs)))

/-- R42, R267 and R269: MMA, MMAS, MMACB and MMAD sign their join and hold their lanes until it is complete; lanes that
the join does not declare raise JOIN_MISMATCH. -/
def Obligations.MultipliesJoin : Prop := ∀ f : Fields,
  let mismatch (i : Instr) (gd : State → Group → Fields → Guard) : Prop :=
    Faults i f gd .whole (fun _ c => c.g.handler = false ∧ stray c ≠ 0)
      (fun _ c => ⟨0x0D, stray c, BitVec.ofNat 32 (f.dst.toNat % 16), c.addr, 0⟩)
  Completes (.mma f) f (mulGuard false) .whole (multiplied (.mma f)) ∧ mismatch (.mma f) (mulGuard false)
  ∧ Completes (.mmas f) f (mulGuard false) .whole (multiplied (.mmas f)) ∧ mismatch (.mmas f) (mulGuard false)
  ∧ Completes (.mmacb f) f (mulGuard true) .whole (multiplied (.mmacb f)) ∧ mismatch (.mmacb f) (mulGuard true)
  ∧ Completes (.mmad f) f madGuard .whole (multiplied (.mmad f)) ∧ mismatch (.mmad f) madGuard

/-- R256, R263 and R271 to R275: MBMAP, MZERO, MSCALE, MLDF and MSTF issue to the engine with results known at issue;
MSCALE's latches take them at once, and a latch that it does not name stays; the blocks that they capture are read in every
lane (R74). That MBMAP ignores a scale in its slot
is the model's reading (log 36). -/
def Sys2Proof.Claims.MatrixInstructions : Prop := ∀ f : Fields,
  let d := f.dst.toNat
  let n := fragRegs f.mod
  let ifAny (F : Ictx → State → Option State) (c : Ictx) (s : State) := if c.parts = 0 then some s else F c s
  Completes (.mbmap f) f mapGuard .whole (ifAny fun c s =>
      let x := blockMap c.g (slotElement (s.slotBits c.g (f.srca.toNat % 8))) (f.srca.toNat / 8 * 8)
      atEngine c [d, d + 1] (everywhere d (x.extractLsb' 0 32) ++ everywhere (d + 1) (x.extractLsb' 32 32)) []
        (blockRead (f.srca.toNat / 8 * 8) 16 c s))
  ∧ Completes (.mzero f) f unguarded .whole (ifAny fun c s =>
      let rs := (List.range (if f.mod = 0 then 32 else 16)).map (d + ·)
      atEngine c rs (rs.flatMap fun r => everywhere r 0) [] s)
  ∧ Completes (.mscale f) f unguarded .whole (ifAny fun c s =>
      atEngine c [] [] []
        ((blockRead f.srca.toNat 4 c s).modGroup c.g.id fun g => g.loadScales (f.mod == 1) f.srca.toNat))
  ∧ (∀ (g : Group) (b : Bool) (first x q : Nat), q < 16 → x < 32 →
      (g.loadScales b first).scaleOf b x q = ((g.reg (first + q / 4) x).extractLsb' (8 * (q % 4)) 8).toNat
      ∧ (g.loadScales b first).scaleOf (!b) x q = g.scaleOf (!b) x q)
  ∧ Completes (.mldf f) f unguarded .whole (ifAny fun c s =>
      match imageAt c (128 * n) s with
      | none => none
      | some (t, i, o) =>
        if s.scratchPoisoned t i o (128 * n) ≠ [] then none
        else
          atEngine c ((List.range n).map (d + ·)) [] ((List.range (32 * n)).map fun w =>
            ⟨w / n, BitVec.ofNat 64 ((c.g.reg f.srca.toNat c.lead).toNat + 4 * w), .scratch t i (o + 4 * w),
              .load 4 false, false, false, none, [d + w % n], false⟩) s)
  ∧ Completes (.mstf f) f unguarded .whole (ifAny fun c s =>
      match imageAt c (128 * n) s with
      | none => none
      | some (t, i, o) =>
        atEngine c [] [] ((List.range (32 * n)).map fun w =>
          ⟨w / n, BitVec.ofNat 64 ((c.g.reg f.srca.toNat c.lead).toNat + 4 * w), .scratch t i (o + 4 * w),
            .store ((List.range 4).map fun k => (c.g.reg (f.srcb.toNat + w % n) (w / n)).extractLsb' (8 * k) 8),
            false, false, none, [], false⟩) (blockRead f.srcb.toNat n c s))

/-- R262, R263 and R267: the engine starts the instruction at the head of its queue; a started one with registers alone
writes them all, completes and leaves the queue, and no other group and no memory changes. -/
def Sys2Proof.Claims.MatrixEngineRuns : Prop :=
  ∀ (s : State) (g : Group) (o : Op) (cu : Nat) (rest : List (Nat × Nat)) (regs : List RegWrite) (image : List Access),
    s.group? g.id = some g → g.op? o.id = some o → (g.ops.map Op.id).Nodup → (s.cu cu).matrixQueue = (g.id, o.id) :: rest →
    (o.kind = .matrix regs image false → exec (.matrixEngineStart cu) s =
      .next { s with groups := updId Group.id (fun _ => { g with
        ops := updId Op.id (fun o => { o with kind := .matrix regs image true }) g.ops o.id }) s.groups g.id })
    ∧ (o.kind = .matrix regs [] true → o.fixed = [] → g.redirect = none →
      ∃ t h, exec (.matrixComplete cu) s = .next t ∧ (t.cu cu).matrixQueue = rest ∧ t.mem = s.mem ∧ t.teams = s.teams
        ∧ (∀ k, k ≠ g.id → t.group? k = s.group? k) ∧ t.group? g.id = some h
        ∧ (∀ r l, h.reg r l = (g.writeRegs regs).reg r l) ∧ h.lanes = g.lanes
        ∧ ∀ p ∈ h.ops, p.id = o.id → p.done = true ∧ p.pend = 0)

/-- R256, R262, R263, R267 and R271 to R275: the other matrix instructions, and the engine that runs them. -/
def Obligations.MatrixEngine : Prop := Claims.MatrixInstructions ∧ Claims.MatrixEngineRuns

/-! ### The affine row -/

/-- R220, R222 to R224, R238 and R239: the result of AADD, ASUB, ANEG and AMUL encloses the operation's value for every
value of the symbols for which the operands enclose theirs; a product gives its fresh symbol one. -/
def Obligations.AffineResultsEnclose : Prop :=
  ∀ (x y : Form) (e : Nat → ℝ) (u v : ℝ), ordinary x → ordinary y → (∀ n, |e n| ≤ 1) → encloses x e u → encloses y e v →
    encloses (aaddsub false x y) e (u + v) ∧ encloses (aaddsub true x y) e (u - v) ∧ encloses (anegForm x) e (-u)
    ∧ ∀ id, id < 2 ^ 24 → (∀ t ∈ x.terms ++ y.terms, t.id.toNat ≠ id) →
      ∃ a : ℝ, |a| ≤ 1 ∧ encloses (amulForm x y none id) (Function.update e id a) (u * v)

/-- R226 to R228: the ids that `n` participants take are the rest of the hand and then the first of hand H; there are none
where the hand is short and the allowance is spent. -/
def Sys2Proof.Claims.SymbolsInOrder : Prop :=
  ∀ h a next left n : Nat,
    (takeIds h a next left n = none ↔ left < n ∧ (a = 0 ∨ h = 2 ^ 18))
    ∧ ∀ ids next' left' deal, takeIds h a next left n = some (ids, next', left', deal) →
      ids.length = n ∧ (deal = true ↔ left < n)
      ∧ (∀ k, k < n → ids[k]? = some (if k < left then next + k else 64 * h + (k - left)))
      ∧ (n ≤ left → next' = next + n ∧ left' = left - n)
      ∧ (left < n → n ≤ left + 64 → next' = 64 * h + (n - left) ∧ left' = 64 - (n - left))

/-- R231, R236 to R246: the affine instructions. -/
def Sys2Proof.Claims.AffineInstructions : Prop := ∀ f : Fields,
  let mod := f.mod.toNat
  Completes (.amov f) f unguarded .whole (writesForm fun c l => c.fa l)
  ∧ Completes (.aadd f) f unguarded .whole (writesForm fun c l => aaddsub false (c.fa l) (c.fb l))
  ∧ Completes (.asub f) f unguarded .whole (writesForm fun c l => aaddsub true (c.fa l) (c.fb l))
  ∧ Completes (.aneg f) f unguarded .whole (writesForm fun c l => anegForm (c.fa l))
  ∧ Completes (.ascl f) f unguarded .whole (writesForm fun c l => ascl (c.fa l) (c.b64 l).toNat)
  ∧ Completes (.anew f) f unguarded .whole (fun c s =>
      match s.mint c with
      | .error _ => none
      | .ok (id, t) =>
        writesForm (fun c l => Machine.anew (c.a64 l).toNat (c.g.reg f.srcb.toNat l).toNat (id l)) c t)
  ∧ Completes (.amul f) f unguarded .whole (mintsForm fun c l id => amulForm (c.fa l) (c.fb l) none id)
  ∧ Completes (.afma f) f unguarded .whole (mintsForm fun c l id => amulForm (c.fa l) (c.fb l) (some (c.fc l)) id)
  ∧ Completes (.arcp f) f unguarded .whole (mintsForm fun c l id => arcpForm (c.fa l) id)
  ∧ Completes (.asqrt f) f unguarded .whole (mintsForm fun c l id => asqrtForm (c.fa l) id)
  ∧ Completes (.afold f) f unguarded .whole (mintsForm fun c l id => afoldForm (c.fa l) f.srcc.toNat (f.mod == 1) id)
  ∧ Completes (.ald f) f unguarded .whole (fun c s =>
      if c.parts = 0 then some s
      else
        match s.reach c 64 .read (records c) (fun _ => .load 64 false) false [f.dst.toNat] with
        | .error _ => none
        | .ok (accs, t) => some (outstanding (some 0) [256 + f.dst.toNat] c.parts (.formLoad accs []) c t))
  ∧ Completes (.ast f) f unguarded .whole (overMemory 64 .write records (fun c l => .store (c.fb l).record) false [] · ·)
  ∧ Writes (.acen f) f unguarded (intoPair fun c l => (c.fa l).centre)
  ∧ Writes (.arad f) f unguarded (intoPair fun c l => aradForm (c.fa l) mod)
  ∧ Writes (.aterm f) f unguarded (intoPair fun c l =>
      (atermForm (c.fa l) f.srcc.toNat).2 ++ (atermForm (c.fa l) f.srcc.toNat).1)
  ∧ Completes (.adeckRead f) f unguarded .grouped deckRead
  ∧ Completes (.adeckAdd f) f unguarded .grouped deckRead
  ∧ Completes (.adeckSet f) f unguarded .grouped deckRead

/-- R246 and R247: an ADECK's effect on its context's Deck comes at one time, which is left open (log 2): by itself, with
the values that it is to write known from then on, or as the first of them land. -/
def Sys2Proof.Claims.DeckTakesEffect : Prop :=
  ∀ (s : State) (g : Group) (o : Op) (ctx : Context) (mod b dst : Nat) (m : Mask), s.group? g.id = some g →
    g.op? o.id = some o → (g.ops.map Op.id).Nodup → o.kind = .deck mod b dst → o.late = [] → o.done = false →
    s.contextOf? g = some ctx →
    let d := deckNext mod b ctx.deckH ctx.deckA
    let t := (s.modContext ctx.asid fun x => { x with deckH := d.1, deckA := d.2 }).setOp g.id o.id
      (.result (deckValues d g o.pend dst) []) []
    exec (.longLatencyResult g.id o.id 0) s = .next t
    ∧ (m ≠ 0 → exec (.longLatencyResult g.id o.id m) s = exec (.longLatencyResult g.id o.id m) t)

/-- R226 to R228, R231 and R236 to R246: the affine instructions, and the symbols that they take. -/
def Obligations.AffineFamily : Prop := Claims.SymbolsInOrder ∧ Claims.AffineInstructions ∧ Claims.DeckTakesEffect

/-! ### The copy row -/

/-- R278: the rows of a tile, each from its element of dimension 0 on, at its place in the image. -/
def Sys2Proof.Claims.TileRows : Prop :=
  ∀ (t : Tensor) (origin : List Int) (b : Nat → Nat) (r : Run), r ∈ t.runs origin b ↔
    ∃ j1 j2 j3 j4, j1 < b 1 ∧ j2 < b 2 ∧ j3 < b 3 ∧ j4 < b 4
    ∧ r.size = t.row ∧ r.off = (((j4 * b 3 + j3) * b 2 + j2) * b 1 + j1) * t.row
    ∧ r.va = (BitVec.ofInt 64 (t.base.toNat + origin.getD 0 0 * halfBytes t.format / 2
        + (origin.getD 1 0 + j1) * t.stride.getD 1 0 + (origin.getD 2 0 + j2) * t.stride.getD 2 0
        + (origin.getD 3 0 + j3) * t.stride.getD 3 0 + (origin.getD 4 0 + j4) * t.stride.getD 4 0)).toNat

/-- R281, R286 and R293 to R297: CPYL, CPYS, CPYG, CPYR, CPYP and COLL whose checks pass become outstanding with their
moves and their target. -/
def Obligations.CopyInstructions : Prop := ∀ f : Fields,
  Completes (.cpyl f) f unguarded .grouped (tileCopied true false false (fun t => .copy t.grain) (fun _ => true) .read)
  ∧ Completes (.cpys f) f unguarded .grouped (tileCopied false true true (fun t => .copy t.grain) (fun _ => true) .write)
  ∧ Completes (.cpyr f) f unguarded .grouped
      (tileCopied true true true (fun t => .add t.format) (fun k => k == 9 || k == 1 || k == 2 || k == 3) .readWrite)
  ∧ Completes (.cpyg f) f unguarded .grouped gathered
  ∧ Completes (.cpyp f) f unguarded .grouped prefetched
  ∧ Completes (.collAllred f) f unguarded .grouped collected
  ∧ Completes (.collAllgath f) f unguarded .grouped collected
  ∧ Completes (.collRedscat f) f unguarded .grouped collected
  ∧ Completes (.collSend f) f unguarded .grouped collected
  ∧ Completes (.collRecv f) f unguarded .grouped collected

/-- R289 and R293: the moves of a unit that is performed leave at their destination the bytes that stood at their source;
where the caches agree these are the newest, and no registration is under way. The frame-entry table is read only (R457). -/
def Sys2Proof.Claims.CopyMovesBytes : Prop :=
  ∀ (s u : State) (g : Group) (id grain : Nat) (m : Move) (lines : List Nat), Coherent s → noneSent s →
    m.srcCount = none → m.dstCount = none → (∀ off, m.src ≠ .param off ∧ m.dst ≠ .param off) →
    (∀ pa, m.src = .mem pa ∨ m.dst = .mem pa → ∀ k, k < m.size → inPeer (pa + k) = false) →
    tableRead s →
    (∀ pa, m.dst = .mem pa → s.zeroingFrame pa = false ∧ offTable s (wordsOf pa m.size)) →
    (∀ t i off, m.dst = .scratch t i off → (s.team? t).isSome = true) →
    s.runUnit g id (.copy grain) [] [] [m] = (true, lines, u) →
    u.bytesAt m.dst m.size = s.bytesAt m.src m.size

/-- R290, R291, R296 and R297: a copy lands once every run is moved: its lines enter the signature, its tag is set, and it
completes; what cannot be moved is left. Data from a peer is kept for the collective of a context that exists, with the
operation and the byte count of the peer (log 38). -/
def Sys2Proof.Claims.CopiesLand : Prop :=
  ∀ (s : State) (g : Group) (o : Op), s.group? g.id = some g → g.op? o.id = some o → o.done = false →
    let entered (lines : List Nat) (u : State) : State :=
      u.modGroup g.id fun h => { h with sig := lines.foldl (fun x l => x ||| sigBits l) h.sig }
    let tagged (k : Nat) (u : State) : State := u.modTeam g.team fun t =>
      { t with tags := t.tags.set (t.cuIndex g) (t.tags.getD (t.cuIndex g) 0 ||| (1#64 <<< k)) }
    (∀ moves op lines target, o.kind = .copy moves op lines target → (target = .none ∨ ∃ k, target = .tag k) →
      let r := s.moveAll g.id o.id op [] [] moves lines
      let u := r.2.2.setKind g.id o.id (.copy r.1 op r.2.1 target)
      (r.1 ≠ [] → exec (.copyLand g.id o.id) s = .next u)
      ∧ (r.1 = [] → (∃ h, u.group? g.id = some h ∧ h.team = g.team ∧ h.index = g.index) →
        exec (.copyLand g.id o.id) s = .next
          (match target with
            | .tag k => (tagged k (entered r.2.1 u)).finish g.id o.id
            | _ => (entered r.2.1 u).finish g.id o.id)))
    ∧ ∀ asid coll rank data, (s.context? asid).isSome = true → exec (.collPeerData asid coll rank data) s =
      .next { s with peerData := s.peerData ++ [⟨asid, coll, rank, s.input.nums.getD 0 0, s.input.nums.getD 1 data.length,
        data, s.input.nums.drop 2⟩] }

/-- R278, R289, R290, R293, R294, R296 and R297: the rows of tiles, the bytes that copies move, and their landing. -/
def Obligations.TilesLand : Prop := Claims.TileRows ∧ Claims.UnitsOfCopies ∧ Claims.CopyMovesBytes ∧ Claims.CopiesLand

/-! ### The registry -/

/-- R399, R403, R404, R407 and R408: ASMK, ASDROP, ASQRY, RENTER and RLEAVE; a RENTER or RLEAVE reached by some of the
live lanes alone, or a RENTER outside every region, raises REGION_ESCAPE. -/
def Sys2Proof.Claims.RegistryInstructions : Prop := ∀ f : Fields,
  let apart (c : Ictx) : Prop := c.g.live &&& ~~~c.all ≠ 0
  Completes (.asmk f) f asmkGuard .grouped assumed
  ∧ Completes (.asdrop f) f unguarded .grouped droppedBy
  ∧ Completes (.asqry f) f unguarded .whole (fun c s =>
      pending [f.dst.toNat] (fun c => c.each fun l => queried s (s.asidOf c.g) (c.a64 l)) c s)
  ∧ Completes (.renter f) f unguarded .whole regionEntered
  ∧ Completes (.rleave f) f unguarded .whole regionLeft
  ∧ Faults (.renter f) f unguarded .whole (fun s c => s.regionAt c.g c.addr = none)
      (fun _ c => ⟨0x26, c.all, 0xFFFFFFFF, c.addr, c.addr⟩)
  ∧ ∀ i ∈ [Instr.renter f, .rleave f], ∀ k : Nat, Faults i f unguarded .whole
      (fun s c => apart c ∧ ∃ r, s.regionAt c.g c.addr = some (k, r)) (fun _ c => ⟨0x26, c.all, BitVec.ofNat 32 k, c.addr, c.addr⟩)

/-- R397, R399 and R407: an assumption that is made takes the next generation of a free slot of the package, is LIVE, and
its handle is current for its context alone; no other slot changes, and a failing row leaves every slot. RENTER passes
where every assumption of its region is LIVE. -/
def Sys2Proof.Claims.AssumptionsMade : Prop :=
  (∀ (s : State) (ctx : Context) (kind x : Nat), kind < 4 → ctx.asid < 1024 →
    let r := s.makeAssumption ctx kind x
    (descriptorOk x kind = false → r = (3, 0, s))
    ∧ (descriptorOk x kind = true → ctx.quota ≤ s.slotsHeld ctx.asid → r = (1, 0, s))
    ∧ (r.1 ≠ 0 → r.2.1 = 0 ∧ r.2.2.slots = s.slots)
    ∧ (r.1 = 0 → ∃ k, k < 4096 ∧ (s.slot k).state = .free ∧ (s.slot k).revocation = none
        ∧ (r.2.2.slot k).state = .live ∧ (r.2.2.slot k).gen = (s.slot k).issued + 1 ∧ (r.2.2.slot k).asid = ctx.asid
        ∧ (r.2.2.slot k).kind = kind ∧ r.2.2.holds (r.2.2.slot k) 0 [] = true
        ∧ ((s.slot k).issued + 1 ≠ 0 → ∀ a, r.2.2.currentHandle a r.2.1 = true ↔ a = ctx.asid)
        ∧ handleSlot r.2.1 = k ∧ ∀ j, j ≠ k → r.2.2.slot j = s.slot j))
  ∧ ∀ (s : State) (g : Group) (r : Region) (l : Launch), s.launchOf? g = some l →
    (s.notLive g r = none ↔ ∀ i ∈ r.idx, s.currentHandle (s.asidOf g) (l.handles.getD i 0) = true
      ∧ (s.slot (handleSlot (l.handles.getD i 0))).state ≠ .broken)

/-- R397, R399, R403, R404, R407 and R408: the registry's instructions, and the assumptions that they make. -/
def Obligations.Assumptions : Prop := Claims.RegistryInstructions ∧ Claims.AssumptionsMade

/-- R402, R409 to R412: a caught write breaks the LIVE assumptions that it leaves false, and no other; a dependant
stops, is redirected, on its CU or in its saved image, once its reads are performed, and is awaited no more; with every
acknowledgement the revocation is complete, its watch is gone, and no held write waits for it. The order in which
held writes are judged is the model's reading (log 42). -/
def Obligations.RevocationsRun : Prop :=
  (∀ (s : State) (h : Held), findId Held.id s.held h.id = some h → s.evaluable h = true →
    ∃ t, exec (.caughtWriteEvaluate h.id) s = .next t ∧
      ∀ k, (s.slot k).state = .live →
        (t.slot k).state =
          if k ∈ s.watchers h.place h.op.size
            ∧ ∃ bs ∈ leavings h.ops (s.peek h.place h.op.size), s.holds (s.slot k) h.place bs = false
          then .broken else .live)
  ∧ (∀ (s : State) (k : Nat) (v : Revocation) (g : Group) (i n : Nat) (l : Launch) (r : Region),
    (s.slot k).revocation = some v → v.toSend.find? (fun d => d.1 == g.id) = some (g.id, i) → s.group? g.id = some g →
    s.beyond g k = false → g.handler = false → g.redirect = none → g.region = some n → s.launchOf? g = some l →
    l.regions[n]? = some r →
    exec (.revocationDeliver k g.id) s = .next
      { s with
        slots := supd Slot.empty s.slots k fun x => { x with
          revocation := some ⟨v.reason, v.toSend.filter fun e => e.1 != g.id, v.waiting ++ [(g.id, i)]⟩ }
        groups := updId Group.id (fun _ =>
          { g with
            wait0 := .none, wait1 := .none, waitSlot0 := 0, waitSlot1 := 0, trapWait := none
            redirect := some ⟨r.handler, r.cause, BitVec.ofNat 32
              (1 * 2 ^ 24 + v.reason * 2 ^ 20 + (s.slot k).kind * 2 ^ 18 + i * 2 ^ 15 + k), false⟩ }) s.groups g.id })
  ∧ (∀ (s : State) (k : Nat) (g : Group) (c : Context) (r : Redirect), s.group? g.id = some g → s.awaits k g.id = true →
    s.contextOf? g = some c → c.state ≠ .ending → g.redirect = some r → r.moved = false → g.handler = false →
    g.live ≠ 0 → g.lanes.length = 32 → r.handler ≠ exitedPc →
    (s.saved g = false → s.readsDone g = true → ∃ t h, exec (.revocationAck k g.id) s = .next t
      ∧ t.group? g.id = some h ∧ redirected r g h ∧ t.awaits k g.id = false)
    ∧ (s.saved g = true → s.readsDone g = true → ∃ t h, exec (.imagePatch k g.id) s = .next t
      ∧ t.group? g.id = some h ∧ redirected r g h ∧ t.awaits k g.id = false))
  ∧ ∀ (s : State) (k : Nat), s.acked k = true → ∃ t, exec (.heldWriteRelease k) s = .next t
    ∧ (t.slot k).revocation = none ∧ (t.slot k).watches = []
    ∧ ((s.slot k).dropping = true → (t.slot k).state = .free) ∧ ∀ h ∈ t.held, k ∉ h.slots

/-! ### Spawns, launches and checkpoints -/

/-- R45, R428 and R444: SPAWN, LAUNCH and CKPT; in handler mode CKPT raises HANDLER_STATE. Which memory a CKPT asks for is
the model's choice (log 29). -/
def Sys2Proof.Claims.SpawnLaunchCkpt : Prop := ∀ f : Fields,
  Completes (.spawn f) f unguarded .whole (fun c s => spawned c s)
  ∧ Completes (.launch f) f unguarded .grouped launchedBy
  ∧ Completes (.ckpt f) f unguarded .halved checkpointed
  ∧ Faults (.ckpt f) f unguarded .halved (fun _ c => c.lanes ≠ 0 ∧ c.g.handler = true)
      (fun _ c => ⟨0x11, c.all, 0, c.addr, c.word⟩)

/-- R45 to R49: a record enters its bin, opens one, or is turned away; a bin closes at 32 records or with its timer, once its
die's queue has room; the records arrive once what their CU has sent is accepted (R123), and the statuses land with SPAWN's
result; and a pending group that is placed is a spawn team of one group, whose lanes start past
the kernel header with their arguments. -/
def Sys2Proof.Claims.SpawnedGroups : Prop :=
  (∀ (s : State) (die : Nat) (ctx : Context) (l : Launch) (r : ThreadRecord),
    let y := s.takeRecord die ctx l r
    (∀ b, s.binFor die ctx.asid l.id r.entry = some b → b.records.length < 31 →
      y = (0, { s with bins := updId Bin.id (fun _ => { b with records := b.records ++ [r] }) s.bins b.id }))
    ∧ (∀ b, s.binFor die ctx.asid l.id r.entry = some b → b.records.length = 31 → s.queued b.die < 256 →
      y = (0, closedBin s b (b.records ++ [r]) (delId Bin.id s.bins b.id)))
    ∧ (s.binFor die ctx.asid l.id r.entry = none →
      (s.spawnEntry? ctx r.entry = none → y = (2, s))
      ∧ ∀ w, s.spawnEntry? ctx r.entry = some w → y =
        if (s.bins.filter fun b => b.die == die).length < 64 then
          (0, { s with bins := s.bins ++ [⟨s.nextId, die, ctx.asid, l.id, r.entry, w, [r], l.info.spawnTimer⟩], nextId := s.nextId + 1 })
        else (1, s)))
  ∧ (∀ (s u : State) (g : Group) (o : Op) (ctx : Context) (l : Launch) (rs : List ThreadRecord) (dst : Nat),
    s.group? g.id = some g → g.op? o.id = some o → o.kind = .spawn rs dst → o.done = false → s.contextOf? g = some ctx →
    s.launchOf? g = some l → s.settleSent g.cu = some u →
    let y := arrivals (dieOfCu g.cu) ctx l rs u
    exec (.spawnRecordArrival g.id o.id) s = .next
      ((y.2.modGroup g.id fun h => h.land o.id ((lanesOf o.lanes).map fun i =>
        ⟨dst, i, BitVec.ofNat 32 ((y.1.lookup i).getD 1)⟩) []).finish g.id o.id))
  ∧ (∀ (s : State) (b : Bin) (c : Context), findId Bin.id s.bins b.id = some b → b.left = 0 ∨ 32 ≤ b.records.length →
    s.context? b.asid = some c → c.state = .running → s.queued b.die < 256 →
    exec (.spawnBinTimerExpiry b.die b.id) s = .next (closedBin s b b.records (delId Bin.id s.bins b.id)))
  ∧ ∀ (s : State) (die cu : Nat) (w : Work) (p : Pending) (cus : List Nat),
    s.nextWork = some w → w.die = some die → w.job = .spawn p.id → findId Pending.id s.pending p.id = some p →
    s.setOf w (cu / 8) (some cu) = some cus → (∀ c ∈ cus, s.converted w c = true) → p.records.length ≤ 32 →
    (∀ r ∈ p.records, r.args.length = 4) →
    ∃ t tm g, exec (.spawnGroupLaunch die cu) s = .next t ∧ t.pending = delId Pending.id s.pending p.id
      ∧ t.teams = s.teams ++ [tm] ∧ t.groups = s.groups ++ [g]
      ∧ tm.spawn = true ∧ tm.launch = p.launch ∧ tm.asid = p.asid ∧ tm.cus = [cus.getD 0 0] ∧ tm.residency = .resident
      ∧ (∀ t' ∈ s.teams, t'.spawn = true → t'.launch = p.launch → t'.number ≠ tm.number)
      ∧ g.team = tm.id ∧ g.cu = cus.getD 0 0 ∧ g.role = 0 ∧ g.nregs = p.word / 2 ^ 48 % 2 ^ 8 ∧ g.ops = []
      ∧ (∀ l, l < 32 → (g.lane l).pc = if l < p.records.length then p.entry + 8 else exitedPc)
      ∧ ∀ l r k, p.records[l]? = some r → k < 4 → k < g.nregs → g.reg k l = r.args.getD k 0

/-- R45 to R49, R428 and R444: SPAWN, LAUNCH and CKPT, and the groups that spawns become. -/
def Obligations.SpawnsAndLaunches : Prop := Claims.SpawnLaunchCkpt ∧ Claims.SpawnedGroups

/-! ### Fetch and translation -/

/-- R61, R87, R146 and R147: a header whose class the role does not admit raises ROLE_CLASS, one whose waits have not
ended holds its lanes, and any other lets them on to its first instruction; a miss is requested once, a line that
arrives holds the newest bytes, and IPREF requests lines for no group. That a header and its first instruction issue
in one step is the model's reading (log 8). -/
def Obligations.HeadersAndFetches : Prop :=
  (∀ (s : State) (cur : Cur) (g : Group) (h : Header), s.cur = some cur → s.group? cur.group = some g → h.engine ≠ 7 →
    g.role < 4 →
    let half := if cur.lanes &&& halfMask 1 = 0 then 0 else if cur.lanes &&& halfMask 0 = 0 then 1 else 2
    (¬ admitsClass g h.engine.toNat → exec (.clauseHeader h) s =
      .next (State.takeFault { s with cur := none } g ⟨0x06, cur.lanes, BitVec.ofNat 32 g.role, cur.addr, cur.word⟩))
    ∧ (admitsClass g h.engine.toNat → ¬ headerPasses g half h → exec (.clauseHeader h) s = .next { s with cur := none })
    ∧ (admitsClass g h.engine.toNat → headerPasses g half h → exec (.clauseHeader h) s =
      .next { s with
        cur := none
        groups := updId Group.id (fun _ => g.modLanes cur.lanes fun l =>
          { l with pos := ⟨cur.addr + 8, cur.addr, cur.word, .inClause⟩ }) s.groups g.id }))
  ∧ (∀ (s u : State) (g : Group) (line pa : Nat) (n : Option Nat), s.group? g.id = some g →
    s.missOf g (s.fronts g) = some (line, pa, n, u) →
    exec (.fetchMiss g.id) s =
      .next (u.modCu g.cu fun k => { k with fetching := k.fetching ++ [⟨s.asidOf g, line, pa, n, false⟩] }))
  ∧ (∀ (s : State) (cu : Nat) (x : Fetching), Coherent s →
    (s.cu cu).fetching.find? (fun y => y.asid == x.asid && y.va == x.va) = some x →
    x.pa % 128 = 0 → inPeer x.pa = false → (∀ pa, x.count = some pa → pa / 128 ≠ x.pa / 128) → noneSent s →
    tableRead s → s.peerGone x.pa = false →
    s.accessWaits cu x.asid none x.access x.pa true = false →
    ∃ t l, exec (.fetchLineFill cu x.asid x.va) s = .next t ∧ l ∈ (t.cu cu).lines ∧ l.asid = x.asid ∧ l.va = x.va
      ∧ l.frame = x.pa / 4096 ∧ (t.cu cu).fetching = (s.cu cu).fetching.erase x
      ∧ ∀ k, k < 16 → l.words.getD k 0 = BitVec.ofNat 64 (natOfBytes (s.peek (x.pa + 8 * k) 8))
        ∧ (k ∈ l.bad ↔ s.poisoned (x.pa / 4 + 2 * k) = true ∨ s.poisoned (x.pa / 4 + 2 * k + 1) = true))
  ∧ ∀ f : Fields, Completes (.ipref f) f unguarded .grouped fun c s =>
      some ((List.range (f.srcc.toNat + 1)).foldl (fun u k =>
        askedAhead c.g (((c.a64 c.lead).toNat / 128 + k) % 2 ^ 57) u) s)

/-- R150, R151, R384 and R386: a walk that succeeds leaves a translation of the address, with the rights of the access, in
the CU's structure; page requests are sent in order and within the allocation, and what answers them is delivered. -/
def Obligations.WalksAndPageRequests : Prop :=
  (∀ (s : State) (cu : Nat) (c : Context) (va : DWord) (kind : AccessKind), s.context? c.asid = some c →
    (c.hosttab = false ∨ s.input.nums.length < 2) →
    let u := if kind = .fetch then TlbKind.code else TlbKind.data
    ∃ t, exec (.pageWalk cu c.asid va kind) s = .next t
      ∧ (∀ x, (s.translate cu u c va kind).1 = .ok x →
        x ∈ (t.cu cu).tlbs u ∧ x.hits c.asid c.func va.toNat = true ∧ rightsOk kind x.r x.w x.x = true)
      ∧ (∀ f, (s.translate cu u c va kind).1 = .error f → t = { s with draws := s.draws + 1 }))
  ∧ (∀ (s : State) (q : PageRequest), findId PageRequest.id s.pageReqs q.id = some q →
    (q.sent = false → s.pageReqs.find? (fun p => !p.sent && p.func == q.func) = some q → (s.func q.func).failed = false →
      (s.pageReqs.filter fun p => p.sent && p.func == q.func).length < min 512 (s.func q.func).alloc →
      exec (.pageRequestSend q.id) s =
        .next { s with pageReqs := updId PageRequest.id (fun _ => { q with sent := true }) s.pageReqs q.id })
    ∧ (q.sent = true → q.va % 4096 = 0 →
      let u : State := { s with
        pageReqs := delId PageRequest.id s.pageReqs q.id
        contexts := updId Context.asid (fun c => { c with lastProgress := s.now }) s.contexts q.asid }
      exec (.pageRequestResponse q.id .success) s =
        .next { u with groups := s.groups.map fun g =>
          match parkedFor q g with
          | some r => { g with parked := none, replays := g.replays + 1, lastFault := some r }
          | none => g }
      ∧ (∀ g r, s.group? g.id = some g → s.groups.filter (fun h => (parkedFor q h).isSome) = [g] → parkedFor q g = some r →
        (g.redirect = none ∨ g.handler = true) → exec (.pageRequestResponse q.id .invalidRequest) s = .next (u.takeTrap { g with parked := none } r))
      ∧ ∃ t, exec (.pageRequestResponse q.id .responseFailure) s = .next t ∧ (t.func q.func).failed = true
        ∧ ∀ p ∈ t.pageReqs, p.func = q.func → p.sent = true))
  ∧ ∀ s : State, s.input.fn < 64 → exec .pageRequestCapability s =
    .next (s.modFunc s.input.fn fun f =>
      { f with alloc := s.input.nums.getD 0 f.alloc, failed := if s.input.nums.getD 1 0 = 1 then false else f.failed })

/-! ### Scheduling -/

/-- R59 and R424 to R427: a doorbell moves TAIL or is counted; the entry at HEAD is accepted or refused with its
cause, and HEAD passes it; a node starts when its predecessors have completed; a group retires, with its last one its
team; and a launch completes, whose entry then has STATE 2, or awaits a checkpoint. What the scheduler writes waits for
the tokens of its lines (R369). The counter that a rejected doorbell adds to is the model's choice (log 21). -/
def Obligations.LaunchesRun : Prop :=
  (∀ (s : State) (c : Context) (q tail : Nat) (h : Queue),
    (rings s c q tail h → s.writesFree c [(c.header q, 32)] = true → exec .doorbell s = .next (s.setTail c q tail))
    ∧ ((∀ c q tail h, ¬ rings s c q tail h) → exec .doorbell s = .next (s.countError eDoorbell)))
  ∧ (∀ (s : State) (c : Context) (q : Nat) (h : Queue) (bs : List Byte), s.context? c.asid = some c → c.state = .running →
    c.ckptWanted = false → q < 8 → c.again.find? (fun e => e.1 == q) = none → s.queue? c q = some h → h.count ≠ 0 →
    s.readVa c (h.entry h.head) 32 = some bs → s.writesFree c (h.writes c q h.head) = true →
    let next (t : State) : State := t.setHead c q ((h.head + 1) % 2 ^ 16)
    let x := natOfBytes bs
    match s.checkEntry c x with
    | .error e => exec (.queueEntryConsider c.asid q) s = .next (next (s.setEntry c q h.head 3 (some e) none))
    | .ok (serial, ns) =>
      exec (.queueEntryConsider c.asid q) s = .next (next (s.accept c q h.head x serial ns))
      ∧ ∃ new, (s.accept c q h.head x serial ns).launches = s.launches ++ new ∧ new.length = ns.length
        ∧ ∀ l ∈ new, l.asid = c.asid ∧ l.queue = q ∧ l.entry = h.head ∧ l.done.toNat = x / 2 ^ 128 % 2 ^ 64
          ∧ (l.started = true ↔ x.testBit 64 = false) ∧ l.placed = 0 ∧ l.retired = 0)
  ∧ (∀ (s : State) (l : Launch) (r : Graph), s.launch? l.id = some l → l.started = false → l.graph ≠ 0 →
    findId Graph.id s.graphs l.graph = some r → (∀ k, k < 64 → l.preds.getLsbD k = true → r.ended.getLsbD k = true) →
    (r.serial = true → ∀ h ∈ s.graphs, h.asid = r.asid → h.header = r.header → r.id ≤ h.id) →
    exec (.graphNodeStart l.id) s =
      .next (s.modLaunch l.id fun l => { l with started := true }))
  ∧ (∀ (s : State) (g : Group) (t : Team) (c : Context), s.group? g.id = some g → g.live = 0 → g.ops = [] →
    s.contextOf? g = some c → c.state ≠ .ending → s.team? g.team = some t →
    let u : State := { s with groups := delId Group.id s.groups g.id }
    ((∃ h ∈ u.groups, h.team = t.id) → exec (.groupRetire g.id) s = .next (u.recheckTeam t.id))
    ∧ ((∀ h ∈ u.groups, h.team ≠ t.id) → exec (.groupRetire g.id) s =
      .next ({ u with
        teams := delId Team.id s.teams t.id
        launches := if t.spawn then s.launches else
          updId Launch.id (fun l => { l with retired := l.retired + 1 }) s.launches t.launch }.returnBlocks t.cus)))
  ∧ ∀ (s : State) (l : Launch) (c : Context), overNow s l c →
    (c.checkpoint.isSome = true → ∃ t, exec (.launchComplete l.id) s = .next t
      ∧ t.launch? l.id = some { l with complete := true } ∧ t.context? l.asid = some { c with ckptWanted := true })
    ∧ ∀ v, c.checkpoint = none → s.performAllSent = some v →
      let u : State := { v with launches := delId Launch.id v.launches l.id }
      (l.graph = 0 → v.reportFree l.asid (v.finishWrites l) = true → exec (.launchComplete l.id) s = .next ((u.setEntry c l.queue l.entry 2 none none).signalDone c l.done))
      ∧ ∀ r, l.graph ≠ 0 → findId Graph.id v.graphs l.graph = some r →
        (∃ k, k < r.count ∧ k ≠ l.node ∧ r.ended.getLsbD k = false) → r.count ≤ 64 → exec (.launchComplete l.id) s =
          .next { u with graphs := updId Graph.id (fun r => { r with ended := r.ended ||| 1#64 <<< l.node }) v.graphs r.id }

/-- R30, R31, R33, R34, R305 and R429: what is placed next is first in order of what fits; a set of CUs holds each
logical CU on a CU of its own; a new team's groups start at the kernel's entry, all registers zero; a team that was
swapped out goes on where it stopped, once the words that it watches are up to date (R356); and a way that becomes scratchpad loses no byte. The cluster that placement
takes is a free value (log 2); which lines a converted way held is the model's reading (log 6). -/
def Obligations.TeamsArePlaced : Prop :=
  (∀ (s : State) (w : Work), s.nextWork = some w →
    w ∈ s.works ∧ s.placeable w = true ∧ ∀ v ∈ s.works, s.placeable v = true → noLater w v)
  ∧ (∀ (s : State) (w : Work) (cl : Nat) (cus : List Nat), s.setOf w cl none = some cus →
    cus.length = w.cus ∧ cus.Nodup ∧ s.clusterOpen w.asid cl = true
    ∧ ∀ k, k < w.cus → cus.getD k 0 / 8 = cl ∧ s.fits w (cus.getD k 0) k = true ∧ w.at (cus.getD k 0) k = true)
  ∧ (∀ (s : State) (w : Work) (l : Launch) (cl : Nat) (cus : List Nat), s.nextWork = some w → w.job = .first l.id →
    s.launch? l.id = some l → s.setOf w cl none = some cus → (∀ c ∈ cus, s.converted w c = true) →
    ∃ t tm gs, exec (.teamPlace l.id cl) s = .next t ∧ t.teams = s.teams ++ [tm] ∧ t.groups = s.groups ++ gs
      ∧ tm.launch = l.id ∧ tm.number = l.firstTeam + l.placed ∧ tm.cus = cus ∧ tm.residency = .resident ∧ tm.spawn = false
      ∧ tm.waitStart = l.accepted ∧ tm.scratch = [] ∧ t.launch? l.id = some { l with placed := l.placed + 1 } ∧ gs.length = l.info.order.length
      ∧ ∀ k g, gs[k]? = some g → g.team = tm.id ∧ g.index = k ∧ (g.role, g.nregs) = l.info.order.getD k (0, 0)
        ∧ g.cu = cus.getD (k % cus.length) 0 ∧ g.fwd = l.fwd ∧ g.regs = [] ∧ g.aregs = [] ∧ g.ops = []
        ∧ ∀ i, i < 32 → (g.lane i).pc = l.info.kernel + 8)
  ∧ (∀ (s : State) (w : Work) (tm : Team) (cl : Nat) (cus : List Nat), s.nextWork = some w → w.job = .back tm.id →
    s.team? tm.id = some tm → tm.residency = .waiting → s.setOf w cl none = some cus → (∀ c ∈ cus, s.converted w c = true) →
    (s.groups.map Group.id).Nodup → (s.settleCus (s.sentToWatched tm)).isSome = true →
    ∃ t, exec (.teamPlace tm.id cl) s = .next t
      ∧ t.team? tm.id = some { tm with cus := cus, residency := .resident, placedAt := s.now, blockedAt := none }
      ∧ ∀ g ∈ s.groups, if g.team = tm.id then
          ∃ q, t.group? g.id = some { g with cu := cus.getD (g.index % cus.length) 0, quad := q, parked := none }
        else t.group? g.id = some g)
  ∧ ∀ (s : State) (w : Work) (c : Nat) (cus : List Nat), Coherent s → noneSent s → s.nextWork = some w → s.setOf w (c / 8) none = some cus →
    c ∈ cus → s.converted w c = false →
    ∃ t, exec (.sramWayConvert c) s = .next t ∧ (t.cu c).scratchBlocks = (s.cu c).scratchBlocks + 1 ∧ Coherent t
      ∧ (∀ pa, newest t pa = newest s pa)
      ∧ ∀ x ∈ (t.cu c).l1, x.1 / 32 ∉ linesBeyond (s.cu c).l1 (15 - (s.cu c).scratchBlocks)

/-- R432, R435 to R438: the forward-progress rule acts for a quiet CU alone, takes blocked teams of it alone, and serves the
work that has waited longest of that which has no room; pre-emption takes teams of a lower class alone, for the first work in
order; where every team of the CUs leaves, they halt in the Waste, and else they leave by a row swap; the Waste's rows go once
what the team issued is performed and a load claims them. Which of the two switches is made, and which rows a load claims, is
the model's choice (log 25). -/
def Obligations.TeamsAreSwapped : Prop :=
  (∀ (s : State) (c : Nat), (s.quiet c = false → exec (.forwardProgressSwap c) s = .next s)
    ∧ (s.quiet c = true → (∃ w ∈ s.works, s.setOf w (c / 8) (some c) = none
        ∧ (s.roomBy w (c / 8) (some c) (s.blockedOn c)).isSome = true) →
      ∃ x : Switch, exec (.forwardProgressSwap c) s = .next (s.switch x) ∧ x.work ∈ s.works
        ∧ s.setOf x.work (c / 8) (some c) = none
        ∧ s.roomBy x.work (c / 8) (some c) (s.blockedOn c) = some (x.out, x.cus) ∧ c ∈ x.cus
        ∧ (∀ v ∈ s.works, s.setOf v (c / 8) (some c) = none → (s.roomBy v (c / 8) (some c) (s.blockedOn c)).isSome = true →
          x.work.start ≤ v.start)
        ∧ ∀ t ∈ x.out, s.teamBlocked t = true ∧ ∃ m ∈ s.teams, m.id = t ∧ m.residency = .resident ∧ c ∈ m.cus))
  ∧ (∀ (s : State) (w : Work) (cl : Nat) (x : Switch), s.preempting = some w → s.classOn w cl = some x →
    exec (.preemptByClass w.job.number cl) s = .next (s.switch x)
    ∧ w ∈ s.works ∧ s.placeable w = false ∧ x.work = w ∧ (∀ v ∈ s.works, s.placeable v = true → noLater w v)
    ∧ ∀ y ∈ x.out, ∃ m ∈ s.teams, m.id = y ∧ m.residency = .resident ∧ s.classOfTeam m < w.sclass)
  ∧ (∀ (s : State) (x : Switch), s.bankable x = true ↔
    (∀ t ∈ x.out, ∀ c ∈ s.cusOfTeam t, ∀ m ∈ s.teamsOn c, m.id ∈ x.out)
    ∧ ∀ c ∈ x.cus, s.blocksNeeded c + (x.work.scratch + 63) / 64 ≤ 14)
  ∧ (∀ (s : State) (c : Nat) (x : Switch), s.switchOn c = some x →
    (s.bankable x = true → s.claimed x.work x.cus = [] → s.mayLeave x.out = true →
      ∃ t, exec (.bankSwitch c [x.work.job.number]) s = .next t
        ∧ ∀ m, m.id ∈ x.out → s.team? m.id = some m → x.work.job ≠ .back m.id →
          ∃ m', t.team? m.id = some m' ∧ m'.residency = .waste ∧ m'.waitStart = s.now)
    ∧ (s.bankable x = false → ∃ t, exec (.rowSwap c x.out) s = .next t
        ∧ ((s.swapOut false x.out).1 = true → ∀ m, m.id ∈ x.out → s.team? m.id = some m → x.work.job ≠ .back m.id →
          ∃ m', t.team? m.id = some m' ∧ m'.residency = .waiting ∧ m'.waitStart = s.now)))
  ∧ ∀ (s : State) (c : Nat) (tm : Team), s.team? tm.id = some tm → c ∈ tm.cus →
    (s.spillDue tm = false → exec (.wasteRowSpill c tm.id) s = .next s)
    ∧ ∀ u, s.spillDue tm = true → s.settleCus tm.cus = some u → exec (.wasteRowSpill c tm.id) s =
      .next { u with teams := updId Team.id (fun _ => { tm with residency := .waiting }) u.teams tm.id }

/-- R143, R306, R307 and R446 to R449: a checkpoint holds the context's groups as their drains leave them; an
uncorrectable error rolls a context back to its checkpoint, or ends it; of a cached word a modified copy is lost and
poisoned, and a clean one goes; a context without progress ends; and an end leaves nothing of the context's work. What
becomes of held writes and of writes in flight, and the PC of an error's record, are the model's reading (log 11, log 22,
log 56). -/
def Obligations.CheckpointsAndEnds : Prop :=
  (∀ (s : State) (c : Context), s.context? c.asid = some c → c.ckptWanted = true → c.state = .running →
    (s.groups.map Group.id).Nodup → (∀ g ∈ s.groups, s.asidOf g = c.asid → g.ops = []) →
    (∃ u, s.performAllSent = some u ∧ u.reportFree c.asid (u.entryWrites c.asid
      (u.closeAll (u.launches.filter fun l => l.asid == c.asid && l.complete)).1) = true) →
    ∃ t c' k, exec (.checkpointTake c.asid) s = .next t ∧ t.context? c.asid = some c' ∧ c'.ckptWanted = false
      ∧ c'.checkpoint = some k ∧ k.clock = s.now ∧ k.teams = (s.teams.filter fun t => t.asid == c.asid)
      ∧ k.bins = (s.bins.filter fun b => b.asid == c.asid) ∧ k.pending = (s.pending.filter fun p => p.asid == c.asid)
      ∧ (∀ g ∈ s.groups, s.asidOf g = c.asid → ∃ g' ∈ k.groups, g' = { g with regs := g'.regs, ckpt := none }
        ∧ ∀ d m, g.ckpt = some (d, m) → ∀ r l, r ≠ 255 → l < 32 → g'.reg r l = if r = d ∧ m.has l = true then 2 else g.reg r l)
      ∧ ∀ g ∈ t.groups, t.asidOf g = c.asid → g.ckpt = none)
  ∧ (∀ (s : State) (g : Group) (c : Context) (m : Mask), s.group? g.id = some g → s.contextOf? g = some c → c.state = .running →
    (c.checkpoint = none → ∃ t, exec (.uncorrectableError (.registerRow g.id m)) s = .next t
      ∧ endedBy s t c.asid ⟨0x30, m, 1, (g.posOf m).pc, 0⟩ ∧ sget 0 t.errors 0 = sget 0 s.errors 0 + 1)
    ∧ ∀ k, c.checkpoint = some k → ∃ t c', exec (.uncorrectableError (.registerRow g.id m)) s = .next t
      ∧ t.context? c.asid = some c' ∧ c'.rollbacks = c.rollbacks + 1 ∧ c'.state = .running
      ∧ ∀ h ∈ k.groups, { h with handNext := 0, handLeft := 0 } ∈ t.groups)
  ∧ (∀ (s : State) (cu : Option Nat) (pa : Nat), Coherent s →
    let w := pa / 4
    let elsewhere (of : Nat → Prop) := (∃ d, s.registered? w = some d ∧ ¬ of d) ∨ ∃ x ∈ s.cus, ¬ of x.1 ∧ w ∈ x.2.sentWords
    ∃ t, exec (.uncorrectableError (.cachedWord cu pa)) s = .next t ∧ t.contexts = s.contexts ∧ t.groups = s.groups
    ∧ (∀ c x, cu = some c → s.l1? c w = some x →
      (x.state = .valid → sget 0 t.errors 2 = sget 0 s.errors 2 + 1 ∧ t.poison = s.poison ∧ (∀ a, newest t a = newest s a)
        ∧ ∀ y ∈ (t.cu c).l1, y.1 / 32 = pa / 128 → y.2.state ≠ .valid)
      ∧ (x.state ≠ .valid → sget 0 t.errors 3 = sget 0 s.errors 3 + 1
        ∧ (elsewhere (· = c) → t.poison = s.poison) ∧ (¬ elsewhere (· = c) → t.poisoned w = true)))
    ∧ (cu = none → ((s.registered? w).isSome = true ∨ ((s.line (w / 32)).dirty.lookup (w % 32)).isSome = true) →
      sget 0 t.errors 3 = sget 0 s.errors 3 + 1 ∧ (¬ elsewhere (fun c => s.registered? w = some c) → t.poisoned w = true))
    ∧ (cu = none → s.registered? w = none → (s.line (w / 32)).dirty.lookup (w % 32) = none → t = s.countError 2))
  ∧ (∀ (s : State) (c : Context), s.context? c.asid = some c → c.state = .running →
    let overdue := s.regs.hangMs ≠ 0 ∧ c.lastProgress + 700000 * s.regs.hangMs ≤ s.now
    (overdue → ∃ t, exec (.hangTimeout c.asid) s = .next t ∧ endedBy s t c.asid ⟨0x31, 0, 0, 0, 0⟩)
    ∧ (¬ overdue → exec (.hangTimeout c.asid) s = .next s))
  ∧ ∀ (s : State) (c : Context) (r : FaultRecord), s.context? c.asid = some c → c.state = .ending → c.ended = some r →
    s.reportFree c.asid (s.entryWrites c.asid (s.entriesOf c.asid)) = true →
    ∃ t, exec (.contextEnd c.asid) s = .next t
      ∧ (∀ g ∈ s.groups, s.asidOf g = c.asid → t.group? g.id = none)
      ∧ (∀ x ∈ t.teams, x.asid ≠ c.asid) ∧ (∀ x ∈ t.launches, x.asid ≠ c.asid) ∧ (∀ x ∈ t.bins, x.asid ≠ c.asid)
      ∧ (∀ x ∈ t.pending, x.asid ≠ c.asid) ∧ ∀ k, (t.slot k).asid = c.asid → (t.slot k).state = .free

/-! ### Coherence -/

/-- R366, R368 and R370 to R373: reclassifications, recalls, forwarded reads, requests for tokens, trump entries and
replacements move copies and tokens and change no value; each leaves what its rule says. A transient request that nothing
holds up gathers more than its requester had: which holder's answer comes first is left open. What a CU has sent and no
slice has accepted is a value still on its way, and stands in `MemoryReadsBack`. A fill that an access counter counts (R389)
is set apart. -/
def Obligations.CopiesMove : Prop :=
  ∀ s : State, Coherent s → noneSent s → tableRead s →
    (∀ frame cu d : Nat, (s.pageClass frame = .priv d ∧ d ≠ cu ∨ s.pageClass frame = .transit d) →
      ∃ t, exec (.reclassify frame cu) s = .next t ∧ movesCopies s t
      ∧ t.pageClass frame = .shared ∧ ∀ w v, w / 1024 = frame → t.l1? d w ≠ some ⟨.dirty, v⟩)
    ∧ (∀ line word c : Nat, word < 32 → s.registered? (32 * line + word) = some c →
      (∃ t, exec (.registrationRecall line word) s = .next t ∧ movesCopies s t ∧ t.registered? (32 * line + word) = none
        ∧ t.l1? c (32 * line + word) = some ⟨.valid, s.word (32 * line + word)⟩)
      ∧ ∀ cu, c ≠ cu → c / 64 = cu / 64 → s.l1? cu (32 * line + word) = none → s.hasRoomL1 cu line = true → ∃ t, exec (.forwardedRead cu line word) s = .next t ∧ movesCopies s t
        ∧ t.l1? cu (32 * line + word) = some ⟨.valid, s.word (32 * line + word)⟩
        ∧ t.registered? (32 * line + word) = some c)
    ∧ (∀ (who : Holder) (line : Nat) (write : Bool), known who = true → who ≠ .home → s.populated (128 * line) = true →
      inPeer (128 * line) = false → (who = .link → s.peerWaits line = true) →
      let need := if write then 32 else 1
      (has' s line who < need → unserved s line → ((∃ d, who = .die d) → s.hostServes line = false) →
        (who = .host ∨ has' s line .host = 0 ∨ (write = false ∧ (s.line line).owner ≠ .host)) → s.flipping (128 * line) = false →
        (∀ a ∈ s.attempts, a.who = who → a.line = line → a.write = write → a.counter = none) →
        ∃ t, exec (.transientRequest who line write) s = .next t ∧ movesCopies s t ∧ has' s line who < has' t line who
          ∧ (has' t line who < need → ∃ a ∈ t.attempts, a.who = who ∧ a.line = line ∧ a.write = write)
          ∧ (need ≤ has' t line who → ∀ a ∈ t.attempts, ¬(a.who = who ∧ a.line = line ∧ a.write = write)))
      ∧ (∀ d, who = .die d → has' s line who < need → s.hostServes line = true → ∃ t, exec (.transientRequest who line write) s = .next t
        ∧ (∃ n, (d, write, n) ∈ (t.line line).asked) ∧ movesCopies s t)
      ∧ (has' s line who < need → exec (.attemptFail who line write) s =
        .next { s with attempts := s.attempts.map fun a =>
          if a.who = who ∧ a.line = line ∧ a.write = write then { a with count := a.count + 1 } else a })
      ∧ (s.escalates who line write = true → (∀ t ∈ s.trumps ++ s.trumpQueue, ¬(t.requester = who ∧ t.line = line)) →
        let full := 64 ≤ (s.trumps.filter fun t => s.homeOf t.line == s.homeOf line).length
        (full → exec (.trumpRequest who line write) s = .next { s with trumpQueue := s.trumpQueue ++ [⟨false, write, who, line⟩] })
        ∧ (¬ full → ∃ t, exec (.trumpRequest who line write) s = .next t
          ∧ movesCopies s t
          ∧ (unserved s line → t.trumps = s.trumps ++ [⟨true, write, who, line⟩]
            ∧ (who = .host ∨ has' s line .host = 0 → has' t line who = 32))
          ∧ (¬ unserved s line → t.trumps = s.trumps ++ [⟨false, write, who, line⟩])))
      ∧ ∀ x, s.activeTrump line = some x → x.requester = who → has' s line who = 32 → s.wants who line = false →
        (∀ y ∈ s.trumps.erase x, y.line = line → y.active = false) → (∀ q ∈ s.trumpQueue, s.homeOf q.line ≠ s.homeOf line) →
        ∃ t, exec (.trumpRelease who line) s = .next t ∧ movesCopies s t
          ∧ t.activeTrump line = ((s.trumps.erase x).find? fun y => y.line == line).map fun y => { y with active := true })
    ∧ ∀ die line : Nat, die < 4 → (∀ x, s.activeTrump line = some x → x.requester ≠ .die die ∧ known x.requester = true) →
      ∃ t, exec (.lineReplace die line) s = .next t ∧ movesCopies s t ∧ has' t line (.die die) = 0

/-- R156, R308, R373, R374, R377, R401 and R402: what the host and peers read moves copies alone, and returns the newest bytes
with the poison of their words; what they write to one frame
replaces its bytes and no other, or is held where it is caught, waits where the hold buffer is full, or is dropped and
counted at an image frame and at one that is not in use; snoops bring a line home; and a frame that is zeroed reads zero
everywhere, once the host has given up its lines. The counters of dropped writes are the model's choice (log 21). -/
def Sys2Proof.Claims.OutsideAccesses : Prop :=
  ∀ s : State, Coherent s → noneSent s → tableRead s →
    let writes (t : State) (pa : Nat) (bs : List Byte) : Prop :=
      Coherent t ∧ t.peek pa bs.length = bs ∧ ∀ x, x < pa ∨ pa + bs.length ≤ x → newest t x = newest s x
    let free (pa n : Nat) (who : Holder) (write : Bool) : Prop := ∀ l ∈ linesOf pa n, s.mustWait who l write = false
    let read (t : State) (who : Holder) (pa n : Nat) : Prop :=
      t.returned = some ⟨who, pa, s.peek pa n, (wordsOf pa n).filter s.poisoned⟩
    let dropped (t : State) (k : Nat) : Prop := t.errors = (s.countError k).errors ∧ movesCopies s t
    let idle (f : Nat) : Prop := s.frame f = .zeroing ∨ s.frame f = .freeDirty
    (∀ pa count, ∃ t, exec (.hostMemrd pa count) s = .next t ∧ movesCopies s t
      ∧ (free pa count .host false → read t .host pa count)
      ∧ (free pa count .host false → (∀ x ∈ s.trumps, x.active = true → x.requester ≠ .host) →
        ∀ l ∈ linesOf pa count, s.inDevice (128 * l) = true → 0 < has' t l .host))
    ∧ (∀ pa bs, bs ≠ [] → pa % 4096 + bs.length ≤ 4096 → (∀ l ∈ linesOf pa bs.length, s.inDevice (128 * l) = true) →
      ((s.imageAt? pa).isSome = true → ∃ t, exec (.hostMemwr pa bs) s = .next t ∧ dropped t eImage)
      ∧ (s.imageAt? pa = none → idle (pa / 4096) → ∃ t, exec (.hostMemwr pa bs) s = .next t ∧ dropped t eZeroing)
      ∧ (s.imageAt? pa = none → ¬ idle (pa / 4096) →
        (s.caught pa (.store bs) = false → s.behindHeld pa bs.length = false → free pa bs.length .host true →
          offTable s (wordsOf pa bs.length) → ∃ t, exec (.hostMemwr pa bs) s = .next t ∧ writes t pa bs)
        ∧ (s.caught pa (.store bs) = true →
          (s.holdRoom .host pa = true → ∃ t, exec (.hostMemwr pa bs) s = .next t
            ∧ t.held = s.held ++ [⟨s.nextId, .host, pa, .store bs, [], true, [], false, [], []⟩] ∧ ∀ x, newest t x = newest s x)
          ∧ (s.holdRoom .host pa = false → exec (.hostMemwr pa bs) s =
            .next { s with waiting := s.waiting ++ [⟨.hostMemwr pa bs, s.input⟩] }))))
    ∧ (∀ line, s.hostServes line = true → ∀ inv, ∃ t, exec (.hostSnoop line inv) s = .next t ∧ movesCopies s t
      ∧ has' t line (if t.hostBias (128 * line) then .host else .home) = 32
      ∧ ∀ c ∈ (t.line line).presence, ∀ w, w / 32 = line → t.l1? c w = none)
    ∧ (∀ line, (s.line line).snooped = true → (∀ x, s.activeTrump line = some x → x.requester ≠ .host ∧ known x.requester = true) →
      ∃ t, exec (.birsp line) s = .next t ∧ movesCopies s t ∧ has' t line .host = 0 ∧ (t.line line).snooped = false)
    ∧ (∀ die line a, die < 4 → (s.line line).asked.find? (fun x => x.1 == die) = some a → a.2.2 = none → s.flipping (128 * line) = false →
      (∀ x, s.activeTrump line = some x → x.requester = .die die) → ∃ t, exec (.d2hCompletion die line) s = .next t
      ∧ movesCopies s t ∧ (if a.2.1 then has' t line (.die die) = 32 else 0 < has' t line (.die die))
      ∧ (t.line line).asked = (s.line line).asked.erase a)
    ∧ (∀ pa, inT1 pa = true → (∀ n, ∃ t, exec (.peerAccess pa (.read n)) s = .next t ∧ movesCopies s t
        ∧ ((∀ l ∈ linesOf pa n, inT1 (128 * l) = true) → free pa n .link false → read t .link pa n))
      ∧ ∀ bs, bs ≠ [] → pa % 4096 + bs.length ≤ 4096 → (∀ l ∈ linesOf pa bs.length, inT1 (128 * l) = true) →
        s.imageAt? pa = none → ¬ idle (pa / 4096) → s.caught pa (.store bs) = false → s.behindHeld pa bs.length = false →
        free pa bs.length .link true → offTable s (wordsOf pa bs.length) → ∃ t, exec (.peerAccess pa (.write bs)) s = .next t ∧ writes t pa bs)
    ∧ (∀ f, (s.frame f = .freeDirty → s.inDevice (4096 * f) = true → exec (.frameZeroing f) s = .next (s.setFrame f .zeroing))
      ∧ (s.frame f = .zeroing → s.hostLines f ≠ [] → ∃ t, exec (.frameZeroing f) s = .next t ∧ movesCopies s t
        ∧ t.frame f = .zeroing ∧ ∀ l ∈ s.hostLines f, (t.line l).snooped = true)
      ∧ (s.frame f = .zeroing → s.hostLines f = [] → (∀ w, w / 1024 = f → s.inTable (4 * w) = false) → ∃ t, exec (.frameZeroing f) s = .next t ∧ Coherent t ∧ t.frame f = .clean
        ∧ (∀ x, x / 4096 = f → newest t x = [0]) ∧ (∀ x, x / 4096 ≠ f → s.inTable (4 * (x / 4)) = false → newest t x = newest s x)
        ∧ ∀ w, w / 1024 = f → t.poisoned w = false ∧ ∀ c, t.l1? c w = none))

/-- R310 and R311: in a fabric cycle a port admits at most two requests, which changes nothing but when they are served; the access of a group that is admitted is granted its place; a
bucket gains no more than its rate; only what a full one cannot hold is lent, in a cycle and in 1,024 of them no more than
half of the rate, and a lender that waits takes its tokens back. -/
def Sys2Proof.Claims.PortsAdmit : Prop :=
  (∀ s : State, ∃ t, exec .portAdmit s = .next t ∧ t = { s with ports := t.ports, buckets := t.buckets, grants := t.grants }
    ∧ (∀ q ∈ t.grants, q ∈ s.grants ∨ q.work.isSome = true)
    ∧ ∀ p, ∃ new : List PortRequest, new.length ≤ s.input.nums.length / 3
      ∧ (waitingAt t p).Sublist (waitingAt s p ++ new) ∧ (waitingAt s p).length + new.length ≤ (waitingAt t p).length + 2)
  ∧ ∀ (b : Bucket) (rate burst : Nat) (waits : Bool),
    let b' := b.cycle rate burst waits
    let half := 1024 * (rate / 2)
    b'.tokens ≤ burst ∧ b'.tokens + b'.pool ≤ b.tokens + b.pool + rate ∧ (b.pool ≤ half → b'.pool ≤ half)
    ∧ (b.lent.sum ≤ half → b'.lent.sum ≤ half) ∧ b'.lent.length ≤ 1023 ∧ (waits = true → b'.pool = 0)
    ∧ (b.tokens + rate ≤ burst → b'.pool ≤ b.pool)

/-- R156, R310, R311, R373, R374, R377, R401 and R402: accesses from outside, zeroing, and the ports. -/
def Obligations.OutsideAndPorts : Prop := Claims.OutsideAccesses ∧ Claims.PortsAdmit

/-! ### Mailbox commands -/

/-- R441, R451 and R463: a command written while another runs is ignored and counted; before READY it answers BUSY,
and a command of the physical function alone answers REFUSED elsewhere; any other runs, and answers once it has
ended; a code without command answers INVALID. The counter of an ignored command is the model's choice (log 21). -/
def Obligations.CommandsAnswer : Prop :=
  ∀ s : State, s.input.fn ≤ 64 →
    let fn := s.input.fn
    let opers := (s.mailbox fn).oper.map BitVec.toNat
    let code := s.input.value.toNat % 2 ^ 8
    (∀ i code pfOnly body, (i, code, pfOnly, body) ∈ commands →
      let runs (u : State) : Prop := ∀ a, body fn opers u = a → exec i s = .next
        (match a with
          | .done status values t => answered fn status values t
          | .running t => t)
      (s.input.offset ≠ 1 → (¬ idle s → exec i s = .next (s.countError eMailbox))
        ∧ (idle s → s.regs.ready = false → exec i s = .next (answered fn 8 [] (commanded code s)))
        ∧ (idle s → s.regs.ready = true → pfOnly = true → fn ≠ 64 → exec i s = .next (answered fn 6 [] (commanded code s)))
        ∧ (idle s → s.regs.ready = true → (pfOnly = true → fn = 64) → runs (commanded code s)))
      ∧ (s.input.offset = 1 → ¬ idle s → (s.mailbox fn).cmd = code → s.regs.ready = true → (pfOnly = true → fn = 64) → runs s))
    ∧ (s.input.offset ≠ 1 → idle s → s.regs.ready = true →
      exec .mbCmdUnassigned s = .next (answered fn 3 [] (commanded code s)))
    ∧ ∃ t, exec .podFreezeMessage s = .next t
      ∧ (s.freeze = none → s.input.nums ≠ [0] → t = s)
      ∧ (s.freeze = none → s.input.nums = [0] → (∀ g ∈ s.groups, g.ops = []) → ∀ c ∈ s.contexts, c.state = .running →
          ∃ c' ∈ t.contexts, c'.asid = c.asid ∧ c'.state = .frozen)

/-- R154, R157, R387, R388, R415, R421, R441 to R443 and R451 to R458: what the commands do where they answer OK. Which frames
stay OWNED when they are freed is the model's choice (log 58). -/
def Obligations.CommandsTakeEffect : Prop :=
  ∀ (s : State) (fn : Nat),
    (∀ v d0 d1 d2 d3 n k i, s.images[k]? = some (some i) → v < 64 → i.mask.getLsbD v = true →
      i.digest = BitVec.ofNat 256 (d0 + 2 ^ 64 * d1 + 2 ^ 128 * d2 + 2 ^ 192 * d3) → i.length = n →
      (∀ j, j < k → ∀ x, s.images[j]? = some (some x) → ¬(x.mask.getLsbD v = true ∧ x.digest = i.digest ∧ x.length = n)) →
      comesTo (imgLookup 64 [v, d0, d1, d2, d3, n] s) 0 [k, i.base] (· = s))
    ∧ (∀ v k i, s.images[k]? = some (some i) → v < 64 → i.mask.getLsbD v = true → 0 < i.length →
      comesTo (imgRelease 64 [v, k] s) 0 [] fun t =>
        if i.mask = 1#64 <<< v then t.images[k]? = some none ∧ t.frame (i.base / 4096) = .freeDirty
        else t.images[k]? = some (some { i with mask := i.mask &&& ~~~(1#64 <<< v) }))
    ∧ (∀ k, s.images.getD k none = none → comesTo (imgQuery 64 [k] s) 5 [] (· = s))
    ∧ (∀ v src n k i, v < 64 → 8 ≤ n → n ≤ 2 ^ 26 → n % 8 = 0 → s.populated src = true → s.populated (src + n - 1) = true →
      let bs := s.peek src n
      validate (recordsOf 8 (n / 8) bs) 0 0 0 = none → s.images[k]? = some (some i) →
      i.digest = BitVec.ofNat 256 (natOfBytes (sha256 bs)) → i.length = n →
      (∀ j, j < k → ∀ x, s.images[j]? = some (some x) → ¬(x.digest = i.digest ∧ x.length = n)) →
      comesTo (imgInsert 64 [v, src, n] s) 0 [k, i.base] fun t =>
        t.images[k]? = some (some { i with mask := i.mask ||| 1#64 <<< v }))
    ∧ (∀ pa host, s.regs.biasSet = true → pa % 4096 = 0 → inT1 pa = true ∨ s.inT2 pa = true →
      (host = true ∨ s.hostLines (pa / 4096) = [] → comesTo (biasCommand host 64 [pa, 1] s) 0 [] fun t => t.hostBias pa = host)
      ∧ (host = false → s.hostLines (pa / 4096) ≠ [] → ∃ t, biasCommand host 64 [pa, 1] s = .running t
        ∧ ∀ l ∈ s.hostLines (pa / 4096), (t.line l).snooped = true))
    ∧ (∀ (f : Tlb → Bool) (w : WalkEntry → Bool) (l : CodeLine → Bool) c u x,
      x ∈ ((s.removeTlbs f w l).cu c).tlbs u ↔ x ∈ (s.cu c).tlbs u ∧ f x = false)
    ∧ (∀ (p : Slot → Bool) k, (s.slot k).state = .live → p (s.slot k) = true →
      ((s.breakAll p 2).slot k).state = .broken ∧ ((s.breakAll p 2).slot k).reason = 2)
    ∧ (∀ x q quota p, s.populated x = true → quota ≤ 4096 → p ≤ 1 →
      let d := natOfBytes (s.peek x 32)
      let asid := d / 2 ^ 144 % 2 ^ 10
      let func := d / 2 ^ 154 % 2 ^ 6
      tdescOk d = true → s.context? asid = none → (s.func func).bound.isSome = true →
      (∀ c ∈ s.contexts, ¬(c.func = func ∧ c.pasid = d / 2 ^ 160 % 2 ^ 20)) →
      comesTo (ctxCreate 64 [x, q, quota, p] s) 0 [asid] fun t => ∃ c, t.contexts = s.contexts ++ [c] ∧ c.asid = asid
        ∧ c.func = func ∧ c.root = d % 2 ^ 64 ∧ c.quota = quota ∧ c.priv = (p == 1) ∧ c.deckH = 1 ∧ c.deckA = 0
        ∧ c.state = .running ∧ c.qtable.toNat = q % 2 ^ 64)
    ∧ (∀ c, s.context? c.asid = some c → (s.contexts.map Context.asid).Nodup → (s.stopContext c).1 = true →
      ((s.stopContext c).2.dropHeldIn c.frames).heldIn c.frames = false →
      comesTo (ctxDelete 64 [c.asid] s) 0 [] fun t => t.context? c.asid = none ∧ (∀ x ∈ t.teams, x.asid ≠ c.asid)
        ∧ (∀ x ∈ t.launches, x.asid ≠ c.asid) ∧ ∀ f ∈ c.frames, f ∉ c.moved → t.frame f = .freeDirty)
    ∧ (∀ k cl mp, k < s.parts.length → k < 8 → 0 < cl → cl < 2 ^ 32 → 0 < mp → mp < 2 ^ 24 →
      (s.regs.coarse = false → mp % 16 = 15) →
      (∀ j, j < 8 → j ≠ k → (s.part j).clusters &&& BitVec.ofNat 32 cl = 0 ∧ (s.part j).memports &&& BitVec.ofNat 24 mp = 0) →
      (∀ v, v < 64 → (s.func v).bound ≠ some k) → (∀ l ∈ s.loans, l.2 ≠ k ∧ (s.part k).clusters.getLsbD l.1 = false) →
      comesTo (partSet 64 [k, cl, mp] s) 0 [] fun t => t.part k = ⟨BitVec.ofNat 32 cl, BitVec.ofNat 24 mp⟩
        ∧ ∀ j, j ≠ k → t.part j = s.part j)
    ∧ (∀ v k root, v < 64 → s.partDefined k = true → root % 4096 = 0 →
      (∀ c ∈ s.contexts, c.func = v → c.state = .ending) →
      comesTo (vfBind 64 [v, k, root] s) 0 [] fun t => (t.func v).bound = some k ∧ (t.func v).s2root = root
        ∧ ∀ c u, ∀ x ∈ (t.cu c).tlbs u, x.func ≠ v)
    ∧ (∀ c x, s.context? c.asid = some c → bwOk x = true →
      comesTo (ctxBw 64 [c.asid, x] s) 0 [] fun t => t.context? c.asid = some { c with bw := BitVec.ofNat 32 x })
    ∧ (∀ v a st vals t, v < 64 → vfReset 64 [v] s = a → a = .done st vals t → st = 0 ∧ (t.func v).bound = none)
    ∧ (∀ c a b, c < 32 → s.portOwner c = some a → s.partDefined b = true → a ≠ b → (∀ l ∈ s.loans, l.1 ≠ c) →
      (∀ t ∈ s.teams, t.residency = .resident ∨ t.residency = .waste → ∀ k ∈ t.cus, k / 8 ≠ c) →
      comesTo (clusterLend 64 [c, b] s) 0 [] fun t => t.loans = s.loans ++ [(c, b)])
    ∧ (∀ c, (∃ l ∈ s.loans, l.1 = c) → s.freeze = none → (s.teams.map Team.id).Nodup →
      let there := (s.teams.filter fun t => (t.residency == .resident || t.residency == .waste)
        && t.cus.any fun k => k / 8 == c).map Team.id
      (s.swapWhole there).1 = true → comesTo (clusterReclaim 64 [c] s) 0 [] fun t => t.loans = s.loans.filter (fun l => l.1 != c)
        ∧ ∀ x ∈ t.teams, x.residency = .resident → ∀ k ∈ x.cus, k / 8 ≠ c)
    ∧ (∀ pa n owner, pa % 4096 = 0 → 0 < n → n ≤ 2 ^ 18 → (owner = 64 ∨ (owner < 64 ∧ ∀ f, frameIn pa n f →
        ∃ k, (s.func owner).bound = some k ∧ (s.part k).memports.getLsbD ((s.memPort (4096 * f)).getD 24) = true)) →
      (∀ f, frameIn pa n f → s.inDevice (4096 * f) = true ∧ s.frame f = .clean) →
      comesTo (frameClaim 64 [pa, n, owner] s) 0 [] fun t =>
        ∀ f, t.frame f = if pa / 4096 ≤ f ∧ f < pa / 4096 + n then .owned owner else s.frame f)
    ∧ (∀ pa n, pa % 4096 = 0 → 0 < n → n ≤ 2 ^ 18 → (∀ f, frameIn pa n f → ∃ o, s.frame f = .owned o) →
      (∀ h ∈ s.held, ¬ frameIn pa n (h.place / 4096)) → (∀ g ∈ s.groups, g.ops = []) →
      comesTo (frameFree 64 [pa, n] s) 0 [] fun t =>
        ∀ f, t.frame f = if pa / 4096 ≤ f ∧ f < pa / 4096 + n ∧ s.keepsFrame f = false then .freeDirty else s.frame f)
    ∧ (s.freeze = none → s.held = [] → (∀ g ∈ s.groups, g.ops = [] ∧ s.unacked g = false) → noneSent s →
      (∀ l, 0 < (s.line l).host → s.hostServes l = true) → comesTo (freezeCommand 64 [0] s) 0 [] fun t => t.freeze = none ∧ (t.contexts.map Context.asid = s.contexts.map Context.asid)
        ∧ (∀ c ∈ t.contexts, c.state ≠ .running) ∧ ∀ x ∈ t.teams, (∃ c ∈ s.contexts, c.asid = x.asid ∧ c.state = .running) → x.residency = .frozen)
    ∧ ∀ c flag, flag ≠ 1 → s.context? c.asid = some c → c.state = .frozen → s.freeze = none → (s.contexts.map Context.asid).Nodup →
      comesTo (thawCommand fn [c.asid, flag] s) 0 [] fun t =>
        (∃ c', t.context? c.asid = some c' ∧ c'.state = .running)
        ∧ ∀ x ∈ t.teams, x.asid = c.asid → x.residency ≠ .frozen

/-! ### The host, power and links -/

/-- R461, R463, R465 and R467: writes of the management registers, of a function's operands and of MEM_ILV; a summary
is written where it fits and its result says so, ignored and counted while another runs; a function's reset unbinds
it; system software writes an object entry. How that write reaches the part, and the counters of ignored writes, are the
model's choice (log 32, log 21). -/
def Obligations.HostWrites : Prop :=
  ∀ s : State,
    (s.input.fn = 65 → exec .registerWrite s = .next (s.modContext s.input.value.toNat fun c =>
      { c with objects := sset 0 c.objects s.input.offset (BitVec.ofNat 512 (natOfBytes (s.input.bytes.take 64))) }))
    ∧ (s.input.fn ≤ 64 →
    let fn := s.input.fn
    let v := s.input.value.toNat
    (s.input.offset < 0x1000 → fn = 64 → exec .registerWrite s = .next
      (match written s s.input.offset v with
        | some r => { s with regs := r }
        | none => s.countError eRegister))
    ∧ (s.input.offset < 0x1000 → fn ≠ 64 → exec .registerWrite s = .next (s.countError eRegister))
    ∧ (∀ k, k < 8 → s.input.offset = 0x1008 + 8 * k → exec .registerWrite s =
      .next (s.modMailbox fn fun m => { m with oper := m.oper.set k s.input.value }))
    ∧ exec .memIlvWrite s = .next
      (if fn = 64 then
        (if s.regs.ilvSet ∨ s.regs.ctxEver then s else { s with regs := { s.regs with ilvSet := true, coarse := v % 2 = 1 } })
      else s.countError eRegister)
    ∧ (let report := s.summary fn
      let fits := v % 4096 = 0 ∧ s.populated v = true ∧ s.populated (v + report.length - 1) = true
        ∧ report.length ≤ (s.mailbox fn).sumLen.toNat
      let done (status : Nat) (t : State) : Prop := t.mailbox fn = { s.mailbox fn with
        sumAddr := s.input.value, sumRes := BitVec.ofNat 64 (2 ^ 63 + 2 ^ 8 * report.length + status) }
      ((s.mailbox fn).sumRes.getLsbD 63 = false → exec .summary s = .next (s.countError eSummary))
      ∧ ((s.mailbox fn).sumRes.getLsbD 63 = true → ∃ t, exec .summary s = .next t
        ∧ (fits → done 0 t ∧ (Coherent s → inPeer v = false → report.length ≤ 2 ^ 20 →
            (∀ k, k < report.length → s.zeroingFrame (v + k) = false) → offTable s (wordsOf v report.length) → t.peek v report.length = report))
        ∧ (¬ fits → done 3 t ∧ t.mem = s.mem)))
    ∧ (fn < 64 → ∀ st vals t, s.resetFunc fn = .done st vals t → exec .vfFlr s = .next t ∧ (t.func fn).bound = none
        ∧ ∀ c ∈ s.contexts, c.func = fn → (s.contexts.map Context.asid).Nodup → t.context? c.asid = none))

/-- R306, R307, R369, R430, R467, R468, R470 and R471: power, temperature and droop events, links and packets; a
link's loss ends the contexts with a route over it, and the loss of the host link poisons what the host alone held.
What comes over a link is an event's input (log 2, log 18). -/
def Obligations.PowerAndLinks : Prop :=
  ∀ s : State,
    let cu := given s 0 0
    let k := given s 0 18
    let w := given s 0 s.regs.avgW
    let ending (asid info : Nat) (t : State) : Prop := ∀ c, s.context? asid = some c → c.state ≠ .ending →
      ends t asid ⟨0x32, 0, BitVec.ofNat 32 info, 0, 0⟩
    let down (t : State) : Prop := t.links = s.links.set k { s.link k with up := false, retries := 0 }
      ∧ ∀ l ∈ s.launches, k ∈ l.links → ending l.asid k t
    exec .powerClockStep s = .next { s with regs := { s.regs with
        avgW := w
        clockMhz := if s.regs.limitW < w then max 300 (s.regs.clockMhz - 25) else min 700 (s.regs.clockMhz + 25)
        capped := (if s.regs.limitW < w then max 300 (s.regs.clockMhz - 25) else min 700 (s.regs.clockMhz + 25)) < 700 } }
    ∧ (∃ t, exec .thermalTrip s = .next t ∧ t.powered = false ∧ t.regs.cause = 2 ∧ t.regs.ready = false)
    ∧ (∃ t, exec .powerFault s = .next t ∧ t.powered = false ∧ t.regs.cause = 3 ∧ t.regs.ready = false)
    ∧ (∃ t, exec .cuTemperatureSample s = .next t ∧ (∀ c, c ≠ cu → t.cu c = s.cu c)
      ∧ t.cu cu = { s.cu cu with hot := 90 ≤ given s 1 0 ∨ ((s.cu cu).hot ∧ 84 < given s 1 0) })
    ∧ (∃ t, exec .voltageDroop s = .next t ∧ (∀ c, c ≠ cu → t.cu c = s.cu c)
      ∧ (t.cu cu).barUntil =
        (if 2 ≤ ((s.cu cu).droops.filter fun d => s.now < d + 70000).length then s.now + 700000 else (s.cu cu).barUntil))
    ∧ (∃ t, exec .barExpiry s = .next t ∧ t.cu cu =
      if (s.cu cu).barUntil ≤ s.now then { s.cu cu with barUntil := 0 } else s.cu cu)
    ∧ (k < s.linkCount → k < s.links.length →
      ((s.link k).up = true →
        (∃ t, exec .linkDown s = .next t ∧ down t)
        ∧ (given s 1 0 = 1 → exec .linkLevelRetry s = .next { s with links := s.links.set k { s.link k with retries := 0 } })
        ∧ (given s 1 0 ≠ 1 → (s.link k).retries < 15 →
          exec .linkLevelRetry s = .next { s with links := s.links.set k { s.link k with retries := (s.link k).retries + 1 } })
        ∧ (given s 1 0 ≠ 1 → 15 ≤ (s.link k).retries → ∃ t, exec .linkLevelRetry s = .next t ∧ down t))
      ∧ ∃ t, exec .linkRetrain s = .next t ∧ (t.link k).up = true ∧ (t.link k).pod = given s 1 0 % 2 ^ 16
        ∧ (t.link k).pos = given s 2 0 % 2 ^ 8 ∧ sget 0 t.errors (32 + k) = sget 0 s.errors (32 + k) + 1)
    ∧ (∀ pod port seq, s.input.nums = [1, pod, port, seq] → exec .ethPacketReceive s =
      .next { s with packets := s.packets.filter fun p => !(p.peer == pod && p.port == port && p.seq == seq) })
    ∧ (∀ asid coll rank kind size bad, s.input.nums = [0, asid, coll, rank, kind, size] ++ bad → (s.context? asid).isSome = true →
      exec .ethPacketReceive s = .next { s with peerData := s.peerData ++ [⟨asid, coll, rank, kind, size, s.input.bytes, bad⟩] })
    ∧ exec .ethRetransmitTimeout s =
      .next { s with packets := s.packets.map fun p => if p.sent + 70000 ≤ s.now then { p with sent := s.now } else p }
    ∧ (∀ p, s.packets.find? (fun p => p.first + 700000000 ≤ s.now) = some p → ∃ t, exec .ethAckTimeout s = .next t
      ∧ ∀ q ∈ s.packets, q.peer = p.peer → q.first + 700000000 ≤ s.now → ending q.asid (18 + p.port) t ∧ q ∉ t.packets)
    ∧ (∃ t, exec .ethEcnMark s = .next t ∧ cu ∈ t.ecn ∧ t = { s with ecn := t.ecn })
    ∧ exec .patrolScrubbing s = .next { s with errors := supd 0 s.errors 5 (· + given s 0 0) }
    ∧ ∃ t, exec .hostLinkFailure s = .next t ∧ (Coherent s → (s.lines.map Prod.fst).Nodup → Coherent t
      ∧ ((∀ x ∈ s.trumps, x.requester ≠ .host) → ∀ l, (t.line l).host = 0)
      ∧ (noneSent s → ∀ l x, (s.line l).owner = .host → x ∈ (s.line l).dirty → t.poisoned (32 * l + x.1) = true))

end
end

