-- ==== Sys2Proof/Laws/Sparse.lean ====
section
/-!
SUPPORT. Laws of the sorted maps: a read after a write of the same key and of another, and the canonical form kept by
every operation; the same for records found by an identifier.
-/
namespace Sys2Proof.Machine

/-! ### Maps -/

/-- A bound may be lowered. -/
theorem swfFrom_mono {α : Type} [DecidableEq α] (d : α) (m : List (Nat × α)) (lo lo' : Nat) (h : swfFrom d lo m = true) (hl : lo' ≤ lo) :
    swfFrom d lo' m = true := by
  cases m with
  | nil => rfl
  | cons x m =>
    simp only [swfFrom, Bool.and_eq_true, decide_eq_true_eq] at h ⊢
    exact ⟨⟨by omega, h.1.2⟩, h.2⟩

/-- Removing a key keeps the form. -/
theorem swfFrom_sdel {α : Type} [DecidableEq α] (d : α) (m : List (Nat × α)) (lo i : Nat) (h : swfFrom d lo m = true) :
    swfFrom d lo (sdel m i) = true := by
  induction m generalizing lo with
  | nil => rfl
  | cons x m ih =>
    simp only [swfFrom, Bool.and_eq_true, decide_eq_true_eq] at h
    simp only [sdel]
    split
    · exact swfFrom_mono d _ _ _ (ih _ h.2) (by omega)
    · simp only [swfFrom, Bool.and_eq_true, decide_eq_true_eq]
      exact ⟨h.1, ih _ h.2⟩

/-- Putting a key with a value that is not the default keeps the form. -/
theorem swfFrom_sput {α : Type} [DecidableEq α] (d : α) (x : α) (m : List (Nat × α)) (lo i : Nat) (h : swfFrom d lo m = true)
    (hi : lo ≤ i) (hx : x ≠ d) : swfFrom d lo (sput x m i) = true := by
  induction m generalizing lo with
  | nil => simp [sput, swfFrom, hi, hx]
  | cons y m ih =>
    simp only [swfFrom, Bool.and_eq_true, decide_eq_true_eq] at h
    simp only [sput]
    split
    · next e => subst e; simp only [swfFrom, Bool.and_eq_true, decide_eq_true_eq]; exact ⟨⟨hi, hx⟩, h.2⟩
    · split
      · simp only [swfFrom, Bool.and_eq_true, decide_eq_true_eq]
        exact ⟨⟨hi, hx⟩, ⟨by omega, h.1.2⟩, h.2⟩
      · simp only [swfFrom, Bool.and_eq_true, decide_eq_true_eq]
        exact ⟨h.1, ih _ h.2 (by omega)⟩

/-- Writing a key keeps the form. -/
theorem swf_sset {α : Type} [DecidableEq α] (d : α) (m : List (Nat × α)) (i : Nat) (x : α) (h : swf d m = true) :
    swf d (sset d m i x) = true := by
  unfold sset
  split
  · exact swfFrom_sdel d m 0 i h
  · next hx => exact swfFrom_sput d x m 0 i h (by omega) hx

/-- Reading a key that has been put. -/
@[simp] theorem sget_sput_same {α : Type} (d x : α) (m : List (Nat × α)) (i : Nat) : sget d (sput x m i) i = x := by
  induction m with
  | nil => simp [sput, sget]
  | cons y m ih =>
    simp only [sput]
    split
    · simp [sget]
    · split
      · simp [sget]
      · next h _ => simp only [sget, h, if_false, ih]

/-- Reading another key than the one put. -/
theorem sget_sput_other {α : Type} (d x : α) (m : List (Nat × α)) (i j : Nat) (h : i ≠ j) :
    sget d (sput x m i) j = sget d m j := by
  induction m with
  | nil => simp [sput, sget, h]
  | cons y m ih =>
    simp only [sput]
    split
    · next e => simp [sget, e, h]
    · split
      · simp [sget, h]
      · simp only [sget, ih]

/-- Reading another key than the one removed. -/
theorem sget_sdel_other {α : Type} (d : α) (m : List (Nat × α)) (i j : Nat) (h : i ≠ j) :
    sget d (sdel m i) j = sget d m j := by
  induction m with
  | nil => rfl
  | cons y m ih =>
    simp only [sdel]
    split
    · next e => simp [sget, e, h, ih]
    · simp only [sget, ih]

/-- A key that has been removed reads the default. -/
@[simp] theorem sget_sdel_same {α : Type} (d : α) (m : List (Nat × α)) (i : Nat) : sget d (sdel m i) i = d := by
  induction m with
  | nil => rfl
  | cons y m ih =>
    simp only [sdel]
    split
    · exact ih
    · next h => simp only [sget, h, if_false, ih]

/-- Reading the key that was written. -/
@[simp] theorem sget_sset_same {α : Type} [DecidableEq α] (d : α) (m : List (Nat × α)) (i : Nat) (x : α) :
    sget d (sset d m i x) i = x := by
  unfold sset
  split <;> simp [*]

/-- Reading another key than the one written. -/
theorem sget_sset_other {α : Type} [DecidableEq α] (d : α) (m : List (Nat × α)) (i j : Nat) (x : α) (h : i ≠ j) :
    sget d (sset d m i x) j = sget d m j := by
  unfold sset
  split
  · exact sget_sdel_other d m i j h
  · exact sget_sput_other d x m i j h

/-- Reading after a write. -/
theorem sget_sset {α : Type} [DecidableEq α] (d : α) (m : List (Nat × α)) (i j : Nat) (x : α) :
    sget d (sset d m i x) j = if i = j then x else sget d m j := by
  split
  · next e => rw [← e]; simp
  · next e => exact sget_sset_other d m i j x e

/-- Reading after a change. -/
theorem sget_supd {α : Type} [DecidableEq α] (d : α) (m : List (Nat × α)) (i j : Nat) (f : α → α) :
    sget d (supd d m i f) j = if i = j then f (sget d m i) else sget d m j := sget_sset d m i j _

/-- A filtered map keeps the form. -/
theorem swfFrom_filter {α : Type} [DecidableEq α] (d : α) (p : Nat × α → Bool) (m : List (Nat × α)) (lo : Nat)
    (h : swfFrom d lo m = true) : swfFrom d lo (m.filter p) = true := by
  induction m generalizing lo with
  | nil => rfl
  | cons x m ih =>
    simp only [swfFrom, Bool.and_eq_true, decide_eq_true_eq] at h
    simp only [List.filter]
    split
    · simp only [swfFrom, Bool.and_eq_true, decide_eq_true_eq]; exact ⟨h.1, ih _ h.2⟩
    · exact ih _ (swfFrom_mono d m _ _ h.2 (by omega))

/-! ### Records by identifier -/

/-- A record that has been changed, where its identifier stays. -/
theorem findId_updId_same {α : Type} (key : α → Nat) (f : α → α) (l : List α) (i : Nat)
    (hf : ∀ x, key x = i → key (f x) = i) : findId key (updId key f l i) i = (findId key l i).map f := by
  induction l with
  | nil => rfl
  | cons x xs ih =>
    simp only [updId, findId]
    split
    · next e => simp [findId, hf x e]
    · next e => simp only [findId, e, if_false, ih]

/-- Another record than the one changed. -/
theorem findId_updId_other {α : Type} (key : α → Nat) (f : α → α) (l : List α) (i j : Nat) (h : i ≠ j)
    (hf : ∀ x, key x = i → key (f x) = i) : findId key (updId key f l i) j = findId key l j := by
  induction l with
  | nil => rfl
  | cons x xs ih =>
    simp only [updId]
    split
    · next e => simp [findId, hf x e, e, h]
    · simp only [findId, ih]

/-- A record that is found has the identifier. -/
theorem findId_key {α : Type} (key : α → Nat) (l : List α) (i : Nat) (x : α) (h : findId key l i = some x) : key x = i := by
  induction l with
  | nil => simp [findId] at h
  | cons y ys ih =>
    simp only [findId] at h
    split at h
    · next e => simp only [Option.some.injEq] at h; rw [← h, e]
    · exact ih h

/-- A record that is found is one of the list. -/
theorem findId_mem {α : Type} (key : α → Nat) (l : List α) (i : Nat) (x : α) (h : findId key l i = some x) : x ∈ l := by
  induction l with
  | nil => simp [findId] at h
  | cons y ys ih =>
    simp only [findId] at h
    split at h
    · simp only [Option.some.injEq] at h; simp [h]
    · exact List.mem_cons_of_mem _ (ih h)

/-- Two changes of one record. -/
theorem updId_updId {α : Type} (key : α → Nat) (f g : α → α) (l : List α) (i : Nat)
    (hf : ∀ x, key x = i → key (f x) = i) : updId key g (updId key f l i) i = updId key (fun x => g (f x)) l i := by
  induction l with
  | nil => rfl
  | cons x xs ih =>
    simp only [updId]
    split
    · next e => simp [updId, hf x e]
    · next e => simp only [updId, e, if_false, ih]

/-- Changing a record by what it is changes nothing. -/
theorem updId_const {α : Type} (key : α → Nat) (f : α → α) (l : List α) (i : Nat) (x : α) (h : findId key l i = some x) :
    updId key f l i = updId key (fun _ => f x) l i := by
  induction l with
  | nil => rfl
  | cons y ys ih =>
    simp only [findId] at h
    simp only [updId]
    split
    · next e => simp only [e, if_true, Option.some.injEq] at h; rw [h]
    · next e => simp only [e, if_false] at h; rw [ih h]

/-! ### Memory -/

/-- The canonical form is kept by a write of a byte. -/
theorem State.setByte_wf (s : State) (pa : Nat) (b : Byte) (h : Memory.wf s.mem = true) : Memory.wf (s.setByte pa b).mem = true :=
  swf_sset 0#8 s.mem pa b h

/-- The canonical form is kept by a write of bytes. -/
theorem State.setBytes_wf (s : State) (pa : Nat) (bs : List Byte) (h : Memory.wf s.mem = true) :
    Memory.wf (s.setBytes pa bs).mem = true := by
  induction bs generalizing s pa with
  | nil => exact h
  | cons b bs ih => exact ih _ _ (s.setByte_wf pa b h)

/-- The canonical form is kept by a write of a word. -/
theorem State.setHomeWord_wf (s : State) (w : Nat) (x : Word) (h : Memory.wf s.mem = true) :
    Memory.wf (s.setHomeWord w x).mem = true := by
  unfold State.setHomeWord
  split
  · exact h
  · exact s.setBytes_wf _ _ h

/-- The byte that was written. -/
@[simp] theorem State.byte_setByte_same (s : State) (pa : Nat) (b : Byte) : (s.setByte pa b).byte pa = b :=
  sget_sset_same 0#8 s.mem pa b

/-- Another byte than the one written. -/
theorem State.byte_setByte_other (s : State) (pa a : Nat) (b : Byte) (h : pa ≠ a) : (s.setByte pa b).byte a = s.byte a :=
  sget_sset_other 0#8 s.mem pa a b h

/-- A byte outside those that are written. -/
theorem State.byte_setBytes_other (s : State) (pa a : Nat) (bs : List Byte) (h : a < pa ∨ pa + bs.length ≤ a) :
    (s.setBytes pa bs).byte a = s.byte a := by
  induction bs generalizing s pa with
  | nil => rfl
  | cons b bs ih =>
    simp only [List.length_cons] at h
    rw [State.setBytes, ih _ _ (by omega), State.byte_setByte_other _ _ _ _ (by omega)]

/-- A byte among those that are written. -/
theorem State.byte_setBytes_inside (s : State) (pa k : Nat) (bs : List Byte) (hk : k < bs.length) :
    (s.setBytes pa bs).byte (pa + k) = bs.getD k 0 := by
  induction bs generalizing s pa k with
  | nil => simp at hk
  | cons b bs ih =>
    rw [State.setBytes]
    cases k with
    | zero =>
      rw [State.byte_setBytes_other _ _ _ _ (by omega)]
      simp
    | succ k =>
      have := ih (s.setByte pa b) (pa + 1) k (by simpa using hk)
      rw [show pa + (k + 1) = pa + 1 + k by omega, this]
      simp

end Sys2Proof.Machine
end

