-- ==== Sys2Proof/Laws/State.lean ====
section
/-!
SUPPORT. The fields of the state after each of its updates.
-/
namespace Sys2Proof.Machine

/-! ### modGroup -/

@[simp] theorem State.modGroup_clock (s : State) (i : Nat) (f : Group → Group) : (s.modGroup i f).clock = s.clock := rfl
@[simp] theorem State.modGroup_mem (s : State) (i : Nat) (f : Group → Group) : (s.modGroup i f).mem = s.mem := rfl
@[simp] theorem State.modGroup_poison (s : State) (i : Nat) (f : Group → Group) : (s.modGroup i f).poison = s.poison := rfl
@[simp] theorem State.modGroup_lines (s : State) (i : Nat) (f : Group → Group) : (s.modGroup i f).lines = s.lines := rfl
@[simp] theorem State.modGroup_classes (s : State) (i : Nat) (f : Group → Group) : (s.modGroup i f).classes = s.classes := rfl
@[simp] theorem State.modGroup_frames (s : State) (i : Nat) (f : Group → Group) : (s.modGroup i f).frames = s.frames := rfl
@[simp] theorem State.modGroup_trumps (s : State) (i : Nat) (f : Group → Group) : (s.modGroup i f).trumps = s.trumps := rfl
@[simp] theorem State.modGroup_trumpQueue (s : State) (i : Nat) (f : Group → Group) : (s.modGroup i f).trumpQueue = s.trumpQueue := rfl
@[simp] theorem State.modGroup_attempts (s : State) (i : Nat) (f : Group → Group) : (s.modGroup i f).attempts = s.attempts := rfl
@[simp] theorem State.modGroup_images (s : State) (i : Nat) (f : Group → Group) : (s.modGroup i f).images = s.images := rfl
@[simp] theorem State.modGroup_errors (s : State) (i : Nat) (f : Group → Group) : (s.modGroup i f).errors = s.errors := rfl
@[simp] theorem State.modGroup_powered (s : State) (i : Nat) (f : Group → Group) : (s.modGroup i f).powered = s.powered := rfl
@[simp] theorem State.modGroup_fitting (s : State) (i : Nat) (f : Group → Group) : (s.modGroup i f).fitting = s.fitting := rfl
@[simp] theorem State.modGroup_regs (s : State) (i : Nat) (f : Group → Group) : (s.modGroup i f).regs = s.regs := rfl
@[simp] theorem State.modGroup_links (s : State) (i : Nat) (f : Group → Group) : (s.modGroup i f).links = s.links := rfl
@[simp] theorem State.modGroup_mail (s : State) (i : Nat) (f : Group → Group) : (s.modGroup i f).mail = s.mail := rfl
@[simp] theorem State.modGroup_msix (s : State) (i : Nat) (f : Group → Group) : (s.modGroup i f).msix = s.msix := rfl
@[simp] theorem State.modGroup_parts (s : State) (i : Nat) (f : Group → Group) : (s.modGroup i f).parts = s.parts := rfl
@[simp] theorem State.modGroup_loans (s : State) (i : Nat) (f : Group → Group) : (s.modGroup i f).loans = s.loans := rfl
@[simp] theorem State.modGroup_funcs (s : State) (i : Nat) (f : Group → Group) : (s.modGroup i f).funcs = s.funcs := rfl
@[simp] theorem State.modGroup_pageReqs (s : State) (i : Nat) (f : Group → Group) : (s.modGroup i f).pageReqs = s.pageReqs := rfl
@[simp] theorem State.modGroup_buckets (s : State) (i : Nat) (f : Group → Group) : (s.modGroup i f).buckets = s.buckets := rfl
@[simp] theorem State.modGroup_ports (s : State) (i : Nat) (f : Group → Group) : (s.modGroup i f).ports = s.ports := rfl
@[simp] theorem State.modGroup_grants (s : State) (i : Nat) (f : Group → Group) : (s.modGroup i f).grants = s.grants := rfl
@[simp] theorem State.modGroup_counts (s : State) (i : Nat) (f : Group → Group) : (s.modGroup i f).counts = s.counts := rfl
@[simp] theorem State.modGroup_contexts (s : State) (i : Nat) (f : Group → Group) : (s.modGroup i f).contexts = s.contexts := rfl
@[simp] theorem State.modGroup_launches (s : State) (i : Nat) (f : Group → Group) : (s.modGroup i f).launches = s.launches := rfl
@[simp] theorem State.modGroup_graphs (s : State) (i : Nat) (f : Group → Group) : (s.modGroup i f).graphs = s.graphs := rfl
@[simp] theorem State.modGroup_teams (s : State) (i : Nat) (f : Group → Group) : (s.modGroup i f).teams = s.teams := rfl
@[simp] theorem State.modGroup_groups (s : State) (i : Nat) (f : Group → Group) : (s.modGroup i f).groups = updId Group.id f s.groups i := rfl
@[simp] theorem State.modGroup_bins (s : State) (i : Nat) (f : Group → Group) : (s.modGroup i f).bins = s.bins := rfl
@[simp] theorem State.modGroup_pending (s : State) (i : Nat) (f : Group → Group) : (s.modGroup i f).pending = s.pending := rfl
@[simp] theorem State.modGroup_cus (s : State) (i : Nat) (f : Group → Group) : (s.modGroup i f).cus = s.cus := rfl
@[simp] theorem State.modGroup_dies (s : State) (i : Nat) (f : Group → Group) : (s.modGroup i f).dies = s.dies := rfl
@[simp] theorem State.modGroup_slots (s : State) (i : Nat) (f : Group → Group) : (s.modGroup i f).slots = s.slots := rfl
@[simp] theorem State.modGroup_held (s : State) (i : Nat) (f : Group → Group) : (s.modGroup i f).held = s.held := rfl
@[simp] theorem State.modGroup_peerData (s : State) (i : Nat) (f : Group → Group) : (s.modGroup i f).peerData = s.peerData := rfl
@[simp] theorem State.modGroup_packets (s : State) (i : Nat) (f : Group → Group) : (s.modGroup i f).packets = s.packets := rfl
@[simp] theorem State.modGroup_ecn (s : State) (i : Nat) (f : Group → Group) : (s.modGroup i f).ecn = s.ecn := rfl
@[simp] theorem State.modGroup_freeze (s : State) (i : Nat) (f : Group → Group) : (s.modGroup i f).freeze = s.freeze := rfl
@[simp] theorem State.modGroup_nextId (s : State) (i : Nat) (f : Group → Group) : (s.modGroup i f).nextId = s.nextId := rfl
@[simp] theorem State.modGroup_agenda (s : State) (i : Nat) (f : Group → Group) : (s.modGroup i f).agenda = s.agenda := rfl
@[simp] theorem State.modGroup_waiting (s : State) (i : Nat) (f : Group → Group) : (s.modGroup i f).waiting = s.waiting := rfl
@[simp] theorem State.modGroup_returned (s : State) (i : Nat) (f : Group → Group) : (s.modGroup i f).returned = s.returned := rfl
@[simp] theorem State.modGroup_input (s : State) (i : Nat) (f : Group → Group) : (s.modGroup i f).input = s.input := rfl
@[simp] theorem State.modGroup_cur (s : State) (i : Nat) (f : Group → Group) : (s.modGroup i f).cur = s.cur := rfl
@[simp] theorem State.modGroup_draws (s : State) (i : Nat) (f : Group → Group) : (s.modGroup i f).draws = s.draws := rfl

/-! ### modTeam -/

@[simp] theorem State.modTeam_clock (s : State) (i : Nat) (f : Team → Team) : (s.modTeam i f).clock = s.clock := rfl
@[simp] theorem State.modTeam_mem (s : State) (i : Nat) (f : Team → Team) : (s.modTeam i f).mem = s.mem := rfl
@[simp] theorem State.modTeam_poison (s : State) (i : Nat) (f : Team → Team) : (s.modTeam i f).poison = s.poison := rfl
@[simp] theorem State.modTeam_lines (s : State) (i : Nat) (f : Team → Team) : (s.modTeam i f).lines = s.lines := rfl
@[simp] theorem State.modTeam_classes (s : State) (i : Nat) (f : Team → Team) : (s.modTeam i f).classes = s.classes := rfl
@[simp] theorem State.modTeam_frames (s : State) (i : Nat) (f : Team → Team) : (s.modTeam i f).frames = s.frames := rfl
@[simp] theorem State.modTeam_trumps (s : State) (i : Nat) (f : Team → Team) : (s.modTeam i f).trumps = s.trumps := rfl
@[simp] theorem State.modTeam_trumpQueue (s : State) (i : Nat) (f : Team → Team) : (s.modTeam i f).trumpQueue = s.trumpQueue := rfl
@[simp] theorem State.modTeam_attempts (s : State) (i : Nat) (f : Team → Team) : (s.modTeam i f).attempts = s.attempts := rfl
@[simp] theorem State.modTeam_images (s : State) (i : Nat) (f : Team → Team) : (s.modTeam i f).images = s.images := rfl
@[simp] theorem State.modTeam_errors (s : State) (i : Nat) (f : Team → Team) : (s.modTeam i f).errors = s.errors := rfl
@[simp] theorem State.modTeam_powered (s : State) (i : Nat) (f : Team → Team) : (s.modTeam i f).powered = s.powered := rfl
@[simp] theorem State.modTeam_fitting (s : State) (i : Nat) (f : Team → Team) : (s.modTeam i f).fitting = s.fitting := rfl
@[simp] theorem State.modTeam_regs (s : State) (i : Nat) (f : Team → Team) : (s.modTeam i f).regs = s.regs := rfl
@[simp] theorem State.modTeam_links (s : State) (i : Nat) (f : Team → Team) : (s.modTeam i f).links = s.links := rfl
@[simp] theorem State.modTeam_mail (s : State) (i : Nat) (f : Team → Team) : (s.modTeam i f).mail = s.mail := rfl
@[simp] theorem State.modTeam_msix (s : State) (i : Nat) (f : Team → Team) : (s.modTeam i f).msix = s.msix := rfl
@[simp] theorem State.modTeam_parts (s : State) (i : Nat) (f : Team → Team) : (s.modTeam i f).parts = s.parts := rfl
@[simp] theorem State.modTeam_loans (s : State) (i : Nat) (f : Team → Team) : (s.modTeam i f).loans = s.loans := rfl
@[simp] theorem State.modTeam_funcs (s : State) (i : Nat) (f : Team → Team) : (s.modTeam i f).funcs = s.funcs := rfl
@[simp] theorem State.modTeam_pageReqs (s : State) (i : Nat) (f : Team → Team) : (s.modTeam i f).pageReqs = s.pageReqs := rfl
@[simp] theorem State.modTeam_buckets (s : State) (i : Nat) (f : Team → Team) : (s.modTeam i f).buckets = s.buckets := rfl
@[simp] theorem State.modTeam_ports (s : State) (i : Nat) (f : Team → Team) : (s.modTeam i f).ports = s.ports := rfl
@[simp] theorem State.modTeam_grants (s : State) (i : Nat) (f : Team → Team) : (s.modTeam i f).grants = s.grants := rfl
@[simp] theorem State.modTeam_counts (s : State) (i : Nat) (f : Team → Team) : (s.modTeam i f).counts = s.counts := rfl
@[simp] theorem State.modTeam_contexts (s : State) (i : Nat) (f : Team → Team) : (s.modTeam i f).contexts = s.contexts := rfl
@[simp] theorem State.modTeam_launches (s : State) (i : Nat) (f : Team → Team) : (s.modTeam i f).launches = s.launches := rfl
@[simp] theorem State.modTeam_graphs (s : State) (i : Nat) (f : Team → Team) : (s.modTeam i f).graphs = s.graphs := rfl
@[simp] theorem State.modTeam_teams (s : State) (i : Nat) (f : Team → Team) : (s.modTeam i f).teams = updId Team.id f s.teams i := rfl
@[simp] theorem State.modTeam_groups (s : State) (i : Nat) (f : Team → Team) : (s.modTeam i f).groups = s.groups := rfl
@[simp] theorem State.modTeam_bins (s : State) (i : Nat) (f : Team → Team) : (s.modTeam i f).bins = s.bins := rfl
@[simp] theorem State.modTeam_pending (s : State) (i : Nat) (f : Team → Team) : (s.modTeam i f).pending = s.pending := rfl
@[simp] theorem State.modTeam_cus (s : State) (i : Nat) (f : Team → Team) : (s.modTeam i f).cus = s.cus := rfl
@[simp] theorem State.modTeam_dies (s : State) (i : Nat) (f : Team → Team) : (s.modTeam i f).dies = s.dies := rfl
@[simp] theorem State.modTeam_slots (s : State) (i : Nat) (f : Team → Team) : (s.modTeam i f).slots = s.slots := rfl
@[simp] theorem State.modTeam_held (s : State) (i : Nat) (f : Team → Team) : (s.modTeam i f).held = s.held := rfl
@[simp] theorem State.modTeam_peerData (s : State) (i : Nat) (f : Team → Team) : (s.modTeam i f).peerData = s.peerData := rfl
@[simp] theorem State.modTeam_packets (s : State) (i : Nat) (f : Team → Team) : (s.modTeam i f).packets = s.packets := rfl
@[simp] theorem State.modTeam_ecn (s : State) (i : Nat) (f : Team → Team) : (s.modTeam i f).ecn = s.ecn := rfl
@[simp] theorem State.modTeam_freeze (s : State) (i : Nat) (f : Team → Team) : (s.modTeam i f).freeze = s.freeze := rfl
@[simp] theorem State.modTeam_nextId (s : State) (i : Nat) (f : Team → Team) : (s.modTeam i f).nextId = s.nextId := rfl
@[simp] theorem State.modTeam_agenda (s : State) (i : Nat) (f : Team → Team) : (s.modTeam i f).agenda = s.agenda := rfl
@[simp] theorem State.modTeam_waiting (s : State) (i : Nat) (f : Team → Team) : (s.modTeam i f).waiting = s.waiting := rfl
@[simp] theorem State.modTeam_returned (s : State) (i : Nat) (f : Team → Team) : (s.modTeam i f).returned = s.returned := rfl
@[simp] theorem State.modTeam_input (s : State) (i : Nat) (f : Team → Team) : (s.modTeam i f).input = s.input := rfl
@[simp] theorem State.modTeam_cur (s : State) (i : Nat) (f : Team → Team) : (s.modTeam i f).cur = s.cur := rfl
@[simp] theorem State.modTeam_draws (s : State) (i : Nat) (f : Team → Team) : (s.modTeam i f).draws = s.draws := rfl

/-! ### modLaunch -/

@[simp] theorem State.modLaunch_clock (s : State) (i : Nat) (f : Launch → Launch) : (s.modLaunch i f).clock = s.clock := rfl
@[simp] theorem State.modLaunch_mem (s : State) (i : Nat) (f : Launch → Launch) : (s.modLaunch i f).mem = s.mem := rfl
@[simp] theorem State.modLaunch_poison (s : State) (i : Nat) (f : Launch → Launch) : (s.modLaunch i f).poison = s.poison := rfl
@[simp] theorem State.modLaunch_lines (s : State) (i : Nat) (f : Launch → Launch) : (s.modLaunch i f).lines = s.lines := rfl
@[simp] theorem State.modLaunch_classes (s : State) (i : Nat) (f : Launch → Launch) : (s.modLaunch i f).classes = s.classes := rfl
@[simp] theorem State.modLaunch_frames (s : State) (i : Nat) (f : Launch → Launch) : (s.modLaunch i f).frames = s.frames := rfl
@[simp] theorem State.modLaunch_trumps (s : State) (i : Nat) (f : Launch → Launch) : (s.modLaunch i f).trumps = s.trumps := rfl
@[simp] theorem State.modLaunch_trumpQueue (s : State) (i : Nat) (f : Launch → Launch) : (s.modLaunch i f).trumpQueue = s.trumpQueue := rfl
@[simp] theorem State.modLaunch_attempts (s : State) (i : Nat) (f : Launch → Launch) : (s.modLaunch i f).attempts = s.attempts := rfl
@[simp] theorem State.modLaunch_images (s : State) (i : Nat) (f : Launch → Launch) : (s.modLaunch i f).images = s.images := rfl
@[simp] theorem State.modLaunch_errors (s : State) (i : Nat) (f : Launch → Launch) : (s.modLaunch i f).errors = s.errors := rfl
@[simp] theorem State.modLaunch_powered (s : State) (i : Nat) (f : Launch → Launch) : (s.modLaunch i f).powered = s.powered := rfl
@[simp] theorem State.modLaunch_fitting (s : State) (i : Nat) (f : Launch → Launch) : (s.modLaunch i f).fitting = s.fitting := rfl
@[simp] theorem State.modLaunch_regs (s : State) (i : Nat) (f : Launch → Launch) : (s.modLaunch i f).regs = s.regs := rfl
@[simp] theorem State.modLaunch_links (s : State) (i : Nat) (f : Launch → Launch) : (s.modLaunch i f).links = s.links := rfl
@[simp] theorem State.modLaunch_mail (s : State) (i : Nat) (f : Launch → Launch) : (s.modLaunch i f).mail = s.mail := rfl
@[simp] theorem State.modLaunch_msix (s : State) (i : Nat) (f : Launch → Launch) : (s.modLaunch i f).msix = s.msix := rfl
@[simp] theorem State.modLaunch_parts (s : State) (i : Nat) (f : Launch → Launch) : (s.modLaunch i f).parts = s.parts := rfl
@[simp] theorem State.modLaunch_loans (s : State) (i : Nat) (f : Launch → Launch) : (s.modLaunch i f).loans = s.loans := rfl
@[simp] theorem State.modLaunch_funcs (s : State) (i : Nat) (f : Launch → Launch) : (s.modLaunch i f).funcs = s.funcs := rfl
@[simp] theorem State.modLaunch_pageReqs (s : State) (i : Nat) (f : Launch → Launch) : (s.modLaunch i f).pageReqs = s.pageReqs := rfl
@[simp] theorem State.modLaunch_buckets (s : State) (i : Nat) (f : Launch → Launch) : (s.modLaunch i f).buckets = s.buckets := rfl
@[simp] theorem State.modLaunch_ports (s : State) (i : Nat) (f : Launch → Launch) : (s.modLaunch i f).ports = s.ports := rfl
@[simp] theorem State.modLaunch_grants (s : State) (i : Nat) (f : Launch → Launch) : (s.modLaunch i f).grants = s.grants := rfl
@[simp] theorem State.modLaunch_counts (s : State) (i : Nat) (f : Launch → Launch) : (s.modLaunch i f).counts = s.counts := rfl
@[simp] theorem State.modLaunch_contexts (s : State) (i : Nat) (f : Launch → Launch) : (s.modLaunch i f).contexts = s.contexts := rfl
@[simp] theorem State.modLaunch_launches (s : State) (i : Nat) (f : Launch → Launch) : (s.modLaunch i f).launches = updId Launch.id f s.launches i := rfl
@[simp] theorem State.modLaunch_graphs (s : State) (i : Nat) (f : Launch → Launch) : (s.modLaunch i f).graphs = s.graphs := rfl
@[simp] theorem State.modLaunch_teams (s : State) (i : Nat) (f : Launch → Launch) : (s.modLaunch i f).teams = s.teams := rfl
@[simp] theorem State.modLaunch_groups (s : State) (i : Nat) (f : Launch → Launch) : (s.modLaunch i f).groups = s.groups := rfl
@[simp] theorem State.modLaunch_bins (s : State) (i : Nat) (f : Launch → Launch) : (s.modLaunch i f).bins = s.bins := rfl
@[simp] theorem State.modLaunch_pending (s : State) (i : Nat) (f : Launch → Launch) : (s.modLaunch i f).pending = s.pending := rfl
@[simp] theorem State.modLaunch_cus (s : State) (i : Nat) (f : Launch → Launch) : (s.modLaunch i f).cus = s.cus := rfl
@[simp] theorem State.modLaunch_dies (s : State) (i : Nat) (f : Launch → Launch) : (s.modLaunch i f).dies = s.dies := rfl
@[simp] theorem State.modLaunch_slots (s : State) (i : Nat) (f : Launch → Launch) : (s.modLaunch i f).slots = s.slots := rfl
@[simp] theorem State.modLaunch_held (s : State) (i : Nat) (f : Launch → Launch) : (s.modLaunch i f).held = s.held := rfl
@[simp] theorem State.modLaunch_peerData (s : State) (i : Nat) (f : Launch → Launch) : (s.modLaunch i f).peerData = s.peerData := rfl
@[simp] theorem State.modLaunch_packets (s : State) (i : Nat) (f : Launch → Launch) : (s.modLaunch i f).packets = s.packets := rfl
@[simp] theorem State.modLaunch_ecn (s : State) (i : Nat) (f : Launch → Launch) : (s.modLaunch i f).ecn = s.ecn := rfl
@[simp] theorem State.modLaunch_freeze (s : State) (i : Nat) (f : Launch → Launch) : (s.modLaunch i f).freeze = s.freeze := rfl
@[simp] theorem State.modLaunch_nextId (s : State) (i : Nat) (f : Launch → Launch) : (s.modLaunch i f).nextId = s.nextId := rfl
@[simp] theorem State.modLaunch_agenda (s : State) (i : Nat) (f : Launch → Launch) : (s.modLaunch i f).agenda = s.agenda := rfl
@[simp] theorem State.modLaunch_waiting (s : State) (i : Nat) (f : Launch → Launch) : (s.modLaunch i f).waiting = s.waiting := rfl
@[simp] theorem State.modLaunch_returned (s : State) (i : Nat) (f : Launch → Launch) : (s.modLaunch i f).returned = s.returned := rfl
@[simp] theorem State.modLaunch_input (s : State) (i : Nat) (f : Launch → Launch) : (s.modLaunch i f).input = s.input := rfl
@[simp] theorem State.modLaunch_cur (s : State) (i : Nat) (f : Launch → Launch) : (s.modLaunch i f).cur = s.cur := rfl
@[simp] theorem State.modLaunch_draws (s : State) (i : Nat) (f : Launch → Launch) : (s.modLaunch i f).draws = s.draws := rfl

/-! ### modContext -/

@[simp] theorem State.modContext_clock (s : State) (i : Nat) (f : Context → Context) : (s.modContext i f).clock = s.clock := rfl
@[simp] theorem State.modContext_mem (s : State) (i : Nat) (f : Context → Context) : (s.modContext i f).mem = s.mem := rfl
@[simp] theorem State.modContext_poison (s : State) (i : Nat) (f : Context → Context) : (s.modContext i f).poison = s.poison := rfl
@[simp] theorem State.modContext_lines (s : State) (i : Nat) (f : Context → Context) : (s.modContext i f).lines = s.lines := rfl
@[simp] theorem State.modContext_classes (s : State) (i : Nat) (f : Context → Context) : (s.modContext i f).classes = s.classes := rfl
@[simp] theorem State.modContext_frames (s : State) (i : Nat) (f : Context → Context) : (s.modContext i f).frames = s.frames := rfl
@[simp] theorem State.modContext_trumps (s : State) (i : Nat) (f : Context → Context) : (s.modContext i f).trumps = s.trumps := rfl
@[simp] theorem State.modContext_trumpQueue (s : State) (i : Nat) (f : Context → Context) : (s.modContext i f).trumpQueue = s.trumpQueue := rfl
@[simp] theorem State.modContext_attempts (s : State) (i : Nat) (f : Context → Context) : (s.modContext i f).attempts = s.attempts := rfl
@[simp] theorem State.modContext_images (s : State) (i : Nat) (f : Context → Context) : (s.modContext i f).images = s.images := rfl
@[simp] theorem State.modContext_errors (s : State) (i : Nat) (f : Context → Context) : (s.modContext i f).errors = s.errors := rfl
@[simp] theorem State.modContext_powered (s : State) (i : Nat) (f : Context → Context) : (s.modContext i f).powered = s.powered := rfl
@[simp] theorem State.modContext_fitting (s : State) (i : Nat) (f : Context → Context) : (s.modContext i f).fitting = s.fitting := rfl
@[simp] theorem State.modContext_regs (s : State) (i : Nat) (f : Context → Context) : (s.modContext i f).regs = s.regs := rfl
@[simp] theorem State.modContext_links (s : State) (i : Nat) (f : Context → Context) : (s.modContext i f).links = s.links := rfl
@[simp] theorem State.modContext_mail (s : State) (i : Nat) (f : Context → Context) : (s.modContext i f).mail = s.mail := rfl
@[simp] theorem State.modContext_msix (s : State) (i : Nat) (f : Context → Context) : (s.modContext i f).msix = s.msix := rfl
@[simp] theorem State.modContext_parts (s : State) (i : Nat) (f : Context → Context) : (s.modContext i f).parts = s.parts := rfl
@[simp] theorem State.modContext_loans (s : State) (i : Nat) (f : Context → Context) : (s.modContext i f).loans = s.loans := rfl
@[simp] theorem State.modContext_funcs (s : State) (i : Nat) (f : Context → Context) : (s.modContext i f).funcs = s.funcs := rfl
@[simp] theorem State.modContext_pageReqs (s : State) (i : Nat) (f : Context → Context) : (s.modContext i f).pageReqs = s.pageReqs := rfl
@[simp] theorem State.modContext_buckets (s : State) (i : Nat) (f : Context → Context) : (s.modContext i f).buckets = s.buckets := rfl
@[simp] theorem State.modContext_ports (s : State) (i : Nat) (f : Context → Context) : (s.modContext i f).ports = s.ports := rfl
@[simp] theorem State.modContext_grants (s : State) (i : Nat) (f : Context → Context) : (s.modContext i f).grants = s.grants := rfl
@[simp] theorem State.modContext_counts (s : State) (i : Nat) (f : Context → Context) : (s.modContext i f).counts = s.counts := rfl
@[simp] theorem State.modContext_contexts (s : State) (i : Nat) (f : Context → Context) : (s.modContext i f).contexts = updId Context.asid f s.contexts i := rfl
@[simp] theorem State.modContext_launches (s : State) (i : Nat) (f : Context → Context) : (s.modContext i f).launches = s.launches := rfl
@[simp] theorem State.modContext_graphs (s : State) (i : Nat) (f : Context → Context) : (s.modContext i f).graphs = s.graphs := rfl
@[simp] theorem State.modContext_teams (s : State) (i : Nat) (f : Context → Context) : (s.modContext i f).teams = s.teams := rfl
@[simp] theorem State.modContext_groups (s : State) (i : Nat) (f : Context → Context) : (s.modContext i f).groups = s.groups := rfl
@[simp] theorem State.modContext_bins (s : State) (i : Nat) (f : Context → Context) : (s.modContext i f).bins = s.bins := rfl
@[simp] theorem State.modContext_pending (s : State) (i : Nat) (f : Context → Context) : (s.modContext i f).pending = s.pending := rfl
@[simp] theorem State.modContext_cus (s : State) (i : Nat) (f : Context → Context) : (s.modContext i f).cus = s.cus := rfl
@[simp] theorem State.modContext_dies (s : State) (i : Nat) (f : Context → Context) : (s.modContext i f).dies = s.dies := rfl
@[simp] theorem State.modContext_slots (s : State) (i : Nat) (f : Context → Context) : (s.modContext i f).slots = s.slots := rfl
@[simp] theorem State.modContext_held (s : State) (i : Nat) (f : Context → Context) : (s.modContext i f).held = s.held := rfl
@[simp] theorem State.modContext_peerData (s : State) (i : Nat) (f : Context → Context) : (s.modContext i f).peerData = s.peerData := rfl
@[simp] theorem State.modContext_packets (s : State) (i : Nat) (f : Context → Context) : (s.modContext i f).packets = s.packets := rfl
@[simp] theorem State.modContext_ecn (s : State) (i : Nat) (f : Context → Context) : (s.modContext i f).ecn = s.ecn := rfl
@[simp] theorem State.modContext_freeze (s : State) (i : Nat) (f : Context → Context) : (s.modContext i f).freeze = s.freeze := rfl
@[simp] theorem State.modContext_nextId (s : State) (i : Nat) (f : Context → Context) : (s.modContext i f).nextId = s.nextId := rfl
@[simp] theorem State.modContext_agenda (s : State) (i : Nat) (f : Context → Context) : (s.modContext i f).agenda = s.agenda := rfl
@[simp] theorem State.modContext_waiting (s : State) (i : Nat) (f : Context → Context) : (s.modContext i f).waiting = s.waiting := rfl
@[simp] theorem State.modContext_returned (s : State) (i : Nat) (f : Context → Context) : (s.modContext i f).returned = s.returned := rfl
@[simp] theorem State.modContext_input (s : State) (i : Nat) (f : Context → Context) : (s.modContext i f).input = s.input := rfl
@[simp] theorem State.modContext_cur (s : State) (i : Nat) (f : Context → Context) : (s.modContext i f).cur = s.cur := rfl
@[simp] theorem State.modContext_draws (s : State) (i : Nat) (f : Context → Context) : (s.modContext i f).draws = s.draws := rfl

/-! ### modCu -/

@[simp] theorem State.modCu_clock (s : State) (i : Nat) (f : Cu → Cu) : (s.modCu i f).clock = s.clock := rfl
@[simp] theorem State.modCu_mem (s : State) (i : Nat) (f : Cu → Cu) : (s.modCu i f).mem = s.mem := rfl
@[simp] theorem State.modCu_poison (s : State) (i : Nat) (f : Cu → Cu) : (s.modCu i f).poison = s.poison := rfl
@[simp] theorem State.modCu_lines (s : State) (i : Nat) (f : Cu → Cu) : (s.modCu i f).lines = s.lines := rfl
@[simp] theorem State.modCu_classes (s : State) (i : Nat) (f : Cu → Cu) : (s.modCu i f).classes = s.classes := rfl
@[simp] theorem State.modCu_frames (s : State) (i : Nat) (f : Cu → Cu) : (s.modCu i f).frames = s.frames := rfl
@[simp] theorem State.modCu_trumps (s : State) (i : Nat) (f : Cu → Cu) : (s.modCu i f).trumps = s.trumps := rfl
@[simp] theorem State.modCu_trumpQueue (s : State) (i : Nat) (f : Cu → Cu) : (s.modCu i f).trumpQueue = s.trumpQueue := rfl
@[simp] theorem State.modCu_attempts (s : State) (i : Nat) (f : Cu → Cu) : (s.modCu i f).attempts = s.attempts := rfl
@[simp] theorem State.modCu_images (s : State) (i : Nat) (f : Cu → Cu) : (s.modCu i f).images = s.images := rfl
@[simp] theorem State.modCu_errors (s : State) (i : Nat) (f : Cu → Cu) : (s.modCu i f).errors = s.errors := rfl
@[simp] theorem State.modCu_powered (s : State) (i : Nat) (f : Cu → Cu) : (s.modCu i f).powered = s.powered := rfl
@[simp] theorem State.modCu_fitting (s : State) (i : Nat) (f : Cu → Cu) : (s.modCu i f).fitting = s.fitting := rfl
@[simp] theorem State.modCu_regs (s : State) (i : Nat) (f : Cu → Cu) : (s.modCu i f).regs = s.regs := rfl
@[simp] theorem State.modCu_links (s : State) (i : Nat) (f : Cu → Cu) : (s.modCu i f).links = s.links := rfl
@[simp] theorem State.modCu_mail (s : State) (i : Nat) (f : Cu → Cu) : (s.modCu i f).mail = s.mail := rfl
@[simp] theorem State.modCu_msix (s : State) (i : Nat) (f : Cu → Cu) : (s.modCu i f).msix = s.msix := rfl
@[simp] theorem State.modCu_parts (s : State) (i : Nat) (f : Cu → Cu) : (s.modCu i f).parts = s.parts := rfl
@[simp] theorem State.modCu_loans (s : State) (i : Nat) (f : Cu → Cu) : (s.modCu i f).loans = s.loans := rfl
@[simp] theorem State.modCu_funcs (s : State) (i : Nat) (f : Cu → Cu) : (s.modCu i f).funcs = s.funcs := rfl
@[simp] theorem State.modCu_pageReqs (s : State) (i : Nat) (f : Cu → Cu) : (s.modCu i f).pageReqs = s.pageReqs := rfl
@[simp] theorem State.modCu_buckets (s : State) (i : Nat) (f : Cu → Cu) : (s.modCu i f).buckets = s.buckets := rfl
@[simp] theorem State.modCu_ports (s : State) (i : Nat) (f : Cu → Cu) : (s.modCu i f).ports = s.ports := rfl
@[simp] theorem State.modCu_grants (s : State) (i : Nat) (f : Cu → Cu) : (s.modCu i f).grants = s.grants := rfl
@[simp] theorem State.modCu_counts (s : State) (i : Nat) (f : Cu → Cu) : (s.modCu i f).counts = s.counts := rfl
@[simp] theorem State.modCu_contexts (s : State) (i : Nat) (f : Cu → Cu) : (s.modCu i f).contexts = s.contexts := rfl
@[simp] theorem State.modCu_launches (s : State) (i : Nat) (f : Cu → Cu) : (s.modCu i f).launches = s.launches := rfl
@[simp] theorem State.modCu_graphs (s : State) (i : Nat) (f : Cu → Cu) : (s.modCu i f).graphs = s.graphs := rfl
@[simp] theorem State.modCu_teams (s : State) (i : Nat) (f : Cu → Cu) : (s.modCu i f).teams = s.teams := rfl
@[simp] theorem State.modCu_groups (s : State) (i : Nat) (f : Cu → Cu) : (s.modCu i f).groups = s.groups := rfl
@[simp] theorem State.modCu_bins (s : State) (i : Nat) (f : Cu → Cu) : (s.modCu i f).bins = s.bins := rfl
@[simp] theorem State.modCu_pending (s : State) (i : Nat) (f : Cu → Cu) : (s.modCu i f).pending = s.pending := rfl
@[simp] theorem State.modCu_cus (s : State) (i : Nat) (f : Cu → Cu) : (s.modCu i f).cus = supd Cu.empty s.cus i f := rfl
@[simp] theorem State.modCu_dies (s : State) (i : Nat) (f : Cu → Cu) : (s.modCu i f).dies = s.dies := rfl
@[simp] theorem State.modCu_slots (s : State) (i : Nat) (f : Cu → Cu) : (s.modCu i f).slots = s.slots := rfl
@[simp] theorem State.modCu_held (s : State) (i : Nat) (f : Cu → Cu) : (s.modCu i f).held = s.held := rfl
@[simp] theorem State.modCu_peerData (s : State) (i : Nat) (f : Cu → Cu) : (s.modCu i f).peerData = s.peerData := rfl
@[simp] theorem State.modCu_packets (s : State) (i : Nat) (f : Cu → Cu) : (s.modCu i f).packets = s.packets := rfl
@[simp] theorem State.modCu_ecn (s : State) (i : Nat) (f : Cu → Cu) : (s.modCu i f).ecn = s.ecn := rfl
@[simp] theorem State.modCu_freeze (s : State) (i : Nat) (f : Cu → Cu) : (s.modCu i f).freeze = s.freeze := rfl
@[simp] theorem State.modCu_nextId (s : State) (i : Nat) (f : Cu → Cu) : (s.modCu i f).nextId = s.nextId := rfl
@[simp] theorem State.modCu_agenda (s : State) (i : Nat) (f : Cu → Cu) : (s.modCu i f).agenda = s.agenda := rfl
@[simp] theorem State.modCu_waiting (s : State) (i : Nat) (f : Cu → Cu) : (s.modCu i f).waiting = s.waiting := rfl
@[simp] theorem State.modCu_returned (s : State) (i : Nat) (f : Cu → Cu) : (s.modCu i f).returned = s.returned := rfl
@[simp] theorem State.modCu_input (s : State) (i : Nat) (f : Cu → Cu) : (s.modCu i f).input = s.input := rfl
@[simp] theorem State.modCu_cur (s : State) (i : Nat) (f : Cu → Cu) : (s.modCu i f).cur = s.cur := rfl
@[simp] theorem State.modCu_draws (s : State) (i : Nat) (f : Cu → Cu) : (s.modCu i f).draws = s.draws := rfl

/-! ### modDie -/

@[simp] theorem State.modDie_clock (s : State) (i : Nat) (f : Die → Die) : (s.modDie i f).clock = s.clock := rfl
@[simp] theorem State.modDie_mem (s : State) (i : Nat) (f : Die → Die) : (s.modDie i f).mem = s.mem := rfl
@[simp] theorem State.modDie_poison (s : State) (i : Nat) (f : Die → Die) : (s.modDie i f).poison = s.poison := rfl
@[simp] theorem State.modDie_lines (s : State) (i : Nat) (f : Die → Die) : (s.modDie i f).lines = s.lines := rfl
@[simp] theorem State.modDie_classes (s : State) (i : Nat) (f : Die → Die) : (s.modDie i f).classes = s.classes := rfl
@[simp] theorem State.modDie_frames (s : State) (i : Nat) (f : Die → Die) : (s.modDie i f).frames = s.frames := rfl
@[simp] theorem State.modDie_trumps (s : State) (i : Nat) (f : Die → Die) : (s.modDie i f).trumps = s.trumps := rfl
@[simp] theorem State.modDie_trumpQueue (s : State) (i : Nat) (f : Die → Die) : (s.modDie i f).trumpQueue = s.trumpQueue := rfl
@[simp] theorem State.modDie_attempts (s : State) (i : Nat) (f : Die → Die) : (s.modDie i f).attempts = s.attempts := rfl
@[simp] theorem State.modDie_images (s : State) (i : Nat) (f : Die → Die) : (s.modDie i f).images = s.images := rfl
@[simp] theorem State.modDie_errors (s : State) (i : Nat) (f : Die → Die) : (s.modDie i f).errors = s.errors := rfl
@[simp] theorem State.modDie_powered (s : State) (i : Nat) (f : Die → Die) : (s.modDie i f).powered = s.powered := rfl
@[simp] theorem State.modDie_fitting (s : State) (i : Nat) (f : Die → Die) : (s.modDie i f).fitting = s.fitting := rfl
@[simp] theorem State.modDie_regs (s : State) (i : Nat) (f : Die → Die) : (s.modDie i f).regs = s.regs := rfl
@[simp] theorem State.modDie_links (s : State) (i : Nat) (f : Die → Die) : (s.modDie i f).links = s.links := rfl
@[simp] theorem State.modDie_mail (s : State) (i : Nat) (f : Die → Die) : (s.modDie i f).mail = s.mail := rfl
@[simp] theorem State.modDie_msix (s : State) (i : Nat) (f : Die → Die) : (s.modDie i f).msix = s.msix := rfl
@[simp] theorem State.modDie_parts (s : State) (i : Nat) (f : Die → Die) : (s.modDie i f).parts = s.parts := rfl
@[simp] theorem State.modDie_loans (s : State) (i : Nat) (f : Die → Die) : (s.modDie i f).loans = s.loans := rfl
@[simp] theorem State.modDie_funcs (s : State) (i : Nat) (f : Die → Die) : (s.modDie i f).funcs = s.funcs := rfl
@[simp] theorem State.modDie_pageReqs (s : State) (i : Nat) (f : Die → Die) : (s.modDie i f).pageReqs = s.pageReqs := rfl
@[simp] theorem State.modDie_buckets (s : State) (i : Nat) (f : Die → Die) : (s.modDie i f).buckets = s.buckets := rfl
@[simp] theorem State.modDie_ports (s : State) (i : Nat) (f : Die → Die) : (s.modDie i f).ports = s.ports := rfl
@[simp] theorem State.modDie_grants (s : State) (i : Nat) (f : Die → Die) : (s.modDie i f).grants = s.grants := rfl
@[simp] theorem State.modDie_counts (s : State) (i : Nat) (f : Die → Die) : (s.modDie i f).counts = s.counts := rfl
@[simp] theorem State.modDie_contexts (s : State) (i : Nat) (f : Die → Die) : (s.modDie i f).contexts = s.contexts := rfl
@[simp] theorem State.modDie_launches (s : State) (i : Nat) (f : Die → Die) : (s.modDie i f).launches = s.launches := rfl
@[simp] theorem State.modDie_graphs (s : State) (i : Nat) (f : Die → Die) : (s.modDie i f).graphs = s.graphs := rfl
@[simp] theorem State.modDie_teams (s : State) (i : Nat) (f : Die → Die) : (s.modDie i f).teams = s.teams := rfl
@[simp] theorem State.modDie_groups (s : State) (i : Nat) (f : Die → Die) : (s.modDie i f).groups = s.groups := rfl
@[simp] theorem State.modDie_bins (s : State) (i : Nat) (f : Die → Die) : (s.modDie i f).bins = s.bins := rfl
@[simp] theorem State.modDie_pending (s : State) (i : Nat) (f : Die → Die) : (s.modDie i f).pending = s.pending := rfl
@[simp] theorem State.modDie_cus (s : State) (i : Nat) (f : Die → Die) : (s.modDie i f).cus = s.cus := rfl
@[simp] theorem State.modDie_dies (s : State) (i : Nat) (f : Die → Die) : (s.modDie i f).dies = supd ⟨[], []⟩ s.dies i f := rfl
@[simp] theorem State.modDie_slots (s : State) (i : Nat) (f : Die → Die) : (s.modDie i f).slots = s.slots := rfl
@[simp] theorem State.modDie_held (s : State) (i : Nat) (f : Die → Die) : (s.modDie i f).held = s.held := rfl
@[simp] theorem State.modDie_peerData (s : State) (i : Nat) (f : Die → Die) : (s.modDie i f).peerData = s.peerData := rfl
@[simp] theorem State.modDie_packets (s : State) (i : Nat) (f : Die → Die) : (s.modDie i f).packets = s.packets := rfl
@[simp] theorem State.modDie_ecn (s : State) (i : Nat) (f : Die → Die) : (s.modDie i f).ecn = s.ecn := rfl
@[simp] theorem State.modDie_freeze (s : State) (i : Nat) (f : Die → Die) : (s.modDie i f).freeze = s.freeze := rfl
@[simp] theorem State.modDie_nextId (s : State) (i : Nat) (f : Die → Die) : (s.modDie i f).nextId = s.nextId := rfl
@[simp] theorem State.modDie_agenda (s : State) (i : Nat) (f : Die → Die) : (s.modDie i f).agenda = s.agenda := rfl
@[simp] theorem State.modDie_waiting (s : State) (i : Nat) (f : Die → Die) : (s.modDie i f).waiting = s.waiting := rfl
@[simp] theorem State.modDie_returned (s : State) (i : Nat) (f : Die → Die) : (s.modDie i f).returned = s.returned := rfl
@[simp] theorem State.modDie_input (s : State) (i : Nat) (f : Die → Die) : (s.modDie i f).input = s.input := rfl
@[simp] theorem State.modDie_cur (s : State) (i : Nat) (f : Die → Die) : (s.modDie i f).cur = s.cur := rfl
@[simp] theorem State.modDie_draws (s : State) (i : Nat) (f : Die → Die) : (s.modDie i f).draws = s.draws := rfl

/-! ### modSlot -/

@[simp] theorem State.modSlot_clock (s : State) (i : Nat) (f : Slot → Slot) : (s.modSlot i f).clock = s.clock := rfl
@[simp] theorem State.modSlot_mem (s : State) (i : Nat) (f : Slot → Slot) : (s.modSlot i f).mem = s.mem := rfl
@[simp] theorem State.modSlot_poison (s : State) (i : Nat) (f : Slot → Slot) : (s.modSlot i f).poison = s.poison := rfl
@[simp] theorem State.modSlot_lines (s : State) (i : Nat) (f : Slot → Slot) : (s.modSlot i f).lines = s.lines := rfl
@[simp] theorem State.modSlot_classes (s : State) (i : Nat) (f : Slot → Slot) : (s.modSlot i f).classes = s.classes := rfl
@[simp] theorem State.modSlot_frames (s : State) (i : Nat) (f : Slot → Slot) : (s.modSlot i f).frames = s.frames := rfl
@[simp] theorem State.modSlot_trumps (s : State) (i : Nat) (f : Slot → Slot) : (s.modSlot i f).trumps = s.trumps := rfl
@[simp] theorem State.modSlot_trumpQueue (s : State) (i : Nat) (f : Slot → Slot) : (s.modSlot i f).trumpQueue = s.trumpQueue := rfl
@[simp] theorem State.modSlot_attempts (s : State) (i : Nat) (f : Slot → Slot) : (s.modSlot i f).attempts = s.attempts := rfl
@[simp] theorem State.modSlot_images (s : State) (i : Nat) (f : Slot → Slot) : (s.modSlot i f).images = s.images := rfl
@[simp] theorem State.modSlot_errors (s : State) (i : Nat) (f : Slot → Slot) : (s.modSlot i f).errors = s.errors := rfl
@[simp] theorem State.modSlot_powered (s : State) (i : Nat) (f : Slot → Slot) : (s.modSlot i f).powered = s.powered := rfl
@[simp] theorem State.modSlot_fitting (s : State) (i : Nat) (f : Slot → Slot) : (s.modSlot i f).fitting = s.fitting := rfl
@[simp] theorem State.modSlot_regs (s : State) (i : Nat) (f : Slot → Slot) : (s.modSlot i f).regs = s.regs := rfl
@[simp] theorem State.modSlot_links (s : State) (i : Nat) (f : Slot → Slot) : (s.modSlot i f).links = s.links := rfl
@[simp] theorem State.modSlot_mail (s : State) (i : Nat) (f : Slot → Slot) : (s.modSlot i f).mail = s.mail := rfl
@[simp] theorem State.modSlot_msix (s : State) (i : Nat) (f : Slot → Slot) : (s.modSlot i f).msix = s.msix := rfl
@[simp] theorem State.modSlot_parts (s : State) (i : Nat) (f : Slot → Slot) : (s.modSlot i f).parts = s.parts := rfl
@[simp] theorem State.modSlot_loans (s : State) (i : Nat) (f : Slot → Slot) : (s.modSlot i f).loans = s.loans := rfl
@[simp] theorem State.modSlot_funcs (s : State) (i : Nat) (f : Slot → Slot) : (s.modSlot i f).funcs = s.funcs := rfl
@[simp] theorem State.modSlot_pageReqs (s : State) (i : Nat) (f : Slot → Slot) : (s.modSlot i f).pageReqs = s.pageReqs := rfl
@[simp] theorem State.modSlot_buckets (s : State) (i : Nat) (f : Slot → Slot) : (s.modSlot i f).buckets = s.buckets := rfl
@[simp] theorem State.modSlot_ports (s : State) (i : Nat) (f : Slot → Slot) : (s.modSlot i f).ports = s.ports := rfl
@[simp] theorem State.modSlot_grants (s : State) (i : Nat) (f : Slot → Slot) : (s.modSlot i f).grants = s.grants := rfl
@[simp] theorem State.modSlot_counts (s : State) (i : Nat) (f : Slot → Slot) : (s.modSlot i f).counts = s.counts := rfl
@[simp] theorem State.modSlot_contexts (s : State) (i : Nat) (f : Slot → Slot) : (s.modSlot i f).contexts = s.contexts := rfl
@[simp] theorem State.modSlot_launches (s : State) (i : Nat) (f : Slot → Slot) : (s.modSlot i f).launches = s.launches := rfl
@[simp] theorem State.modSlot_graphs (s : State) (i : Nat) (f : Slot → Slot) : (s.modSlot i f).graphs = s.graphs := rfl
@[simp] theorem State.modSlot_teams (s : State) (i : Nat) (f : Slot → Slot) : (s.modSlot i f).teams = s.teams := rfl
@[simp] theorem State.modSlot_groups (s : State) (i : Nat) (f : Slot → Slot) : (s.modSlot i f).groups = s.groups := rfl
@[simp] theorem State.modSlot_bins (s : State) (i : Nat) (f : Slot → Slot) : (s.modSlot i f).bins = s.bins := rfl
@[simp] theorem State.modSlot_pending (s : State) (i : Nat) (f : Slot → Slot) : (s.modSlot i f).pending = s.pending := rfl
@[simp] theorem State.modSlot_cus (s : State) (i : Nat) (f : Slot → Slot) : (s.modSlot i f).cus = s.cus := rfl
@[simp] theorem State.modSlot_dies (s : State) (i : Nat) (f : Slot → Slot) : (s.modSlot i f).dies = s.dies := rfl
@[simp] theorem State.modSlot_slots (s : State) (i : Nat) (f : Slot → Slot) : (s.modSlot i f).slots = supd Slot.empty s.slots i f := rfl
@[simp] theorem State.modSlot_held (s : State) (i : Nat) (f : Slot → Slot) : (s.modSlot i f).held = s.held := rfl
@[simp] theorem State.modSlot_peerData (s : State) (i : Nat) (f : Slot → Slot) : (s.modSlot i f).peerData = s.peerData := rfl
@[simp] theorem State.modSlot_packets (s : State) (i : Nat) (f : Slot → Slot) : (s.modSlot i f).packets = s.packets := rfl
@[simp] theorem State.modSlot_ecn (s : State) (i : Nat) (f : Slot → Slot) : (s.modSlot i f).ecn = s.ecn := rfl
@[simp] theorem State.modSlot_freeze (s : State) (i : Nat) (f : Slot → Slot) : (s.modSlot i f).freeze = s.freeze := rfl
@[simp] theorem State.modSlot_nextId (s : State) (i : Nat) (f : Slot → Slot) : (s.modSlot i f).nextId = s.nextId := rfl
@[simp] theorem State.modSlot_agenda (s : State) (i : Nat) (f : Slot → Slot) : (s.modSlot i f).agenda = s.agenda := rfl
@[simp] theorem State.modSlot_waiting (s : State) (i : Nat) (f : Slot → Slot) : (s.modSlot i f).waiting = s.waiting := rfl
@[simp] theorem State.modSlot_returned (s : State) (i : Nat) (f : Slot → Slot) : (s.modSlot i f).returned = s.returned := rfl
@[simp] theorem State.modSlot_input (s : State) (i : Nat) (f : Slot → Slot) : (s.modSlot i f).input = s.input := rfl
@[simp] theorem State.modSlot_cur (s : State) (i : Nat) (f : Slot → Slot) : (s.modSlot i f).cur = s.cur := rfl
@[simp] theorem State.modSlot_draws (s : State) (i : Nat) (f : Slot → Slot) : (s.modSlot i f).draws = s.draws := rfl

/-! ### modLine -/

@[simp] theorem State.modLine_clock (s : State) (i : Nat) (f : Line → Line) : (s.modLine i f).clock = s.clock := rfl
@[simp] theorem State.modLine_mem (s : State) (i : Nat) (f : Line → Line) : (s.modLine i f).mem = s.mem := rfl
@[simp] theorem State.modLine_poison (s : State) (i : Nat) (f : Line → Line) : (s.modLine i f).poison = s.poison := rfl
@[simp] theorem State.modLine_lines (s : State) (i : Nat) (f : Line → Line) : (s.modLine i f).lines = supd Line.reset s.lines i f := rfl
@[simp] theorem State.modLine_classes (s : State) (i : Nat) (f : Line → Line) : (s.modLine i f).classes = s.classes := rfl
@[simp] theorem State.modLine_frames (s : State) (i : Nat) (f : Line → Line) : (s.modLine i f).frames = s.frames := rfl
@[simp] theorem State.modLine_trumps (s : State) (i : Nat) (f : Line → Line) : (s.modLine i f).trumps = s.trumps := rfl
@[simp] theorem State.modLine_trumpQueue (s : State) (i : Nat) (f : Line → Line) : (s.modLine i f).trumpQueue = s.trumpQueue := rfl
@[simp] theorem State.modLine_attempts (s : State) (i : Nat) (f : Line → Line) : (s.modLine i f).attempts = s.attempts := rfl
@[simp] theorem State.modLine_images (s : State) (i : Nat) (f : Line → Line) : (s.modLine i f).images = s.images := rfl
@[simp] theorem State.modLine_errors (s : State) (i : Nat) (f : Line → Line) : (s.modLine i f).errors = s.errors := rfl
@[simp] theorem State.modLine_powered (s : State) (i : Nat) (f : Line → Line) : (s.modLine i f).powered = s.powered := rfl
@[simp] theorem State.modLine_fitting (s : State) (i : Nat) (f : Line → Line) : (s.modLine i f).fitting = s.fitting := rfl
@[simp] theorem State.modLine_regs (s : State) (i : Nat) (f : Line → Line) : (s.modLine i f).regs = s.regs := rfl
@[simp] theorem State.modLine_links (s : State) (i : Nat) (f : Line → Line) : (s.modLine i f).links = s.links := rfl
@[simp] theorem State.modLine_mail (s : State) (i : Nat) (f : Line → Line) : (s.modLine i f).mail = s.mail := rfl
@[simp] theorem State.modLine_msix (s : State) (i : Nat) (f : Line → Line) : (s.modLine i f).msix = s.msix := rfl
@[simp] theorem State.modLine_parts (s : State) (i : Nat) (f : Line → Line) : (s.modLine i f).parts = s.parts := rfl
@[simp] theorem State.modLine_loans (s : State) (i : Nat) (f : Line → Line) : (s.modLine i f).loans = s.loans := rfl
@[simp] theorem State.modLine_funcs (s : State) (i : Nat) (f : Line → Line) : (s.modLine i f).funcs = s.funcs := rfl
@[simp] theorem State.modLine_pageReqs (s : State) (i : Nat) (f : Line → Line) : (s.modLine i f).pageReqs = s.pageReqs := rfl
@[simp] theorem State.modLine_buckets (s : State) (i : Nat) (f : Line → Line) : (s.modLine i f).buckets = s.buckets := rfl
@[simp] theorem State.modLine_ports (s : State) (i : Nat) (f : Line → Line) : (s.modLine i f).ports = s.ports := rfl
@[simp] theorem State.modLine_grants (s : State) (i : Nat) (f : Line → Line) : (s.modLine i f).grants = s.grants := rfl
@[simp] theorem State.modLine_counts (s : State) (i : Nat) (f : Line → Line) : (s.modLine i f).counts = s.counts := rfl
@[simp] theorem State.modLine_contexts (s : State) (i : Nat) (f : Line → Line) : (s.modLine i f).contexts = s.contexts := rfl
@[simp] theorem State.modLine_launches (s : State) (i : Nat) (f : Line → Line) : (s.modLine i f).launches = s.launches := rfl
@[simp] theorem State.modLine_graphs (s : State) (i : Nat) (f : Line → Line) : (s.modLine i f).graphs = s.graphs := rfl
@[simp] theorem State.modLine_teams (s : State) (i : Nat) (f : Line → Line) : (s.modLine i f).teams = s.teams := rfl
@[simp] theorem State.modLine_groups (s : State) (i : Nat) (f : Line → Line) : (s.modLine i f).groups = s.groups := rfl
@[simp] theorem State.modLine_bins (s : State) (i : Nat) (f : Line → Line) : (s.modLine i f).bins = s.bins := rfl
@[simp] theorem State.modLine_pending (s : State) (i : Nat) (f : Line → Line) : (s.modLine i f).pending = s.pending := rfl
@[simp] theorem State.modLine_cus (s : State) (i : Nat) (f : Line → Line) : (s.modLine i f).cus = s.cus := rfl
@[simp] theorem State.modLine_dies (s : State) (i : Nat) (f : Line → Line) : (s.modLine i f).dies = s.dies := rfl
@[simp] theorem State.modLine_slots (s : State) (i : Nat) (f : Line → Line) : (s.modLine i f).slots = s.slots := rfl
@[simp] theorem State.modLine_held (s : State) (i : Nat) (f : Line → Line) : (s.modLine i f).held = s.held := rfl
@[simp] theorem State.modLine_peerData (s : State) (i : Nat) (f : Line → Line) : (s.modLine i f).peerData = s.peerData := rfl
@[simp] theorem State.modLine_packets (s : State) (i : Nat) (f : Line → Line) : (s.modLine i f).packets = s.packets := rfl
@[simp] theorem State.modLine_ecn (s : State) (i : Nat) (f : Line → Line) : (s.modLine i f).ecn = s.ecn := rfl
@[simp] theorem State.modLine_freeze (s : State) (i : Nat) (f : Line → Line) : (s.modLine i f).freeze = s.freeze := rfl
@[simp] theorem State.modLine_nextId (s : State) (i : Nat) (f : Line → Line) : (s.modLine i f).nextId = s.nextId := rfl
@[simp] theorem State.modLine_agenda (s : State) (i : Nat) (f : Line → Line) : (s.modLine i f).agenda = s.agenda := rfl
@[simp] theorem State.modLine_waiting (s : State) (i : Nat) (f : Line → Line) : (s.modLine i f).waiting = s.waiting := rfl
@[simp] theorem State.modLine_returned (s : State) (i : Nat) (f : Line → Line) : (s.modLine i f).returned = s.returned := rfl
@[simp] theorem State.modLine_input (s : State) (i : Nat) (f : Line → Line) : (s.modLine i f).input = s.input := rfl
@[simp] theorem State.modLine_cur (s : State) (i : Nat) (f : Line → Line) : (s.modLine i f).cur = s.cur := rfl
@[simp] theorem State.modLine_draws (s : State) (i : Nat) (f : Line → Line) : (s.modLine i f).draws = s.draws := rfl

/-! ### modFunc -/

@[simp] theorem State.modFunc_clock (s : State) (i : Nat) (f : Func → Func) : (s.modFunc i f).clock = s.clock := rfl
@[simp] theorem State.modFunc_mem (s : State) (i : Nat) (f : Func → Func) : (s.modFunc i f).mem = s.mem := rfl
@[simp] theorem State.modFunc_poison (s : State) (i : Nat) (f : Func → Func) : (s.modFunc i f).poison = s.poison := rfl
@[simp] theorem State.modFunc_lines (s : State) (i : Nat) (f : Func → Func) : (s.modFunc i f).lines = s.lines := rfl
@[simp] theorem State.modFunc_classes (s : State) (i : Nat) (f : Func → Func) : (s.modFunc i f).classes = s.classes := rfl
@[simp] theorem State.modFunc_frames (s : State) (i : Nat) (f : Func → Func) : (s.modFunc i f).frames = s.frames := rfl
@[simp] theorem State.modFunc_trumps (s : State) (i : Nat) (f : Func → Func) : (s.modFunc i f).trumps = s.trumps := rfl
@[simp] theorem State.modFunc_trumpQueue (s : State) (i : Nat) (f : Func → Func) : (s.modFunc i f).trumpQueue = s.trumpQueue := rfl
@[simp] theorem State.modFunc_attempts (s : State) (i : Nat) (f : Func → Func) : (s.modFunc i f).attempts = s.attempts := rfl
@[simp] theorem State.modFunc_images (s : State) (i : Nat) (f : Func → Func) : (s.modFunc i f).images = s.images := rfl
@[simp] theorem State.modFunc_errors (s : State) (i : Nat) (f : Func → Func) : (s.modFunc i f).errors = s.errors := rfl
@[simp] theorem State.modFunc_powered (s : State) (i : Nat) (f : Func → Func) : (s.modFunc i f).powered = s.powered := rfl
@[simp] theorem State.modFunc_fitting (s : State) (i : Nat) (f : Func → Func) : (s.modFunc i f).fitting = s.fitting := rfl
@[simp] theorem State.modFunc_regs (s : State) (i : Nat) (f : Func → Func) : (s.modFunc i f).regs = s.regs := rfl
@[simp] theorem State.modFunc_links (s : State) (i : Nat) (f : Func → Func) : (s.modFunc i f).links = s.links := rfl
@[simp] theorem State.modFunc_mail (s : State) (i : Nat) (f : Func → Func) : (s.modFunc i f).mail = s.mail := rfl
@[simp] theorem State.modFunc_msix (s : State) (i : Nat) (f : Func → Func) : (s.modFunc i f).msix = s.msix := rfl
@[simp] theorem State.modFunc_parts (s : State) (i : Nat) (f : Func → Func) : (s.modFunc i f).parts = s.parts := rfl
@[simp] theorem State.modFunc_loans (s : State) (i : Nat) (f : Func → Func) : (s.modFunc i f).loans = s.loans := rfl
@[simp] theorem State.modFunc_funcs (s : State) (i : Nat) (f : Func → Func) : (s.modFunc i f).funcs = supd Func.unbound s.funcs i f := rfl
@[simp] theorem State.modFunc_pageReqs (s : State) (i : Nat) (f : Func → Func) : (s.modFunc i f).pageReqs = s.pageReqs := rfl
@[simp] theorem State.modFunc_buckets (s : State) (i : Nat) (f : Func → Func) : (s.modFunc i f).buckets = s.buckets := rfl
@[simp] theorem State.modFunc_ports (s : State) (i : Nat) (f : Func → Func) : (s.modFunc i f).ports = s.ports := rfl
@[simp] theorem State.modFunc_grants (s : State) (i : Nat) (f : Func → Func) : (s.modFunc i f).grants = s.grants := rfl
@[simp] theorem State.modFunc_counts (s : State) (i : Nat) (f : Func → Func) : (s.modFunc i f).counts = s.counts := rfl
@[simp] theorem State.modFunc_contexts (s : State) (i : Nat) (f : Func → Func) : (s.modFunc i f).contexts = s.contexts := rfl
@[simp] theorem State.modFunc_launches (s : State) (i : Nat) (f : Func → Func) : (s.modFunc i f).launches = s.launches := rfl
@[simp] theorem State.modFunc_graphs (s : State) (i : Nat) (f : Func → Func) : (s.modFunc i f).graphs = s.graphs := rfl
@[simp] theorem State.modFunc_teams (s : State) (i : Nat) (f : Func → Func) : (s.modFunc i f).teams = s.teams := rfl
@[simp] theorem State.modFunc_groups (s : State) (i : Nat) (f : Func → Func) : (s.modFunc i f).groups = s.groups := rfl
@[simp] theorem State.modFunc_bins (s : State) (i : Nat) (f : Func → Func) : (s.modFunc i f).bins = s.bins := rfl
@[simp] theorem State.modFunc_pending (s : State) (i : Nat) (f : Func → Func) : (s.modFunc i f).pending = s.pending := rfl
@[simp] theorem State.modFunc_cus (s : State) (i : Nat) (f : Func → Func) : (s.modFunc i f).cus = s.cus := rfl
@[simp] theorem State.modFunc_dies (s : State) (i : Nat) (f : Func → Func) : (s.modFunc i f).dies = s.dies := rfl
@[simp] theorem State.modFunc_slots (s : State) (i : Nat) (f : Func → Func) : (s.modFunc i f).slots = s.slots := rfl
@[simp] theorem State.modFunc_held (s : State) (i : Nat) (f : Func → Func) : (s.modFunc i f).held = s.held := rfl
@[simp] theorem State.modFunc_peerData (s : State) (i : Nat) (f : Func → Func) : (s.modFunc i f).peerData = s.peerData := rfl
@[simp] theorem State.modFunc_packets (s : State) (i : Nat) (f : Func → Func) : (s.modFunc i f).packets = s.packets := rfl
@[simp] theorem State.modFunc_ecn (s : State) (i : Nat) (f : Func → Func) : (s.modFunc i f).ecn = s.ecn := rfl
@[simp] theorem State.modFunc_freeze (s : State) (i : Nat) (f : Func → Func) : (s.modFunc i f).freeze = s.freeze := rfl
@[simp] theorem State.modFunc_nextId (s : State) (i : Nat) (f : Func → Func) : (s.modFunc i f).nextId = s.nextId := rfl
@[simp] theorem State.modFunc_agenda (s : State) (i : Nat) (f : Func → Func) : (s.modFunc i f).agenda = s.agenda := rfl
@[simp] theorem State.modFunc_waiting (s : State) (i : Nat) (f : Func → Func) : (s.modFunc i f).waiting = s.waiting := rfl
@[simp] theorem State.modFunc_returned (s : State) (i : Nat) (f : Func → Func) : (s.modFunc i f).returned = s.returned := rfl
@[simp] theorem State.modFunc_input (s : State) (i : Nat) (f : Func → Func) : (s.modFunc i f).input = s.input := rfl
@[simp] theorem State.modFunc_cur (s : State) (i : Nat) (f : Func → Func) : (s.modFunc i f).cur = s.cur := rfl
@[simp] theorem State.modFunc_draws (s : State) (i : Nat) (f : Func → Func) : (s.modFunc i f).draws = s.draws := rfl

/-! ### modMailbox -/

@[simp] theorem State.modMailbox_clock (s : State) (i : Nat) (f : Mailbox → Mailbox) : (s.modMailbox i f).clock = s.clock := rfl
@[simp] theorem State.modMailbox_mem (s : State) (i : Nat) (f : Mailbox → Mailbox) : (s.modMailbox i f).mem = s.mem := rfl
@[simp] theorem State.modMailbox_poison (s : State) (i : Nat) (f : Mailbox → Mailbox) : (s.modMailbox i f).poison = s.poison := rfl
@[simp] theorem State.modMailbox_lines (s : State) (i : Nat) (f : Mailbox → Mailbox) : (s.modMailbox i f).lines = s.lines := rfl
@[simp] theorem State.modMailbox_classes (s : State) (i : Nat) (f : Mailbox → Mailbox) : (s.modMailbox i f).classes = s.classes := rfl
@[simp] theorem State.modMailbox_frames (s : State) (i : Nat) (f : Mailbox → Mailbox) : (s.modMailbox i f).frames = s.frames := rfl
@[simp] theorem State.modMailbox_trumps (s : State) (i : Nat) (f : Mailbox → Mailbox) : (s.modMailbox i f).trumps = s.trumps := rfl
@[simp] theorem State.modMailbox_trumpQueue (s : State) (i : Nat) (f : Mailbox → Mailbox) : (s.modMailbox i f).trumpQueue = s.trumpQueue := rfl
@[simp] theorem State.modMailbox_attempts (s : State) (i : Nat) (f : Mailbox → Mailbox) : (s.modMailbox i f).attempts = s.attempts := rfl
@[simp] theorem State.modMailbox_images (s : State) (i : Nat) (f : Mailbox → Mailbox) : (s.modMailbox i f).images = s.images := rfl
@[simp] theorem State.modMailbox_errors (s : State) (i : Nat) (f : Mailbox → Mailbox) : (s.modMailbox i f).errors = s.errors := rfl
@[simp] theorem State.modMailbox_powered (s : State) (i : Nat) (f : Mailbox → Mailbox) : (s.modMailbox i f).powered = s.powered := rfl
@[simp] theorem State.modMailbox_fitting (s : State) (i : Nat) (f : Mailbox → Mailbox) : (s.modMailbox i f).fitting = s.fitting := rfl
@[simp] theorem State.modMailbox_regs (s : State) (i : Nat) (f : Mailbox → Mailbox) : (s.modMailbox i f).regs = s.regs := rfl
@[simp] theorem State.modMailbox_links (s : State) (i : Nat) (f : Mailbox → Mailbox) : (s.modMailbox i f).links = s.links := rfl
@[simp] theorem State.modMailbox_mail (s : State) (i : Nat) (f : Mailbox → Mailbox) : (s.modMailbox i f).mail = supd Mailbox.reset s.mail i f := rfl
@[simp] theorem State.modMailbox_msix (s : State) (i : Nat) (f : Mailbox → Mailbox) : (s.modMailbox i f).msix = s.msix := rfl
@[simp] theorem State.modMailbox_parts (s : State) (i : Nat) (f : Mailbox → Mailbox) : (s.modMailbox i f).parts = s.parts := rfl
@[simp] theorem State.modMailbox_loans (s : State) (i : Nat) (f : Mailbox → Mailbox) : (s.modMailbox i f).loans = s.loans := rfl
@[simp] theorem State.modMailbox_funcs (s : State) (i : Nat) (f : Mailbox → Mailbox) : (s.modMailbox i f).funcs = s.funcs := rfl
@[simp] theorem State.modMailbox_pageReqs (s : State) (i : Nat) (f : Mailbox → Mailbox) : (s.modMailbox i f).pageReqs = s.pageReqs := rfl
@[simp] theorem State.modMailbox_buckets (s : State) (i : Nat) (f : Mailbox → Mailbox) : (s.modMailbox i f).buckets = s.buckets := rfl
@[simp] theorem State.modMailbox_ports (s : State) (i : Nat) (f : Mailbox → Mailbox) : (s.modMailbox i f).ports = s.ports := rfl
@[simp] theorem State.modMailbox_grants (s : State) (i : Nat) (f : Mailbox → Mailbox) : (s.modMailbox i f).grants = s.grants := rfl
@[simp] theorem State.modMailbox_counts (s : State) (i : Nat) (f : Mailbox → Mailbox) : (s.modMailbox i f).counts = s.counts := rfl
@[simp] theorem State.modMailbox_contexts (s : State) (i : Nat) (f : Mailbox → Mailbox) : (s.modMailbox i f).contexts = s.contexts := rfl
@[simp] theorem State.modMailbox_launches (s : State) (i : Nat) (f : Mailbox → Mailbox) : (s.modMailbox i f).launches = s.launches := rfl
@[simp] theorem State.modMailbox_graphs (s : State) (i : Nat) (f : Mailbox → Mailbox) : (s.modMailbox i f).graphs = s.graphs := rfl
@[simp] theorem State.modMailbox_teams (s : State) (i : Nat) (f : Mailbox → Mailbox) : (s.modMailbox i f).teams = s.teams := rfl
@[simp] theorem State.modMailbox_groups (s : State) (i : Nat) (f : Mailbox → Mailbox) : (s.modMailbox i f).groups = s.groups := rfl
@[simp] theorem State.modMailbox_bins (s : State) (i : Nat) (f : Mailbox → Mailbox) : (s.modMailbox i f).bins = s.bins := rfl
@[simp] theorem State.modMailbox_pending (s : State) (i : Nat) (f : Mailbox → Mailbox) : (s.modMailbox i f).pending = s.pending := rfl
@[simp] theorem State.modMailbox_cus (s : State) (i : Nat) (f : Mailbox → Mailbox) : (s.modMailbox i f).cus = s.cus := rfl
@[simp] theorem State.modMailbox_dies (s : State) (i : Nat) (f : Mailbox → Mailbox) : (s.modMailbox i f).dies = s.dies := rfl
@[simp] theorem State.modMailbox_slots (s : State) (i : Nat) (f : Mailbox → Mailbox) : (s.modMailbox i f).slots = s.slots := rfl
@[simp] theorem State.modMailbox_held (s : State) (i : Nat) (f : Mailbox → Mailbox) : (s.modMailbox i f).held = s.held := rfl
@[simp] theorem State.modMailbox_peerData (s : State) (i : Nat) (f : Mailbox → Mailbox) : (s.modMailbox i f).peerData = s.peerData := rfl
@[simp] theorem State.modMailbox_packets (s : State) (i : Nat) (f : Mailbox → Mailbox) : (s.modMailbox i f).packets = s.packets := rfl
@[simp] theorem State.modMailbox_ecn (s : State) (i : Nat) (f : Mailbox → Mailbox) : (s.modMailbox i f).ecn = s.ecn := rfl
@[simp] theorem State.modMailbox_freeze (s : State) (i : Nat) (f : Mailbox → Mailbox) : (s.modMailbox i f).freeze = s.freeze := rfl
@[simp] theorem State.modMailbox_nextId (s : State) (i : Nat) (f : Mailbox → Mailbox) : (s.modMailbox i f).nextId = s.nextId := rfl
@[simp] theorem State.modMailbox_agenda (s : State) (i : Nat) (f : Mailbox → Mailbox) : (s.modMailbox i f).agenda = s.agenda := rfl
@[simp] theorem State.modMailbox_waiting (s : State) (i : Nat) (f : Mailbox → Mailbox) : (s.modMailbox i f).waiting = s.waiting := rfl
@[simp] theorem State.modMailbox_returned (s : State) (i : Nat) (f : Mailbox → Mailbox) : (s.modMailbox i f).returned = s.returned := rfl
@[simp] theorem State.modMailbox_input (s : State) (i : Nat) (f : Mailbox → Mailbox) : (s.modMailbox i f).input = s.input := rfl
@[simp] theorem State.modMailbox_cur (s : State) (i : Nat) (f : Mailbox → Mailbox) : (s.modMailbox i f).cur = s.cur := rfl
@[simp] theorem State.modMailbox_draws (s : State) (i : Nat) (f : Mailbox → Mailbox) : (s.modMailbox i f).draws = s.draws := rfl

/-! ### countError -/

@[simp] theorem State.countError_clock (s : State) (i : Nat) : (s.countError i).clock = s.clock := rfl
@[simp] theorem State.countError_mem (s : State) (i : Nat) : (s.countError i).mem = s.mem := rfl
@[simp] theorem State.countError_poison (s : State) (i : Nat) : (s.countError i).poison = s.poison := rfl
@[simp] theorem State.countError_lines (s : State) (i : Nat) : (s.countError i).lines = s.lines := rfl
@[simp] theorem State.countError_classes (s : State) (i : Nat) : (s.countError i).classes = s.classes := rfl
@[simp] theorem State.countError_frames (s : State) (i : Nat) : (s.countError i).frames = s.frames := rfl
@[simp] theorem State.countError_trumps (s : State) (i : Nat) : (s.countError i).trumps = s.trumps := rfl
@[simp] theorem State.countError_trumpQueue (s : State) (i : Nat) : (s.countError i).trumpQueue = s.trumpQueue := rfl
@[simp] theorem State.countError_attempts (s : State) (i : Nat) : (s.countError i).attempts = s.attempts := rfl
@[simp] theorem State.countError_images (s : State) (i : Nat) : (s.countError i).images = s.images := rfl
@[simp] theorem State.countError_errors (s : State) (i : Nat) : (s.countError i).errors = supd 0 s.errors i (· + 1) := rfl
@[simp] theorem State.countError_powered (s : State) (i : Nat) : (s.countError i).powered = s.powered := rfl
@[simp] theorem State.countError_fitting (s : State) (i : Nat) : (s.countError i).fitting = s.fitting := rfl
@[simp] theorem State.countError_regs (s : State) (i : Nat) : (s.countError i).regs = s.regs := rfl
@[simp] theorem State.countError_links (s : State) (i : Nat) : (s.countError i).links = s.links := rfl
@[simp] theorem State.countError_mail (s : State) (i : Nat) : (s.countError i).mail = s.mail := rfl
@[simp] theorem State.countError_msix (s : State) (i : Nat) : (s.countError i).msix = s.msix := rfl
@[simp] theorem State.countError_parts (s : State) (i : Nat) : (s.countError i).parts = s.parts := rfl
@[simp] theorem State.countError_loans (s : State) (i : Nat) : (s.countError i).loans = s.loans := rfl
@[simp] theorem State.countError_funcs (s : State) (i : Nat) : (s.countError i).funcs = s.funcs := rfl
@[simp] theorem State.countError_pageReqs (s : State) (i : Nat) : (s.countError i).pageReqs = s.pageReqs := rfl
@[simp] theorem State.countError_buckets (s : State) (i : Nat) : (s.countError i).buckets = s.buckets := rfl
@[simp] theorem State.countError_ports (s : State) (i : Nat) : (s.countError i).ports = s.ports := rfl
@[simp] theorem State.countError_grants (s : State) (i : Nat) : (s.countError i).grants = s.grants := rfl
@[simp] theorem State.countError_counts (s : State) (i : Nat) : (s.countError i).counts = s.counts := rfl
@[simp] theorem State.countError_contexts (s : State) (i : Nat) : (s.countError i).contexts = s.contexts := rfl
@[simp] theorem State.countError_launches (s : State) (i : Nat) : (s.countError i).launches = s.launches := rfl
@[simp] theorem State.countError_graphs (s : State) (i : Nat) : (s.countError i).graphs = s.graphs := rfl
@[simp] theorem State.countError_teams (s : State) (i : Nat) : (s.countError i).teams = s.teams := rfl
@[simp] theorem State.countError_groups (s : State) (i : Nat) : (s.countError i).groups = s.groups := rfl
@[simp] theorem State.countError_bins (s : State) (i : Nat) : (s.countError i).bins = s.bins := rfl
@[simp] theorem State.countError_pending (s : State) (i : Nat) : (s.countError i).pending = s.pending := rfl
@[simp] theorem State.countError_cus (s : State) (i : Nat) : (s.countError i).cus = s.cus := rfl
@[simp] theorem State.countError_dies (s : State) (i : Nat) : (s.countError i).dies = s.dies := rfl
@[simp] theorem State.countError_slots (s : State) (i : Nat) : (s.countError i).slots = s.slots := rfl
@[simp] theorem State.countError_held (s : State) (i : Nat) : (s.countError i).held = s.held := rfl
@[simp] theorem State.countError_peerData (s : State) (i : Nat) : (s.countError i).peerData = s.peerData := rfl
@[simp] theorem State.countError_packets (s : State) (i : Nat) : (s.countError i).packets = s.packets := rfl
@[simp] theorem State.countError_ecn (s : State) (i : Nat) : (s.countError i).ecn = s.ecn := rfl
@[simp] theorem State.countError_freeze (s : State) (i : Nat) : (s.countError i).freeze = s.freeze := rfl
@[simp] theorem State.countError_nextId (s : State) (i : Nat) : (s.countError i).nextId = s.nextId := rfl
@[simp] theorem State.countError_agenda (s : State) (i : Nat) : (s.countError i).agenda = s.agenda := rfl
@[simp] theorem State.countError_waiting (s : State) (i : Nat) : (s.countError i).waiting = s.waiting := rfl
@[simp] theorem State.countError_returned (s : State) (i : Nat) : (s.countError i).returned = s.returned := rfl
@[simp] theorem State.countError_input (s : State) (i : Nat) : (s.countError i).input = s.input := rfl
@[simp] theorem State.countError_cur (s : State) (i : Nat) : (s.countError i).cur = s.cur := rfl
@[simp] theorem State.countError_draws (s : State) (i : Nat) : (s.countError i).draws = s.draws := rfl

/-! ### setByte -/

@[simp] theorem State.setByte_clock (s : State) (i : Nat) (b : Byte) : (s.setByte i b).clock = s.clock := rfl
@[simp] theorem State.setByte_mem (s : State) (i : Nat) (b : Byte) : (s.setByte i b).mem = sset (0#8) s.mem i b := rfl
@[simp] theorem State.setByte_poison (s : State) (i : Nat) (b : Byte) : (s.setByte i b).poison = s.poison := rfl
@[simp] theorem State.setByte_lines (s : State) (i : Nat) (b : Byte) : (s.setByte i b).lines = s.lines := rfl
@[simp] theorem State.setByte_classes (s : State) (i : Nat) (b : Byte) : (s.setByte i b).classes = s.classes := rfl
@[simp] theorem State.setByte_frames (s : State) (i : Nat) (b : Byte) : (s.setByte i b).frames = s.frames := rfl
@[simp] theorem State.setByte_trumps (s : State) (i : Nat) (b : Byte) : (s.setByte i b).trumps = s.trumps := rfl
@[simp] theorem State.setByte_trumpQueue (s : State) (i : Nat) (b : Byte) : (s.setByte i b).trumpQueue = s.trumpQueue := rfl
@[simp] theorem State.setByte_attempts (s : State) (i : Nat) (b : Byte) : (s.setByte i b).attempts = s.attempts := rfl
@[simp] theorem State.setByte_images (s : State) (i : Nat) (b : Byte) : (s.setByte i b).images = s.images := rfl
@[simp] theorem State.setByte_errors (s : State) (i : Nat) (b : Byte) : (s.setByte i b).errors = s.errors := rfl
@[simp] theorem State.setByte_powered (s : State) (i : Nat) (b : Byte) : (s.setByte i b).powered = s.powered := rfl
@[simp] theorem State.setByte_fitting (s : State) (i : Nat) (b : Byte) : (s.setByte i b).fitting = s.fitting := rfl
@[simp] theorem State.setByte_regs (s : State) (i : Nat) (b : Byte) : (s.setByte i b).regs = s.regs := rfl
@[simp] theorem State.setByte_links (s : State) (i : Nat) (b : Byte) : (s.setByte i b).links = s.links := rfl
@[simp] theorem State.setByte_mail (s : State) (i : Nat) (b : Byte) : (s.setByte i b).mail = s.mail := rfl
@[simp] theorem State.setByte_msix (s : State) (i : Nat) (b : Byte) : (s.setByte i b).msix = s.msix := rfl
@[simp] theorem State.setByte_parts (s : State) (i : Nat) (b : Byte) : (s.setByte i b).parts = s.parts := rfl
@[simp] theorem State.setByte_loans (s : State) (i : Nat) (b : Byte) : (s.setByte i b).loans = s.loans := rfl
@[simp] theorem State.setByte_funcs (s : State) (i : Nat) (b : Byte) : (s.setByte i b).funcs = s.funcs := rfl
@[simp] theorem State.setByte_pageReqs (s : State) (i : Nat) (b : Byte) : (s.setByte i b).pageReqs = s.pageReqs := rfl
@[simp] theorem State.setByte_buckets (s : State) (i : Nat) (b : Byte) : (s.setByte i b).buckets = s.buckets := rfl
@[simp] theorem State.setByte_ports (s : State) (i : Nat) (b : Byte) : (s.setByte i b).ports = s.ports := rfl
@[simp] theorem State.setByte_grants (s : State) (i : Nat) (b : Byte) : (s.setByte i b).grants = s.grants := rfl
@[simp] theorem State.setByte_counts (s : State) (i : Nat) (b : Byte) : (s.setByte i b).counts = s.counts := rfl
@[simp] theorem State.setByte_contexts (s : State) (i : Nat) (b : Byte) : (s.setByte i b).contexts = s.contexts := rfl
@[simp] theorem State.setByte_launches (s : State) (i : Nat) (b : Byte) : (s.setByte i b).launches = s.launches := rfl
@[simp] theorem State.setByte_graphs (s : State) (i : Nat) (b : Byte) : (s.setByte i b).graphs = s.graphs := rfl
@[simp] theorem State.setByte_teams (s : State) (i : Nat) (b : Byte) : (s.setByte i b).teams = s.teams := rfl
@[simp] theorem State.setByte_groups (s : State) (i : Nat) (b : Byte) : (s.setByte i b).groups = s.groups := rfl
@[simp] theorem State.setByte_bins (s : State) (i : Nat) (b : Byte) : (s.setByte i b).bins = s.bins := rfl
@[simp] theorem State.setByte_pending (s : State) (i : Nat) (b : Byte) : (s.setByte i b).pending = s.pending := rfl
@[simp] theorem State.setByte_cus (s : State) (i : Nat) (b : Byte) : (s.setByte i b).cus = s.cus := rfl
@[simp] theorem State.setByte_dies (s : State) (i : Nat) (b : Byte) : (s.setByte i b).dies = s.dies := rfl
@[simp] theorem State.setByte_slots (s : State) (i : Nat) (b : Byte) : (s.setByte i b).slots = s.slots := rfl
@[simp] theorem State.setByte_held (s : State) (i : Nat) (b : Byte) : (s.setByte i b).held = s.held := rfl
@[simp] theorem State.setByte_peerData (s : State) (i : Nat) (b : Byte) : (s.setByte i b).peerData = s.peerData := rfl
@[simp] theorem State.setByte_packets (s : State) (i : Nat) (b : Byte) : (s.setByte i b).packets = s.packets := rfl
@[simp] theorem State.setByte_ecn (s : State) (i : Nat) (b : Byte) : (s.setByte i b).ecn = s.ecn := rfl
@[simp] theorem State.setByte_freeze (s : State) (i : Nat) (b : Byte) : (s.setByte i b).freeze = s.freeze := rfl
@[simp] theorem State.setByte_nextId (s : State) (i : Nat) (b : Byte) : (s.setByte i b).nextId = s.nextId := rfl
@[simp] theorem State.setByte_agenda (s : State) (i : Nat) (b : Byte) : (s.setByte i b).agenda = s.agenda := rfl
@[simp] theorem State.setByte_waiting (s : State) (i : Nat) (b : Byte) : (s.setByte i b).waiting = s.waiting := rfl
@[simp] theorem State.setByte_returned (s : State) (i : Nat) (b : Byte) : (s.setByte i b).returned = s.returned := rfl
@[simp] theorem State.setByte_input (s : State) (i : Nat) (b : Byte) : (s.setByte i b).input = s.input := rfl
@[simp] theorem State.setByte_cur (s : State) (i : Nat) (b : Byte) : (s.setByte i b).cur = s.cur := rfl
@[simp] theorem State.setByte_draws (s : State) (i : Nat) (b : Byte) : (s.setByte i b).draws = s.draws := rfl

end Sys2Proof.Machine
end

