-- ==== Sys2Proof/Laws/Coherence.lean ====
section
/-!
SUPPORT. What every operation on memory and the caches keeps: memory's canonical form, and the tokens of every line.
-/
namespace Sys2Proof.Laws

open Sys2Proof.Machine Sys2Proof.Safety

/-! ### Tokens of a line -/

theorem total_setTokens (l : Line) (h : Holder) (n : Nat) (hk : known h = true) :
    (l.setTokens h n).total + l.tokens h = l.total + n := by
  unfold Line.setTokens Line.tokens Line.total
  split <;> simp_all [known] <;> omega

theorem tokens_setTokens_other (l : Line) (h k : Holder) (n : Nat) (hne : h ≠ k) : (l.setTokens h n).tokens k = l.tokens k := by
  unfold Line.setTokens
  split <;> unfold Line.tokens <;> split <;> simp_all

/-- A move keeps the tokens of the line. -/
@[simp] theorem total_move (l : Line) (src dst : Holder) (n : Nat) : (l.move src dst n).total = l.total := by
  unfold Line.move
  split
  · rename_i h
    simp only [Bool.and_eq_true, bne_iff_ne, ne_eq, decide_eq_true_eq] at h
    have h1 := total_setTokens l src (l.tokens src - n) h.1.1.1
    have h2 := total_setTokens (l.setTokens src (l.tokens src - n)) dst
      ((l.setTokens src (l.tokens src - n)).tokens dst + n) h.1.1.2
    simp only
    omega
  · rfl

@[simp] theorem total_moveAll (l : Line) (src dst : Holder) : (l.moveAll src dst).total = l.total := by
  unfold Line.moveAll
  split
  · exact total_move l src dst _
  · exact total_move l src dst _

@[simp] theorem total_gather (l : Line) (dst : Holder) : (l.gather dst).total = l.total := by
  unfold Line.gather
  generalize holders = hs
  induction hs generalizing l with
  | nil => rfl
  | cons a as ih => rw [List.foldl_cons, ih, total_moveAll]

@[simp] theorem total_answer (l : Line) (h who : Holder) (write : Bool) : (l.answer h who write).total = l.total := by
  unfold Line.answer
  split
  · rfl
  · split
    · simp
    · split
      · split <;> simp
      · rfl

/-! ### The two invariants together -/

/-- Memory is in its form and no token is lost. -/
structure Sound (s : State) : Prop where
  mem    : MemoryCanonical s
  tokens : TokensConserved s

/-- A change of neither memory nor lines. -/
theorem Sound.of_eq {s t : State} (h : Sound s) (hm : t.mem = s.mem) (hl : t.lines = s.lines) : Sound t := by
  refine ⟨?_, fun l => ?_⟩
  · unfold MemoryCanonical; rw [hm]; exact h.mem
  · unfold State.line; rw [hl]; exact h.tokens l

/-- A change of a line that keeps its tokens. -/
theorem Sound.modLine {s : State} (h : Sound s) (l : Nat) (f : Line → Line) (hf : ∀ k, (f k).total = k.total) :
    Sound (s.modLine l f) := by
  refine ⟨h.mem, fun k => ?_⟩
  show (sget Line.reset (supd Line.reset s.lines l f) k).total = _
  rw [sget_supd]
  split
  · next e => subst e; exact (hf _).trans (h.tokens l)
  · exact h.tokens k

/-- A change of memory by bytes. -/
theorem Sound.setBytes {s : State} (h : Sound s) (pa : Nat) (bs : List Byte) : Sound (s.setBytes pa bs) := by
  refine ⟨State.setBytes_wf s pa bs h.mem, fun l => ?_⟩
  have e : ∀ (bs : List Byte) (s : State) (pa : Nat), (s.setBytes pa bs).lines = s.lines := by
    intro bs
    induction bs with
    | nil => intro s pa; rfl
    | cons b bs ih => intro s pa; exact ih _ _
  unfold State.line; rw [e]; exact h.tokens l

theorem Sound.setByte {s : State} (h : Sound s) (pa : Nat) (b : Byte) : Sound (s.setByte pa b) := h.setBytes pa [b]
theorem Sound.setHomeWord {s : State} (h : Sound s) (w : Nat) (x : Word) : Sound (s.setHomeWord w x) := by
  unfold State.setHomeWord
  split
  · exact h
  · exact h.setBytes _ _

/-- A fold of steps that keep them. -/
theorem Sound.foldl {α : Type} {f : State → α → State} (hf : ∀ s a, Sound s → Sound (f s a)) (l : List α) {s : State}
    (h : Sound s) : Sound (l.foldl f s) := by
  induction l generalizing s with
  | nil => exact h
  | cons a as ih => exact ih (hf s a h)

/-! ### Words and lines -/

theorem Sound.modCu {s : State} (h : Sound s) (c : Nat) (f : Cu → Cu) : Sound (s.modCu c f) := h.of_eq rfl rfl
theorem Sound.setL1 {s : State} (h : Sound s) (c w : Nat) (x : L1Word) : Sound (s.setL1 c w x) := h.of_eq rfl rfl
theorem Sound.dropL1 {s : State} (h : Sound s) (c w : Nat) : Sound (s.dropL1 c w) := h.of_eq rfl rfl
theorem Sound.dropLine {s : State} (h : Sound s) (c l : Nat) : Sound (s.dropLine c l) := h.modCu c _
theorem Sound.useLine {s : State} (h : Sound s) (c l : Nat) (a b : Bool) : Sound (s.useLine c l a b) := h.modCu c _
theorem Sound.killLine {s : State} (h : Sound s) (l : Nat) : Sound (s.killLine l) := h.of_eq rfl rfl
theorem Sound.setClass {s : State} (h : Sound s) (f : Nat) (c : PageClass) : Sound (s.setClass f c) := h.of_eq rfl rfl
theorem Sound.cureWord {s : State} (h : Sound s) (w : Nat) : Sound (s.cureWord w) := h.of_eq rfl rfl
theorem Sound.poisonWord {s : State} (h : Sound s) (w : Nat) : Sound (s.poisonWord w) := h.of_eq rfl rfl
theorem Sound.countError {s : State} (h : Sound s) (k : Nat) : Sound (s.countError k) := h.of_eq rfl rfl
theorem Sound.invalidateL1 {s : State} (h : Sound s) (c : Nat) (p : Nat → Bool) : Sound (s.invalidateL1 c p) := h.of_eq rfl rfl
theorem Sound.cover {s : State} (h : Sound s) (pa n : Nat) : Sound (s.cover pa n) := h.of_eq rfl rfl
theorem Sound.writeBacking {s : State} (h : Sound s) (pa : Nat) (bs : List Byte) : Sound (s.writeBacking pa bs) := h.of_eq rfl rfl
theorem Sound.dropAttempt {s : State} (h : Sound s) (who : Holder) (l : Nat) (w : Bool) : Sound (s.dropAttempt who l w) := h.of_eq rfl rfl

theorem Sound.present {s : State} (h : Sound s) (l c : Nat) : Sound (s.present l c) := h.modLine _ _ fun _ => rfl

theorem Sound.cureIf {s : State} (h : Sound s) (w : Nat) (b : Bool) : Sound (s.cureIf w b) := by
  unfold State.cureIf
  split
  · exact h.cureWord w
  · exact h

theorem Sound.recallWord {s : State} (h : Sound s) (w : Nat) : Sound (s.recallWord w) := by
  unfold State.recallWord
  split
  · exact h
  · simp only
    have h' := h.modLine (w / 32) (fun l => { l with regs := sdel l.regs (w % 32), dirty := sput (s.word w) l.dirty (w % 32) }) fun _ => rfl
    split
    · exact h'.setL1 _ _ _
    · exact h'

theorem Sound.cleanWord {s : State} (h : Sound s) (w : Nat) : Sound (s.cleanWord w) := by
  unfold State.cleanWord
  split
  · exact h
  · simp only
    refine Sound.setL1 ?_ _ _ _
    exact h.modLine _ _ fun _ => rfl

theorem Sound.recallLine {s : State} (h : Sound s) (l : Nat) : Sound (s.recallLine l) := by
  unfold State.recallLine
  have h1 := Sound.foldl (f := fun s w => State.recallWord s (32 * l + w)) (fun _ _ hs => hs.recallWord _)
    ((s.line l).regs.map Prod.fst) h
  simp only
  split
  · exact h1
  · exact Sound.foldl (f := fun s w => State.cleanWord s w) (fun _ w hs => hs.cleanWord w) _ h1

theorem Sound.flushHome {s : State} (h : Sound s) (l : Nat) : Sound (s.flushHome l) := by
  unfold State.flushHome
  split
  · exact (Sound.foldl (fun s x hs => hs.setHomeWord _ _) _ h).modLine _ _ fun _ => rfl
  · exact h

theorem Sound.cleanL1 {s : State} (h : Sound s) (c w : Nat) : Sound (s.cleanL1 c w) := by
  unfold State.cleanL1
  split
  · exact h.cleanWord w
  · exact h.recallWord w
  · exact h

theorem Sound.reclassify {s : State} (h : Sound s) (f : Nat) : Sound (s.reclassify f) := by
  unfold State.reclassify
  split
  · exact (Sound.foldl (fun s x hs => hs.cleanWord x.1) _ (h.setClass f _)).setClass _ _
  · exact h

theorem Sound.share {s : State} (h : Sound s) (f : Nat) : Sound (s.share f) := by
  unfold State.share
  split
  · exact h
  · exact (h.reclassify f).setClass f _

theorem Sound.touch {s : State} (h : Sound s) (c f : Nat) : Sound (s.touch c f) := by
  unfold State.touch
  split
  · exact h.setClass _ _
  · split
    · exact h
    · exact h.reclassify f
  · split
    · exact h
    · exact h.reclassify f
  · exact h.share f

/-! ### Requests, and tokens gathered -/

theorem Sound.beginAttempt {s : State} (h : Sound s) (who : Holder) (l : Nat) (w : Bool) (k : Option Nat) :
    Sound (s.beginAttempt who l w k) := by
  unfold State.beginAttempt
  split
  · exact h
  · exact h.of_eq rfl rfl

theorem Sound.demand {s : State} (h : Sound s) (who : Holder) (l : Nat) (w : Bool) (k : Option Nat) : Sound (s.demand who l w k) := by
  unfold State.demand
  refine Sound.modLine ?_ _ _ fun _ => ?_
  · split
    · exact h
    · exact h.beginAttempt who l w k
  · cases who <;> first | rfl | (generalize State.hostServes _ l = b; cases b <;> rfl)

theorem Sound.backToHost {s : State} (h : Sound s) (l : Nat) : Sound (s.backToHost l) := by
  unfold State.backToHost
  split
  · exact h.modLine _ _ fun k => total_moveAll k .home .host
  · exact h

theorem Sound.gatherHome {s : State} (h : Sound s) (l : Nat) : Sound (s.gatherHome l) :=
  ((h.recallLine l).modLine l _ fun _ => by simp).flushHome l

theorem Sound.addCount {s : State} (h : Sound s) (pa : Nat) : Sound (s.addCount pa) := by
  unfold State.addCount
  split
  · exact h.countError _
  · have h' := ((h.cover pa 4).reclassify (pa / 4096)).gatherHome (pa / 128)
    refine Sound.backToHost ?_ _
    split
    · exact h'
    · exact h'.setHomeWord _ _

theorem Sound.countFill {s : State} (h : Sound s) (k : Option Nat) : Sound (s.countFill k) := by
  unfold State.countFill
  split
  · exact h
  · split
    · exact (h.demand _ _ _ _).of_eq rfl rfl
    · exact h.addCount _

theorem Sound.settleCounts {s : State} (h : Sound s) : Sound s.settleCounts :=
  Sound.foldl (fun _ pa hs => hs.countFill (some pa)) _ (h.of_eq rfl rfl)

theorem Sound.gatherRead {s : State} (h : Sound s) (l : Nat) (who : Holder) (k : Option Nat) : Sound (s.gatherRead l who k) := by
  unfold State.gatherRead
  split
  · exact h
  · have h' := (h.recallLine l).modLine l (fun k => k.answer k.owner who false) (fun _ => by simp)
    simp only
    split
    · exact h'.countFill k
    · exact h'

theorem Sound.gatherWrite {s : State} (h : Sound s) (l : Nat) (who : Holder) (k : Option Nat) : Sound (s.gatherWrite l who k) := by
  unfold State.gatherWrite
  split
  · exact h.flushHome l
  · have h' := (h.recallLine l).modLine l (fun k => k.gather who) (fun _ => by simp)
    simp only
    split
    · exact (h'.countFill k).flushHome l
    · exact h'.flushHome l

/-! ### Capacity -/

theorem Sound.evict {s : State} (h : Sound s) (c w : Nat) : Sound (s.evict c w) := by
  unfold State.evict
  split
  · exact h
  · exact (h.cleanL1 c w).dropL1 c w

theorem Sound.evictAll {s : State} (h : Sound s) (c : Nat) (p : Nat → Bool) : Sound (s.evictAll c p) :=
  Sound.foldl (fun _ x hs => hs.evict c x.1) _ h

theorem Sound.replaceLine {s : State} (h : Sound s) (d l : Nat) : Sound (s.replaceLine d l) := by
  unfold State.replaceLine
  generalize (s.line l).presence.filter _ = here
  have h1 := Sound.foldl (f := fun (s : State) c => s.evictAll c fun w => w / 32 == l) (fun _ c hs => hs.evictAll c _) here h
  simp only
  refine Sound.backToHost (Sound.flushHome (Sound.modLine ?_ _ _ ?_) l) l
  · split
    · exact h1
    · exact h1.recallLine l
  · exact fun k => total_moveAll k _ _

theorem Sound.roomL1 {s : State} (h : Sound s) (c l : Nat) : Sound (s.roomL1 c l) := by
  unfold State.roomL1
  split
  · exact h
  · split
    · exact h.evictAll c _
    · exact h

theorem Sound.roomL2 {s : State} (h : Sound s) (d l : Nat) : Sound (s.roomL2 d l) := by
  unfold State.roomL2
  split
  · exact h
  · generalize s.victims d l = vs
    simp only
    split
    · exact h.replaceLine d _
    · exact h

theorem Sound.roomFor' {s : State} (h : Sound s) (l : Nat) (who : Holder) : Sound (s.roomFor' l who) := by
  unfold State.roomFor'
  split
  · exact h.roomL2 _ l
  · exact h

theorem Sound.acquireRead {s : State} (h : Sound s) (l : Nat) (who : Holder) (k : Option Nat) : Sound (s.acquireRead l who k) :=
  (h.roomFor' l who).gatherRead l who k

theorem Sound.acquireWrite {s : State} (h : Sound s) (l : Nat) (who : Holder) (k : Option Nat) : Sound (s.acquireWrite l who k) :=
  (h.roomFor' l who).gatherWrite l who k

theorem Sound.roomLine {s : State} (h : Sound s) (c l : Nat) : Sound (s.roomLine c l) :=
  ((h.roomL1 c l).roomL2 _ l).present l c

/-! ### Registrations that have been sent -/

theorem Sound.freshen {s : State} (h : Sound s) (c w : Nat) : Sound (s.freshen c w) := by
  unfold State.freshen
  split
  · exact h.setL1 _ _ _
  · exact h.setL1 _ _ _
  · exact h

theorem Sound.acceptWord {s : State} (h : Sound s) (c w : Nat) : Sound (s.acceptWord c w) := by
  unfold State.acceptWord
  split
  · next m _ k v _ =>
    split
    · exact (h.countError _).dropL1 _ _
    · have h' := (h.acquireWrite (w / 32) (.die (dieOfCu c)) k).recallWord w
      have key : ∀ {t : State} {f : Line → Line} {x : L1Word}, Sound t → (∀ l, (f l).total = l.total) →
          Sound ((t.modLine (w / 32) f).setL1 c w x) := fun ht hf => (ht.modLine _ _ hf).setL1 _ _ _
      simp only
      refine Sound.freshen ?_ c _
      split <;> split
      · exact key (h'.cureWord w) fun _ => rfl
      · exact key (h'.cureWord w) fun _ => rfl
      · exact key h' fun _ => rfl
      · exact key h' fun _ => rfl
  · exact h

theorem Sound.acceptUnit {s : State} (h : Sound s) (c w : Nat) : Sound (s.acceptUnit c w) :=
  (h.acceptWord c _).acceptWord c _

theorem Sound.acceptCu {s : State} (h : Sound s) (c : Nat) : Sound (s.acceptCu c) :=
  Sound.foldl (fun _ w hs => hs.acceptUnit c w) _ h

theorem Sound.acceptAll {s : State} (h : Sound s) : Sound s.acceptAll := Sound.foldl (fun _ c hs => hs.acceptCu c) _ h

theorem Sound.writeBack {s : State} (h : Sound s) (c w : Nat) : Sound (s.writeBack c w) := (h.acceptUnit c w).cleanL1 c w

theorem Sound.settleLine {s : State} (h : Sound s) (l : Nat) : Sound (s.settleLine l) := by
  unfold State.settleLine
  generalize insertAll (s.line l).presence _ = cus
  exact (Sound.foldl (fun _ c hs => Sound.foldl (fun _ w hs => hs.writeBack c w) _ hs) _ h).recallLine l

/-! ### Accesses of a CU and of the outside -/

theorem Sound.fillL1 {s : State} (h : Sound s) (c w : Nat) : Sound (s.fillL1 c w) := (h.setL1 _ _ _).freshen _ _

theorem Sound.fetchL1 {s : State} (h : Sound s) (c w : Nat) (k : Option Nat) (b : Bool) : Sound (s.fetchL1 c w k b) :=
  ((h.roomLine c _).acquireRead _ _ k).useLine _ _ _ _

theorem Sound.loadL1 {s : State} (h : Sound s) (c w : Nat) (k : Option Nat) (b : Bool) : Sound (s.loadL1 c w k b).2 := by
  unfold State.loadL1
  split
  · have h' := h.touch c (w / 1024)
    simp only
    split
    · split
      · exact h'.useLine _ _ _ _
      · exact ((h'.fetchL1 c w k b).setL1 _ _ _).freshen _ _
    · exact h'.useLine _ _ _ _
    · exact (h'.fetchL1 c w k b).fillL1 c w
  · exact h

theorem Sound.loadHome {s : State} (h : Sound s) (c w : Nat) (b : Bool) (k : Option Nat) : Sound (s.loadHome c w b k).2 := by
  unfold State.loadHome
  split
  · simp only
    have h' := (h.touch c (w / 1024)).acceptUnit c w
    split
    · exact (h'.recallLine _).acquireWrite _ _ _
    · exact h'.acquireRead _ _ _
  · exact h

theorem Sound.storeL1 {s : State} (h : Sound s) (c w k : Nat) (bs : List Byte) (n : Option Nat) (b : Bool) :
    Sound (s.storeL1 c w k bs n b) := by
  unfold State.storeL1
  split
  · have h' : Sound (if bs.length = 4 || ((s.touch c (w / 1024)).l1? c w).isSome then s.touch c (w / 1024)
        else ((s.touch c (w / 1024)).loadL1 c w n b).2) := by
      split
      · exact h.touch _ _
      · exact (h.touch _ _).loadL1 c w n b
    simp only
    generalize (if bs.length = 4 || ((s.touch c (w / 1024)).l1? c w).isSome then s.touch c (w / 1024)
        else ((s.touch c (w / 1024)).loadL1 c w n b).2) = t at h' ⊢
    split
    · exact (h'.setL1 _ _ _).useLine _ _ _ _
    · exact ((h'.cureIf _ _).setL1 _ _ _).useLine _ _ _ _
    · have h2 := fun m => (h'.roomLine c (w / 32)).useLine c (w / 32) b m
      split
      · exact (((h2 _).acquireWrite _ _ _).cureIf _ _).setL1 _ _ _
      · exact (h2 _).setL1 _ _ _
  · exact (h.setHomeWord w _).cureIf _ _

theorem Sound.ownLine {s : State} (h : Sound s) (c l : Nat) (b : Bool) (k : Option Nat) : Sound (s.ownLine c l b k) := by
  unfold State.ownLine
  split
  · exact (h.recallLine l).acquireWrite l _ k
  · exact (h.acquireWrite l _ k).recallLine l

theorem Sound.storeHome {s : State} (h : Sound s) (c w : Nat) (v : Word) (b : Bool) (k : Option Nat) : Sound (s.storeHome c w v b k) := by
  unfold State.storeHome
  split
  · have h' := (((h.touch c (w / 1024)).acceptUnit c w).evict c w).ownLine c (w / 32) b k
    simp only
    split
    · exact h'.setHomeWord _ _
    · exact h'.modLine _ _ fun _ => rfl
  · exact h.setHomeWord w v

theorem Sound.lineHome {s : State} (h : Sound s) (l : Nat) : Sound (s.lineHome l) := (h.settleLine l).gatherHome l

theorem Sound.storeEngine {s : State} (h : Sound s) (w : Nat) (v : Word) : Sound (s.storeEngine w v) :=
  ((h.reclassify _).gatherHome _).setHomeWord w v

theorem Sound.storeExternal {s : State} (h : Sound s) (w : Nat) (v : Word) : Sound (s.storeExternal w v) :=
  Sound.foldl (fun _ c hs => hs.dropLine c _) _ ((h.gatherHome _).setHomeWord _ _)

/-! ### Bytes -/

theorem Sound.pokeWith {s : State} (h : Sound s) (pa : Nat) (bs : List Byte) (wr : State → Nat → Word → State)
    (hw : ∀ s w v, Sound s → Sound (wr s w v)) : Sound (s.pokeWith pa bs wr) := by
  refine Sound.foldl (fun s x hs => ?_) _ h
  simp only
  split
  · exact (hw _ _ _ hs).cureWord _
  · exact hw _ _ _ hs

theorem Sound.poke {s : State} (h : Sound s) (pa : Nat) (bs : List Byte) : Sound (s.poke pa bs) := by
  unfold State.poke
  split
  · exact h.countError _
  · exact Sound.foldl (fun _ l hs => hs.backToHost l) _
      (((h.cover pa bs.length).pokeWith pa bs _ fun _ w v hs => hs.storeEngine w v).writeBacking pa bs)

theorem Sound.engineDemand {s : State} (h : Sound s) (pa n : Nat) (write : Bool) : Sound (s.engineDemand pa n write) := by
  refine Sound.foldl (fun s l hs => ?_) _ h
  split
  · exact hs.demand _ _ _ _
  · exact hs

theorem Sound.writePart {s : State} (h : Sound s) (base : Nat) (op : AccessOp) (pa : Nat) (bs : List Byte)
    (wr : State → Nat → Word → State) (hw : ∀ s w v, Sound s → Sound (wr s w v)) : Sound (s.writePart base op pa bs wr) :=
  (h.pokeWith pa bs wr hw).of_eq rfl rfl

theorem Sound.writeWords {s : State} (h : Sound s) (pa : Nat) (op : AccessOp) (bs : List Byte) (wr : State → Nat → Word → State)
    (hw : ∀ s w v, Sound s → Sound (wr s w v)) : Sound (s.writeWords pa op bs wr) := h.writePart pa op pa bs wr hw

theorem Sound.hold {s : State} (h : Sound s) (w : Writer) (pa : Nat) (op : AccessOp) (more : List (Nat × AccessOp)) (noL1 : Bool)
    (bad : List Nat) : Sound (s.hold w pa op more noL1 bad) := by
  unfold State.hold
  split
  · exact h.of_eq rfl rfl
  · exact h

/-- Bytes that a test leaves out read zero. -/
theorem Sound.filterMem {s : State} (h : Sound s) (p : Host.Cell → Bool) (ws : List Nat) :
    Sound { s with mem := s.mem.filter p, poison := ws } :=
  ⟨swfFrom_filter 0#8 p _ 0 h.mem, h.tokens⟩

theorem Sound.zeroLine {s : State} (h : Sound s) (l : Nat) : Sound (s.zeroLine l) := ((h.lineHome l).killLine l).filterMem _ _

theorem Sound.zeroFrame {s : State} (h : Sound s) (f : Nat) : Sound (s.zeroFrame f) :=
  Sound.foldl (fun _ l hs => hs.zeroLine l) _ h

theorem Sound.setScratch {s : State} (h : Sound s) (t i off : Nat) (bs : List Byte) (p : Nat → Bool) :
    Sound (s.setScratch t i off bs p) := h.of_eq rfl rfl

theorem Sound.countPeer {s : State} (h : Sound s) (pa n : Nat) (k : Option Nat) : Sound (s.countPeer pa n k) := by
  unfold State.countPeer
  split
  · exact Sound.foldl (fun _ _ hs => hs.countFill k) _ h
  · exact h

theorem Sound.readWord {s : State} (h : Sound s) (c : Nat) (a : Access) (w : Nat) : Sound (s.readWord c a w).2 := by
  unfold State.readWord
  split
  · exact h.loadHome _ _ _ _
  · exact h.loadL1 _ _ _ _

theorem Sound.readMem {s : State} (h : Sound s) (c : Nat) (a : Access) (pa n : Nat) : Sound (s.readMem c a pa n).2 :=
  Sound.foldl (fun _ w hs => hs.readWord c a w) _ (h.countPeer pa n a.count)

theorem Sound.evenUnit {s : State} (h : Sound s) (c w : Nat) : Sound (s.evenUnit c w) := by
  unfold State.evenUnit
  split
  · exact h
  · exact (h.recallWord _).recallWord _

theorem Sound.storeBytes {s : State} (h : Sound s) (c pa : Nat) (bs : List Byte) (k : Option Nat) (b : Bool) :
    Sound (s.storeBytes c pa bs k b) :=
  Sound.foldl (fun _ x hs => hs.storeL1 c x.1 x.2.1 x.2.2 k b) _ (Sound.foldl (fun _ w hs => hs.evenUnit c w) _ h)

theorem Sound.bringHome {s : State} (h : Sound s) (c : Nat) (a : Access) (pa n : Nat) : Sound (s.bringHome c a pa n) := by
  unfold State.bringHome
  split
  · exact h
  · exact Sound.foldl (fun _ l hs => hs.ownLine c l _ _) _ (Sound.foldl (fun _ w hs => hs.acceptUnit c w) _ h)

/-- An access of a CU keeps both. -/
theorem Sound.performMem {s : State} (h : Sound s) (c : Nat) (a : Access) (pa : Nat) (home : Bool) :
    Sound (s.performMem c a pa home).2 := by
  unfold State.performMem
  split
  · exact h.readMem _ _ _ _
  · exact h
  · simp only
    split
    · exact h.countError _
    · have h' := ((h.cover pa a.op.size).touch c (pa / 4096)).countPeer pa a.op.size a.count
      split
      · exact h'.zeroLine _
      · split
        · split
          · exact h'.storeBytes _ _ _ _ _
          · split
            · exact h'.readMem _ _ _ _
            · exact (h'.readMem _ _ _ _).storeBytes _ _ _ _ _
        · split
          · exact h'.bringHome _ _ _ _
          · exact (h'.bringHome _ _ _ _).writeWords _ _ _ _ fun _ w v hw => hw.storeHome _ _ _ _ _

/-- An access of a group's lane keeps both. -/
theorem Sound.performAt {s : State} (h : Sound s) (g : Group) (a : Access) (home : Bool) : Sound (s.performAt g a home).2 := by
  unfold State.performAt
  split
  · exact h.performMem _ _ _ _
  · simp only
    split
    · exact h
    · exact h.setScratch _ _ _ _ _
  · exact h

end Sys2Proof.Laws
end

