-- ==== Sys2Proof/Laws/Issue.lean ====
section
/-!
SUPPORT. What an issue comes to, said once for every instruction: from the conditions of `Issues` and the instruction's own
effect to the next state.
-/
namespace Sys2Proof.Laws

open Sys2Proof.Machine Sys2Proof.Safety

/-! ### Masks -/

theorem maskOf_foldl (p : Nat → Bool) (ls : List Nat) (m : Mask) (i : Nat) (hi : i < 32) (hl : ∀ j ∈ ls, j < 32) :
    (ls.foldl (fun m i => if p i then m ||| (1#32 <<< i) else m) m).getLsbD i
      = (m.getLsbD i || ls.any fun j => j == i && p j) := by
  induction ls generalizing m with
  | nil => simp
  | cons a as ih =>
    have ha : a < 32 := hl a (by simp)
    rw [List.foldl_cons, ih _ (fun j hj => hl j (by simp [hj]))]
    have h1 : (1#32 <<< a).getLsbD i = (a == i) := by
      have : i < a ∨ i = a ∨ a < i := by omega
      rcases this with h | h | h
      · simp [h]
        omega
      · subst h; simp [hi]
      · have h2 : ¬ a = i := by omega
        have h3 : ¬ i - a = 0 := by omega
        simp [hi, h2, h3]
    by_cases hp : p a
    · simp only [hp, if_true, BitVec.getLsbD_or, h1, List.any_cons, Bool.and_true, Bool.or_assoc]
    · simp only [hp, List.any_cons, Bool.and_false, Bool.false_or]
      simp

/-- A mask made by a test holds the lanes that pass it. -/
theorem has_maskOf (p : Nat → Bool) (i : Nat) : (maskOf p).has i = (decide (i < 32) && p i) := by
  by_cases hi : i < 32
  · unfold maskOf Mask.has
    rw [maskOf_foldl p _ _ i hi (by simp)]
    by_cases hp : p i
    · simp only [hp, hi, decide_true, Bool.and_true]
      simp only [BitVec.getLsbD_zero, Bool.false_or, List.any_eq_true]
      exact ⟨i, by simpa using hi, by simp [hp]⟩
    · simp only [hp, hi, decide_true, Bool.and_false]
      simp only [BitVec.getLsbD_zero, Bool.false_or, List.any_eq_false]
      intro j _
      by_cases e : j = i
      · subst e; simp [hp]
      · simp [e]
  · simp [Mask.has, hi, BitVec.getLsbD_of_ge _ _ (by omega : 32 ≤ i)]

theorem has_lt {m : Mask} {i : Nat} (h : m.has i = true) : i < 32 := by
  by_contra hn
  simp [Mask.has, BitVec.getLsbD_of_ge _ _ (by omega : 32 ≤ i)] at h

@[simp] theorem mem_lanesOf (m : Mask) (i : Nat) : i ∈ lanesOf m ↔ m.has i = true := by
  unfold lanesOf
  simp only [List.mem_filter, List.mem_range]
  exact ⟨fun h => h.2, fun h => ⟨has_lt h, h⟩⟩

theorem nodup_lanesOf (m : Mask) : (lanesOf m).Nodup := List.Nodup.filter _ List.nodup_range

/-! ### The group as its lanes move on -/

@[simp] theorem setWait_id (g : Group) (h : Nat) (w : Wait) (k : Nat) : (g.setWait h w k).id = g.id := by
  unfold Group.setWait; split <;> rfl
@[simp] theorem setWait_regs (g : Group) (h : Nat) (w : Wait) (k : Nat) : (g.setWait h w k).regs = g.regs := by
  unfold Group.setWait; split <;> rfl
@[simp] theorem setWait_lanes (g : Group) (h : Nat) (w : Wait) (k : Nat) : (g.setWait h w k).lanes = g.lanes := by
  unfold Group.setWait; split <;> rfl
@[simp] theorem setWait_region (g : Group) (h : Nat) (w : Wait) (k : Nat) : (g.setWait h w k).region = g.region := by
  unfold Group.setWait; split <;> rfl
@[simp] theorem setWait_team (g : Group) (h : Nat) (w : Wait) (k : Nat) : (g.setWait h w k).team = g.team := by
  unfold Group.setWait; split <;> rfl
@[simp] theorem setWait_handler (g : Group) (h : Nat) (w : Wait) (k : Nat) : (g.setWait h w k).handler = g.handler := by
  unfold Group.setWait; split <;> rfl

@[simp] theorem moved_id (g : Group) (cur : Cur) (now : Nat) : (moved g cur now).id = g.id := by simp [moved]; rfl
@[simp] theorem moved_regs (g : Group) (cur : Cur) (now : Nat) : (moved g cur now).regs = g.regs := by simp [moved]; rfl
@[simp] theorem moved_team (g : Group) (cur : Cur) (now : Nat) : (moved g cur now).team = g.team := by simp [moved]; rfl
@[simp] theorem moved_region (g : Group) (cur : Cur) (now : Nat) : (moved g cur now).region = g.region := by simp [moved]; rfl
@[simp] theorem moved_handler (g : Group) (cur : Cur) (now : Nat) : (moved g cur now).handler = g.handler := by
  simp [moved]; rfl

theorem group_id {s : State} {id : Nat} {g : Group} (h : s.group? id = some g) : g.id = id := findId_key _ _ _ _ h

/-! ### The records of a state after a change of a group -/

theorem group?_modGroup_same (s : State) (id : Nat) (f : Group → Group) (g : Group) (h : s.group? id = some g)
    (hf : (f g).id = id) : (s.modGroup id f).group? id = some (f g) := by
  have e : updId Group.id f s.groups id = updId Group.id (fun _ => f g) s.groups id := updId_const _ f _ _ g h
  unfold State.group? at h ⊢
  rw [State.modGroup_groups, e, findId_updId_same _ _ _ _ (fun _ _ => hf), h]
  rfl

theorem group?_modGroup_other (s : State) (id j : Nat) (f : Group → Group) (g : Group) (h : s.group? id = some g)
    (hf : (f g).id = id) (hj : j ≠ id) : (s.modGroup id f).group? j = s.group? j := by
  have e : updId Group.id f s.groups id = updId Group.id (fun _ => f g) s.groups id := updId_const _ f _ _ g h
  unfold State.group? at h ⊢
  rw [State.modGroup_groups, e, findId_updId_other _ _ _ _ _ (Ne.symm hj) (fun _ _ => hf)]

/-- Two changes of one group are one. -/
theorem modGroup_modGroup (s : State) (id : Nat) (f h : Group → Group) (g : Group) (hg : s.group? id = some g)
    (hf : (f g).id = id) : (s.modGroup id f).modGroup id h = s.modGroup id fun _ => h (f g) := by
  have e : updId Group.id f s.groups id = updId Group.id (fun _ => f g) s.groups id := updId_const _ f _ _ g hg
  have : updId Group.id h (updId Group.id f s.groups id) id = updId Group.id (fun _ => h (f g)) s.groups id := by
    rw [e, updId_updId _ _ _ _ _ (fun _ _ => hf)]
  show ({ s with groups := updId Group.id h (updId Group.id f s.groups id) id } : State) = _
  rw [this]
  rfl

/-! ### The check of R408 -/

/-- The check depends on the lanes, the region and the launch of the group. -/
theorem escape_congr (s t : State) (g h : Group) (addr : DWord) (m : Mask) (hl : h.lanes = g.lanes) (hr : h.region = g.region)
    (ht : h.team = g.team) (h1 : t.teams = s.teams) (h2 : t.launches = s.launches) : t.escape h addr m = s.escape g addr m := by
  have e1 : t.launchOf? h = s.launchOf? g := by
    unfold State.launchOf? State.launchOfTeam? State.team? State.launch?
    rw [ht, h1, h2]
  have e2 : ∀ i, h.lane i = g.lane i := fun i => by unfold Group.lane; rw [hl]
  unfold State.escape
  rw [hr, e1]
  simp only [e2]

/-- A group that is resident in no region escapes from none. -/
theorem escape_none (s : State) (g : Group) (addr : DWord) (m : Mask) (h : g.region = none) : s.escape g addr m = none := by
  unfold State.escape; rw [h]

/-! ### The issue -/

/-- What an issue leaves depends on the group it leaves. -/
theorem issued_congr {s : State} {cur : Cur} {g : Group} {F H : Group → Group} (h : F (moved g cur s.now) = H (moved g cur s.now)) :
    issued s cur g F = issued s cur g H := by
  unfold issued; rw [h]

/-- An issue is not held back by a wait or a window (R23, R73). -/
theorem Issues.notBack {s : State} {cur : Cur} {g : Group} {i : Instr} {f : Fields} {gd : Guard} (h : Issues s cur g i f gd) :
    g.heldBack (fieldOf cur.word 56 8) f cur.lanes = false := by
  have := h.free
  simp only [State.stalled, Bool.or_eq_false_iff] at this
  exact this.1

/-- Nothing that an issue needs room in is full (R77, R263, R288, R297). -/
theorem Issues.notFull {s : State} {cur : Cur} {g : Group} {i : Instr} {f : Fields} {gd : Guard} (h : Issues s cur g i f gd) :
    State.full { s with cur := none } g (fieldOf cur.word 56 8) f cur.lanes = false := by
  have := h.free
  simp only [State.stalled, Bool.or_eq_false_iff] at this
  exact this.2

/-- An instruction that acts for its lanes alone acts once. -/
theorem alone_whole (g : Group) (cur : Cur) : Alone g cur .whole := by
  unfold Alone actions halfOf
  simp

/-- The issue where the own effect is made. -/
theorem issue_done {s : State} {cur : Cur} {g : Group} {i : Instr} {f : Fields} {gd : Guard}
    (h : Issues s cur g i f gd) (how : Acting) (guard : State → Group → Fields → Guard) (own : Ictx → State → Effect)
    (hgd : guard { s with cur := none } g f = gd) (ha : Alone g cur how) (t : State)
    (hp : how = .grouped → participants g f cur.lanes ≠ 0)
    (hown : own (seen g cur f) (begun s cur g) = .done t)
    (hesc : (g.handler = true ∧ ∀ g', t.group? cur.group = some g' → g'.handler = true) ∨
      ∀ g', t.group? cur.group = some g' → t.escape g' cur.addr cur.lanes = none) :
    issue i f how guard own s = .next (closed t cur g) := by
  have hid := group_id h.group
  have hg : State.group? { s with cur := none } cur.group = some g := h.group
  have hback := Issues.notBack h
  have hfull := Issues.notFull h
  have hchk : State.checks { s with cur := none } g cur i f gd = none := h.checks
  have hact : State.act { s with cur := none } cur f how own (halfOf g cur) cur.lanes = .done t := by
    unfold State.act
    rw [hg]
    have hput : State.putGroup { s with cur := none } ((g.advance cur cur.lanes (State.now { s with cur := none })).setWait (halfOf g cur) .none)
        = begun s cur g := rfl
    simp only [hput]
    have hq : (how == .grouped && participants g f cur.lanes == 0) = false := by
      by_cases e : how = .grouped
      · simpa [e] using hp e
      · simp [e]
    simp only [hq, Bool.false_eq_true, if_false]
    have : (⟨g, f, cur.lanes, participants g f cur.lanes, halfOf g cur, cur.addr, cur.word, cur.lanes⟩ : Ictx) = seen g cur f := rfl
    rw [this, hown]
    simp only
    split
    · rfl
    · rename_i hn
      cases hx : t.group? cur.group with
      | none => rfl
      | some g' =>
        rcases hesc with ⟨h1, h2⟩ | h2
        · exact absurd (by simp [h1, hx, h2 g' hx]) hn
        · simp [h2 g' hx]
  unfold issue
  rw [h.chosen]
  simp only
  rw [show s.group? cur.group = some g from h.group]
  simp only [hback, hfull, Bool.false_eq_true, if_false, hgd, hchk]
  rw [ha]
  simp only [State.acts, hact]
  rfl

/-- The issue where the own effect changes its group alone. -/
theorem issue_group {s : State} {cur : Cur} {g : Group} {i : Instr} {f : Fields} {gd : Guard}
    (h : Issues s cur g i f gd) (how : Acting) (guard : State → Group → Fields → Guard) (own : Ictx → State → Effect)
    (hgd : guard { s with cur := none } g f = gd) (ha : Alone g cur how) (F : Group → Group)
    (hp : how = .grouped → participants g f cur.lanes ≠ 0)
    (hown : own (seen g cur f) (begun s cur g) = .done ((begun s cur g).modGroup g.id F))
    (hF : (F (moved g cur s.now)).id = g.id)
    (hesc : (g.handler = true ∧ (F (moved g cur s.now)).handler = true) ∨
      s.escape (F (moved g cur s.now)) cur.addr cur.lanes = none) :
    issue i f how guard own s = .next (issued s cur g F) := by
  have hid := group_id h.group
  have hg : State.group? { s with cur := none } g.id = some g := by rw [hid]; exact h.group
  have hb : (begun s cur g).group? g.id = some (moved g cur s.now) := by
    unfold begun State.putGroup
    rw [moved_id]
    exact group?_modGroup_same _ _ _ _ hg (by simp)
  have e : (begun s cur g).modGroup g.id F = State.modGroup { s with cur := none } g.id fun _ => F (moved g cur s.now) := by
    unfold begun State.putGroup
    rw [moved_id]
    exact modGroup_modGroup _ _ _ _ _ hg (by simp)
  rw [e] at hown
  rw [issue_done h how guard own hgd ha _ hp hown]
  · unfold closed
    rw [modGroup_modGroup _ _ _ _ _ hg hF]
    rfl
  · have key : ∀ g', State.group? (State.modGroup { s with cur := none } g.id fun _ => F (moved g cur s.now)) cur.group = some g' →
        g' = F (moved g cur s.now) := by
      intro g' hg'
      rw [← hid] at hg'
      rw [group?_modGroup_same _ _ _ _ hg hF] at hg'
      simpa using hg'.symm
    rcases hesc with ⟨h1, h2⟩ | h2
    · exact .inl ⟨h1, fun g' hg' => by rw [key g' hg']; exact h2⟩
    · refine .inr fun g' hg' => ?_
      rw [key g' hg', ← h2]
      exact escape_congr _ _ _ _ _ _ rfl rfl rfl rfl rfl

/-- An issue acts for half 0 or half 1. -/
theorem actions_half (fwd : Bool) (how : Acting) (m : Mask) : ∀ x ∈ actions fwd how m, x.1 ≤ 1 := by
  intro x hx
  unfold actions at hx
  split at hx
  · simp only [List.map_cons, List.map_nil, List.mem_filter, List.mem_cons, List.not_mem_nil, or_false] at hx
    rcases hx.1 with rfl | rfl <;> simp
  · simp only [List.mem_cons, List.not_mem_nil, or_false] at hx
    subst hx
    split <;> simp

/-- What holds of what an action of an issue sees, and of the state in which its own effect begins. -/
structure ActionOf (cur : Cur) (f : Fields) (how : Acting) (c : Ictx) (s : State) : Prop where
  fields : c.f = f
  half   : c.half ≤ 1
  word   : c.word = cur.word
  addr   : c.addr = cur.addr
  all    : c.all = cur.lanes
  parts  : c.parts = participants c.g f c.lanes
  taken  : how = .grouped → c.parts ≠ 0
  begins : ∃ v : State, v.group? cur.group = some c.g ∧
    s = v.putGroup ((c.g.advance cur c.lanes v.now).setWait c.half .none)

/-- What `acting` gives, the issue does. -/
theorem acts_of_acting {how : Acting} {own : Ictx → State → Option State} {cur : Cur} {f : Fields} (ow : Ictx → State → Effect)
    (h : ∀ c s t, ActionOf cur f how c s → own c s = some t → ow c s = .done t) (l : List (Nat × Mask))
    (hl : ∀ x ∈ l, x.1 ≤ 1) (s t : State)
    (ha : acting how own cur f l s = some t) : s.acts cur f how ow l = .done t := by
  induction l generalizing s with
  | nil => simpa [acting, State.acts] using ha
  | cons x rest ih =>
    obtain ⟨k, m⟩ := x
    unfold acting at ha
    cases hg : s.group? cur.group with
    | none => rw [hg] at ha; simp at ha
    | some g =>
      rw [hg] at ha
      simp only at ha
      split at ha
      · simp at ha
      · rename_i u hu
        split at ha
        · rename_i hin
          have e : s.act cur f how ow k m = .done u := by
            unfold State.act
            rw [hg]
            simp only
            have : (if (how == .grouped && participants g f m == 0) = true
                then Effect.done (s.putGroup ((g.advance cur m s.now).setWait k .none))
                else ow ⟨g, f, m, participants g f m, k, cur.addr, cur.word, cur.lanes⟩
                  (s.putGroup ((g.advance cur m s.now).setWait k .none))) = .done u := by
              split at hu
              · rename_i hp; rw [if_pos hp]; simpa using hu
              · rename_i hp
                rw [if_neg hp]
                refine h _ _ _ ⟨rfl, hl (k, m) (by simp), rfl, rfl, rfl, rfl, ?_, s, hg, rfl⟩ hu
                intro e h0
                exact hp (by simpa [e] using h0)
            rw [this]
            simp only
            split
            · rfl
            · rename_i hn
              cases hx : u.group? cur.group with
              | none => rfl
              | some g' =>
                rw [hx] at hin hn
                simp only [Option.all_some, Bool.or_eq_true, Bool.and_eq_true, Option.isNone_iff_eq_none] at hin hn
                rcases hin with hin | hin
                · exact absurd hin hn
                · simp [hin]
          unfold State.acts
          rw [e]
          exact ih (fun x hx => hl x (by simp [hx])) u ha
        · simp at ha

/-- The opcode of an instruction's word. -/
theorem fieldOf_word (op : BitVec 8) (f : Fields) : fieldOf (f.word op) 56 8 = op.toNat := by
  have e : (f.word op).extractLsb' 56 8 = op := by
    apply BitVec.eq_of_getLsbD_eq
    intro k hk
    simp only [BitVec.getLsbD_extractLsb', hk, decide_true, Bool.true_and, Fields.word, BitVec.getLsbD_append]
    grind
  have := congrArg BitVec.toNat e
  simpa [fieldOf] using this

/-- The opcode that an action sees. -/
theorem ActionOf.opcode {cur : Cur} {f : Fields} {how : Acting} {c : Ictx} {s : State} (h : ActionOf cur f how c s) {i : Instr}
    {op : BitVec 8} (hi : encode i = some cur.word) (he : encode i = some (f.word op)) : fieldOf c.word 56 8 = op.toNat := by
  rw [h.word]
  rw [hi, Option.some.injEq] at he
  rw [he, fieldOf_word]

/-- The completion of an instruction from its own effect, where the issue's word may be used. -/
theorem completes_at {i : Instr} {f : Fields} {guard : State → Group → Fields → Guard} {how : Acting}
    {ow : Ictx → State → Effect} {own : Ictx → State → Option State} (he : ∀ s, exec i s = issue i f how guard ow s)
    (ho : ∀ cur c s t, encode i = some cur.word → ActionOf cur f how c s → own c s = some t → ow c s = .done t) :
    Completes i f guard how own := by
  intro s cur g t hi ha
  rw [he]
  unfold issue
  rw [hi.chosen]
  simp only
  rw [show s.group? cur.group = some g from hi.group]
  have hback := Issues.notBack hi
  have hfull := Issues.notFull hi
  have hchk : State.checks { s with cur := none } g cur i f (guard { s with cur := none } g f) = none := hi.checks
  simp only [hback, hfull, Bool.false_eq_true, if_false, hchk]
  rw [acts_of_acting ow (fun c s t => ho cur c s t hi.word) _ (actions_half _ _ _) _ _ ha]

/-- The completion of an instruction from its own effect. -/
theorem completes_of {i : Instr} {f : Fields} {guard : State → Group → Fields → Guard} {how : Acting}
    {ow : Ictx → State → Effect} {own : Ictx → State → Option State} (he : ∀ s, exec i s = issue i f how guard ow s)
    (ho : ∀ c s t, c.f = f → c.half ≤ 1 → own c s = some t → ow c s = .done t) : Completes i f guard how own :=
  completes_at he fun _ c s t _ h => ho c s t h.fields h.half

/-- The issue of an instruction whose own effect is a fault, in the first action at the latest. -/
theorem faults_of {i : Instr} {f : Fields} {guard : State → Group → Fields → Guard} {how : Acting}
    {pre : State → Ictx → Prop} {ow : Ictx → State → Effect} {r : State → Ictx → FaultRecord}
    (he : ∀ s, exec i s = issue i f how guard ow s)
    (ha : ∀ s cur g, pre s (seen g cur f) → (how = .grouped → Taken g cur f) →
      ∃ h m rest, actions g.fwd how cur.lanes = (h, m) :: rest ∧
        (how = .grouped → participants g f m ≠ 0) ∧
        ∀ c s', c = ⟨g, f, m, participants g f m, h, cur.addr, cur.word, cur.lanes⟩ →
          s' = State.putGroup { s with cur := none } ((g.advance cur m s.now).setWait h .none) →
          s.group? cur.group = some g → ow c s' = .trap (r s (seen g cur f))) :
    Faults i f guard how pre r := by
  intro s cur g hi ht hp
  obtain ⟨h, m, rest, e1, e2, e3⟩ := ha s cur g hp ht
  have hg : State.group? { s with cur := none } cur.group = some g := hi.group
  rw [he]
  unfold issue
  rw [hi.chosen]
  simp only
  rw [show s.group? cur.group = some g from hi.group]
  have hback := Issues.notBack hi
  have hfull := Issues.notFull hi
  have hchk : State.checks { s with cur := none } g cur i f (guard { s with cur := none } g f) = none := hi.checks
  simp only [hback, hfull, Bool.false_eq_true, if_false, hchk, e1]
  have hq : (how == .grouped && participants g f m == 0) = false := by
    by_cases e : how = .grouped
    · simpa [e] using e2 e
    · simp [e]
  have e : State.act { s with cur := none } cur f how ow h m = .trap (r s (seen g cur f)) := by
    unfold State.act
    rw [hg]
    simp only [hq, Bool.false_eq_true, if_false]
    rw [e3 _ (State.putGroup { s with cur := none } ((g.advance cur m (State.now { s with cur := none })).setWait h .none)) rfl rfl hi.group]
  simp only [State.acts, e]

/-- The same where the instruction acts for all its lanes together. -/
theorem faults_whole {i : Instr} {f : Fields} {guard : State → Group → Fields → Guard}
    {pre : State → Ictx → Prop} {ow : Ictx → State → Effect} {r : State → Ictx → FaultRecord}
    (he : ∀ s, exec i s = issue i f .whole guard ow s)
    (ho : ∀ s cur g, pre s (seen g cur f) → s.group? cur.group = some g →
      ow (seen g cur f) (begun s cur g) = .trap (r s (seen g cur f))) :
    Faults i f guard .whole pre r := by
  refine faults_of he fun s cur g hp _ => ⟨halfOf g cur, cur.lanes, [], alone_whole g cur, by simp, ?_⟩
  rintro c s' rfl rfl hg
  exact ho s cur g hp hg

/-- The issue of an instruction that waits. -/
theorem holds_of {i : Instr} {f : Fields} {how : Acting} {cond : Ictx → State → Prop} {w : Ictx → Wait}
    {ow : Ictx → State → Effect} (he : ∀ s, exec i s = issue i f how unguarded ow s)
    (ho : ∀ s cur g, cond (seen g cur f) s → s.group? cur.group = some g →
      ow (seen g cur f) (begun s cur g) = .wait (w (seen g cur f)) (begun s cur g)) : Holds i f how cond w := by
  intro s cur g hi ha ht hc
  have hid := group_id hi.group
  have hg : State.group? { s with cur := none } cur.group = some g := hi.group
  rw [he]
  unfold issue
  rw [hi.chosen]
  simp only
  rw [show s.group? cur.group = some g from hi.group]
  have hback := Issues.notBack hi
  have hfull := Issues.notFull hi
  have hchk : State.checks { s with cur := none } g cur i f (unguarded { s with cur := none } g f) = none := hi.checks
  simp only [hback, hfull, Bool.false_eq_true, if_false, hchk]
  rw [ha]
  have hp : (how == .grouped && participants g f cur.lanes == 0) = false := by
    obtain ⟨l, hl, h⟩ := ht
    have : participants g f cur.lanes ≠ 0 := by
      intro h0
      have h1 : (participants g f cur.lanes).has l = true := by
        unfold participants
        rw [has_maskOf]
        simpa [takes, hl] using h
      rw [h0] at h1
      simp [Mask.has] at h1
    simp only [Bool.and_eq_false_iff, beq_eq_false_iff_ne]
    exact .inr this
  have e : State.act { s with cur := none } cur f how ow (halfOf g cur) cur.lanes =
      .done ((begun s cur g).modGroup cur.group fun g' =>
        ({ g' with lanes := g.lanes, ops := g.ops, lastIssue := g.lastIssue }).setWait (halfOf g cur) (w (seen g cur f)) f.sbset.toNat) := by
    unfold State.act
    rw [hg]
    simp only [hp, Bool.false_eq_true, if_false]
    have := ho s cur g hc hi.group
    rw [show (⟨g, f, cur.lanes, participants g f cur.lanes, halfOf g cur, cur.addr, cur.word, cur.lanes⟩ : Ictx) = seen g cur f from rfl,
      show State.putGroup { s with cur := none } ((g.advance cur cur.lanes (State.now { s with cur := none })).setWait (halfOf g cur) .none)
        = begun s cur g from rfl, this]
  simp only [State.acts, e]
  congr 1
  have hg' : State.group? { s with cur := none } g.id = some g := by rw [hid]; exact hi.group
  unfold begun State.putGroup
  rw [moved_id, ← hid, modGroup_modGroup _ _ _ _ g hg' (by simp), modGroup_modGroup _ _ _ _ g hg' (by simp)]
  show ({ s with cur := none, groups := _ } : State) = _
  congr 2
  funext _
  unfold moved Group.setWait Group.advance Group.modLanes
  split <;> rfl

end Sys2Proof.Laws
end

