-- ==== Sys2Proof/Laws/PerInstr.lean ====
section
/-!
SUPPORT. Laws about every instruction as syntax, one lemma for each constructor. The family `Selected`: the opcode of a
well-formed instruction, with its fields, selects the instruction again (R66, R84), where one opcode serves several rows
too.
-/
namespace Sys2Proof.Laws

/-- The opcode and the fields of a well-formed instruction select it. -/
def Selected.Statement (i : Instr) : Prop :=
  ∀ (op : BitVec 8) (f : Fields), i.opcode? = some op → i.fields? = some f → WellFormed i → ofOpcode op.toNat f = .ok i

/-- An instruction whose opcode serves it alone. -/
theorem selected_of {i : Instr} {op : BitVec 8} {f : Fields} (h1 : i.opcode? = some op) (h2 : i.fields? = some f)
    (h : ofOpcode op.toNat f = .ok i) : Selected.Statement i := by
  intro op' f' e1 e2 _
  simp_all

/-- An event of the part has no word. -/
theorem selected_event {i : Instr} (h : i.opcode? = none) : Selected.Statement i := by
  intro op f e
  simp_all

/-- The signature of a well-formed instruction admits its MOD and SRCC. -/
theorem wf_mod {i : Instr} {sg : Sig} {f : Fields} (h1 : i.sig? = some sg) (h2 : i.fields? = some f)
    (h3 : WellFormed i) (hh : ∀ h, i ≠ .clauseHeader h) (hu : ∀ op g, i ≠ .unassignedOpcode op g) : fieldsOk sg f = true := by
  unfold WellFormed Instr.wf at h3
  split at h3
  · exact absurd rfl (hh _)
  · exact absurd rfl (hu _ _)
  · simpa [h1, h2] using h3

/-- Step 6 of R88 admits the MOD of an instruction. -/
theorem fieldsOk_mod {sg : Sig} {f : Fields} (h : fieldsOk sg f = true) : sg.mod = true := by
  unfold fieldsOk at h
  simp only [Bool.and_eq_true] at h
  exact h.1.1.1.1.2

/-- Step 6 of R88 admits the SRCC of an instruction that is no immediate form. -/
theorem fieldsOk_c {sg : Sig} {f : Fields} (h : fieldsOk sg f = true) (hi : sg.imm = false) :
    sg.c.ok f.srcc.toNat = true := by
  unfold fieldsOk at h
  simp only [hi, Bool.false_or, Bool.and_eq_true] at h
  exact h.1.1.1.1.1.2.2

theorem Selected.nop (f : Fields) : Selected.Statement (.nop f) := selected_of rfl rfl rfl
theorem Selected.bra (f : Fields) : Selected.Statement (.bra f) := selected_of rfl rfl rfl
theorem Selected.brax (f : Fields) : Selected.Statement (.brax f) := selected_of rfl rfl rfl
theorem Selected.call (f : Fields) : Selected.Statement (.call f) := selected_of rfl rfl rfl
theorem Selected.callx (f : Fields) : Selected.Statement (.callx f) := selected_of rfl rfl rfl
theorem Selected.ret (f : Fields) : Selected.Statement (.ret f) := selected_of rfl rfl rfl
theorem Selected.exit (f : Fields) : Selected.Statement (.exit f) := selected_of rfl rfl rfl
theorem Selected.yield (f : Fields) : Selected.Statement (.yield f) := selected_of rfl rfl rfl
theorem Selected.jenr (f : Fields) : Selected.Statement (.jenr f) := by
  intro op g e1 e2 h
  cases e1
  cases e2
  have hm : (f.mod == 0) = true := fieldsOk_mod (wf_mod rfl rfl h nofun nofun)
  obtain ⟨_, _, _, _, _, _, _, _, _, _, m⟩ := f
  obtain rfl : m = 0 := eq_of_beq hm
  rfl
theorem Selected.jenrAct (f : Fields) : Selected.Statement (.jenrAct f) := by
  intro op g e1 e2 h
  cases e1
  cases e2
  have hm : (f.mod == 1) = true := fieldsOk_mod (wf_mod rfl rfl h nofun nofun)
  obtain ⟨_, _, _, _, _, _, _, _, _, _, m⟩ := f
  obtain rfl : m = 1 := eq_of_beq hm
  rfl
theorem Selected.jsign (f : Fields) : Selected.Statement (.jsign f) := selected_of rfl rfl rfl
theorem Selected.jwait (f : Fields) : Selected.Statement (.jwait f) := selected_of rfl rfl rfl
theorem Selected.sbwait (f : Fields) : Selected.Statement (.sbwait f) := selected_of rfl rfl rfl
theorem Selected.cwait (f : Fields) : Selected.Statement (.cwait f) := selected_of rfl rfl rfl
theorem Selected.twait (f : Fields) : Selected.Statement (.twait f) := selected_of rfl rfl rfl
theorem Selected.twany (f : Fields) : Selected.Statement (.twany f) := selected_of rfl rfl rfl
theorem Selected.tfind (f : Fields) : Selected.Statement (.tfind f) := selected_of rfl rfl rfl
theorem Selected.tclr (f : Fields) : Selected.Statement (.tclr f) := selected_of rfl rfl rfl
theorem Selected.barw (f : Fields) : Selected.Statement (.barw f) := selected_of rfl rfl rfl
theorem Selected.bara (f : Fields) : Selected.Statement (.bara f) := selected_of rfl rfl rfl
theorem Selected.rarv (f : Fields) : Selected.Statement (.rarv f) := selected_of rfl rfl rfl
theorem Selected.rwait (f : Fields) : Selected.Statement (.rwait f) := selected_of rfl rfl rfl
theorem Selected.mwait (f : Fields) : Selected.Statement (.mwait f) := selected_of rfl rfl rfl
theorem Selected.mwaitWake (g half : Nat) : Selected.Statement (.mwaitWake g half) := selected_event rfl
theorem Selected.mwaitTimeout (g half : Nat) : Selected.Statement (.mwaitTimeout g half) := selected_event rfl
theorem Selected.spawn (f : Fields) : Selected.Statement (.spawn f) := selected_of rfl rfl rfl
theorem Selected.spawnRecordArrival (g op : Nat) : Selected.Statement (.spawnRecordArrival g op) := selected_event rfl
theorem Selected.spawnBinTimerExpiry (die bin : Nat) : Selected.Statement (.spawnBinTimerExpiry die bin) := selected_event rfl
theorem Selected.spawnGroupLaunch (die cu : Nat) : Selected.Statement (.spawnGroupLaunch die cu) := selected_event rfl
theorem Selected.ipref (f : Fields) : Selected.Statement (.ipref f) := selected_of rfl rfl rfl
theorem Selected.trap (f : Fields) : Selected.Statement (.trap f) := selected_of rfl rfl rfl
theorem Selected.assert (f : Fields) : Selected.Statement (.assert f) := selected_of rfl rfl rfl
theorem Selected.bkpt (f : Fields) : Selected.Statement (.bkpt f) := selected_of rfl rfl rfl
theorem Selected.getsr (f : Fields) : Selected.Statement (.getsr f) := selected_of rfl rfl rfl
theorem Selected.setsr (f : Fields) : Selected.Statement (.setsr f) := selected_of rfl rfl rfl
theorem Selected.renter (f : Fields) : Selected.Statement (.renter f) := selected_of rfl rfl rfl
theorem Selected.rleave (f : Fields) : Selected.Statement (.rleave f) := selected_of rfl rfl rfl
theorem Selected.trapretReplay (f : Fields) : Selected.Statement (.trapretReplay f) := by
  intro op g e1 e2 h
  cases e1
  cases e2
  have hm : (f.mod == 0) = true := fieldsOk_mod (wf_mod rfl rfl h nofun nofun)
  obtain ⟨_, _, _, _, _, _, _, _, _, _, m⟩ := f
  obtain rfl : m = 0 := eq_of_beq hm
  rfl
theorem Selected.trapretSkip (f : Fields) : Selected.Statement (.trapretSkip f) := by
  intro op g e1 e2 h
  cases e1
  cases e2
  have hm : (f.mod == 1) = true := fieldsOk_mod (wf_mod rfl rfl h nofun nofun)
  obtain ⟨_, _, _, _, _, _, _, _, _, _, m⟩ := f
  obtain rfl : m = 1 := eq_of_beq hm
  rfl
theorem Selected.iadd (f : Fields) : Selected.Statement (.iadd f) := selected_of rfl rfl rfl
theorem Selected.isub (f : Fields) : Selected.Statement (.isub f) := selected_of rfl rfl rfl
theorem Selected.imul (f : Fields) : Selected.Statement (.imul f) := selected_of rfl rfl rfl
theorem Selected.imulh (f : Fields) : Selected.Statement (.imulh f) := selected_of rfl rfl rfl
theorem Selected.imad (f : Fields) : Selected.Statement (.imad f) := selected_of rfl rfl rfl
theorem Selected.iaddi (f : Fields) : Selected.Statement (.iaddi f) := selected_of rfl rfl rfl
theorem Selected.imin (f : Fields) : Selected.Statement (.imin f) := selected_of rfl rfl rfl
theorem Selected.imax (f : Fields) : Selected.Statement (.imax f) := selected_of rfl rfl rfl
theorem Selected.and (f : Fields) : Selected.Statement (.and f) := selected_of rfl rfl rfl
theorem Selected.orr (f : Fields) : Selected.Statement (.orr f) := selected_of rfl rfl rfl
theorem Selected.xor (f : Fields) : Selected.Statement (.xor f) := selected_of rfl rfl rfl
theorem Selected.andn (f : Fields) : Selected.Statement (.andn f) := selected_of rfl rfl rfl
theorem Selected.shl (f : Fields) : Selected.Statement (.shl f) := selected_of rfl rfl rfl
theorem Selected.shr (f : Fields) : Selected.Statement (.shr f) := selected_of rfl rfl rfl
theorem Selected.iadd64 (f : Fields) : Selected.Statement (.iadd64 f) := selected_of rfl rfl rfl
theorem Selected.iaddi64 (f : Fields) : Selected.Statement (.iaddi64 f) := selected_of rfl rfl rfl
theorem Selected.popc (f : Fields) : Selected.Statement (.popc f) := selected_of rfl rfl rfl
theorem Selected.clz (f : Fields) : Selected.Statement (.clz f) := selected_of rfl rfl rfl
theorem Selected.brev (f : Fields) : Selected.Statement (.brev f) := selected_of rfl rfl rfl
theorem Selected.bfe (f : Fields) : Selected.Statement (.bfe f) := selected_of rfl rfl rfl
theorem Selected.bfi (f : Fields) : Selected.Statement (.bfi f) := selected_of rfl rfl rfl
theorem Selected.iset (f : Fields) : Selected.Statement (.iset f) := selected_of rfl rfl rfl
theorem Selected.sel (f : Fields) : Selected.Statement (.sel f) := selected_of rfl rfl rfl
theorem Selected.mov (f : Fields) : Selected.Statement (.mov f) := selected_of rfl rfl rfl
theorem Selected.movi (f : Fields) : Selected.Statement (.movi f) := selected_of rfl rfl rfl
theorem Selected.movhi (f : Fields) : Selected.Statement (.movhi f) := selected_of rfl rfl rfl
theorem Selected.movx (f : Fields) : Selected.Statement (.movx f) := selected_of rfl rfl rfl
theorem Selected.movxw (f : Fields) : Selected.Statement (.movxw f) := selected_of rfl rfl rfl
theorem Selected.bwin (f : Fields) : Selected.Statement (.bwin f) := selected_of rfl rfl rfl
theorem Selected.lxch (f : Fields) : Selected.Statement (.lxch f) := selected_of rfl rfl rfl
theorem Selected.lmask (f : Fields) : Selected.Statement (.lmask f) := selected_of rfl rfl rfl
theorem Selected.lcomb (f : Fields) : Selected.Statement (.lcomb f) := selected_of rfl rfl rfl
theorem Selected.faddF32 (f : Fields) : Selected.Statement (.faddF32 f) := selected_of rfl rfl rfl
theorem Selected.fsubF32 (f : Fields) : Selected.Statement (.fsubF32 f) := selected_of rfl rfl rfl
theorem Selected.fmulF32 (f : Fields) : Selected.Statement (.fmulF32 f) := selected_of rfl rfl rfl
theorem Selected.ffmaF32 (f : Fields) : Selected.Statement (.ffmaF32 f) := selected_of rfl rfl rfl
theorem Selected.fminF32 (f : Fields) : Selected.Statement (.fminF32 f) := selected_of rfl rfl rfl
theorem Selected.fmaxF32 (f : Fields) : Selected.Statement (.fmaxF32 f) := selected_of rfl rfl rfl
theorem Selected.fsetF32 (f : Fields) : Selected.Statement (.fsetF32 f) := selected_of rfl rfl rfl
theorem Selected.fclassF32 (f : Fields) : Selected.Statement (.fclassF32 f) := selected_of rfl rfl rfl
theorem Selected.faddF64 (f : Fields) : Selected.Statement (.faddF64 f) := selected_of rfl rfl rfl
theorem Selected.fsubF64 (f : Fields) : Selected.Statement (.fsubF64 f) := selected_of rfl rfl rfl
theorem Selected.fmulF64 (f : Fields) : Selected.Statement (.fmulF64 f) := selected_of rfl rfl rfl
theorem Selected.ffmaF64 (f : Fields) : Selected.Statement (.ffmaF64 f) := selected_of rfl rfl rfl
theorem Selected.fminF64 (f : Fields) : Selected.Statement (.fminF64 f) := selected_of rfl rfl rfl
theorem Selected.fmaxF64 (f : Fields) : Selected.Statement (.fmaxF64 f) := selected_of rfl rfl rfl
theorem Selected.fsetF64 (f : Fields) : Selected.Statement (.fsetF64 f) := selected_of rfl rfl rfl
theorem Selected.fclassF64 (f : Fields) : Selected.Statement (.fclassF64 f) := selected_of rfl rfl rfl
theorem Selected.hadd2F16 (f : Fields) : Selected.Statement (.hadd2F16 f) := selected_of rfl rfl rfl
theorem Selected.hsub2F16 (f : Fields) : Selected.Statement (.hsub2F16 f) := selected_of rfl rfl rfl
theorem Selected.hmul2F16 (f : Fields) : Selected.Statement (.hmul2F16 f) := selected_of rfl rfl rfl
theorem Selected.hfma2F16 (f : Fields) : Selected.Statement (.hfma2F16 f) := selected_of rfl rfl rfl
theorem Selected.hmin2F16 (f : Fields) : Selected.Statement (.hmin2F16 f) := selected_of rfl rfl rfl
theorem Selected.hmax2F16 (f : Fields) : Selected.Statement (.hmax2F16 f) := selected_of rfl rfl rfl
theorem Selected.hset2F16 (f : Fields) : Selected.Statement (.hset2F16 f) := selected_of rfl rfl rfl
theorem Selected.frndF32 (f : Fields) : Selected.Statement (.frndF32 f) := selected_of rfl rfl rfl
theorem Selected.hadd2Bf16 (f : Fields) : Selected.Statement (.hadd2Bf16 f) := selected_of rfl rfl rfl
theorem Selected.hsub2Bf16 (f : Fields) : Selected.Statement (.hsub2Bf16 f) := selected_of rfl rfl rfl
theorem Selected.hmul2Bf16 (f : Fields) : Selected.Statement (.hmul2Bf16 f) := selected_of rfl rfl rfl
theorem Selected.hfma2Bf16 (f : Fields) : Selected.Statement (.hfma2Bf16 f) := selected_of rfl rfl rfl
theorem Selected.hmin2Bf16 (f : Fields) : Selected.Statement (.hmin2Bf16 f) := selected_of rfl rfl rfl
theorem Selected.hmax2Bf16 (f : Fields) : Selected.Statement (.hmax2Bf16 f) := selected_of rfl rfl rfl
theorem Selected.hset2Bf16 (f : Fields) : Selected.Statement (.hset2Bf16 f) := selected_of rfl rfl rfl
theorem Selected.frndF64 (f : Fields) : Selected.Statement (.frndF64 f) := selected_of rfl rfl rfl
theorem Selected.rcpF32 (f : Fields) : Selected.Statement (.rcpF32 f) := selected_of rfl rfl rfl
theorem Selected.rsqF32 (f : Fields) : Selected.Statement (.rsqF32 f) := selected_of rfl rfl rfl
theorem Selected.sqrtF32 (f : Fields) : Selected.Statement (.sqrtF32 f) := selected_of rfl rfl rfl
theorem Selected.ex2F32 (f : Fields) : Selected.Statement (.ex2F32 f) := selected_of rfl rfl rfl
theorem Selected.lg2F32 (f : Fields) : Selected.Statement (.lg2F32 f) := selected_of rfl rfl rfl
theorem Selected.sinF32 (f : Fields) : Selected.Statement (.sinF32 f) := selected_of rfl rfl rfl
theorem Selected.cosF32 (f : Fields) : Selected.Statement (.cosF32 f) := selected_of rfl rfl rfl
theorem Selected.tanhF32 (f : Fields) : Selected.Statement (.tanhF32 f) := selected_of rfl rfl rfl
theorem Selected.rcpF64 (f : Fields) : Selected.Statement (.rcpF64 f) := selected_of rfl rfl rfl
theorem Selected.sqrtF64 (f : Fields) : Selected.Statement (.sqrtF64 f) := selected_of rfl rfl rfl
theorem Selected.cvt (f : Fields) : Selected.Statement (.cvt f) := selected_of rfl rfl rfl
theorem Selected.cvti (f : Fields) : Selected.Statement (.cvti f) := selected_of rfl rfl rfl
theorem Selected.cvtf (f : Fields) : Selected.Statement (.cvtf f) := selected_of rfl rfl rfl
theorem Selected.cvtn (f : Fields) : Selected.Statement (.cvtn f) := selected_of rfl rfl rfl
theorem Selected.cvtw (f : Fields) : Selected.Statement (.cvtw f) := selected_of rfl rfl rfl
theorem Selected.cbdec (f : Fields) : Selected.Statement (.cbdec f) := selected_of rfl rfl rfl
theorem Selected.bscale (f : Fields) : Selected.Statement (.bscale f) := selected_of rfl rfl rfl
theorem Selected.ld (f : Fields) : Selected.Statement (.ld f) := selected_of rfl rfl rfl
theorem Selected.st (f : Fields) : Selected.Statement (.st f) := selected_of rfl rfl rfl
theorem Selected.spld (f : Fields) : Selected.Statement (.spld f) := selected_of rfl rfl rfl
theorem Selected.spst (f : Fields) : Selected.Statement (.spst f) := selected_of rfl rfl rfl
theorem Selected.ldp (f : Fields) : Selected.Statement (.ldp f) := selected_of rfl rfl rfl
theorem Selected.atom (f : Fields) : Selected.Statement (.atom f) := selected_of rfl rfl rfl
theorem Selected.red (f : Fields) : Selected.Statement (.red f) := selected_of rfl rfl rfl
theorem Selected.cas (f : Fields) : Selected.Statement (.cas f) := selected_of rfl rfl rfl
theorem Selected.atoms (f : Fields) : Selected.Statement (.atoms f) := selected_of rfl rfl rfl
theorem Selected.cass (f : Fields) : Selected.Statement (.cass f) := selected_of rfl rfl rfl
theorem Selected.fence (f : Fields) : Selected.Statement (.fence f) := selected_of rfl rfl rfl
theorem Selected.rel (f : Fields) : Selected.Statement (.rel f) := selected_of rfl rfl rfl
theorem Selected.acq (f : Fields) : Selected.Statement (.acq f) := selected_of rfl rfl rfl
theorem Selected.sigclr (f : Fields) : Selected.Statement (.sigclr f) := selected_of rfl rfl rfl
theorem Selected.marmArm (f : Fields) : Selected.Statement (.marmArm f) := by
  intro op g e1 e2 h
  cases e1
  cases e2
  have hm : (f.mod == 0) = true := fieldsOk_mod (wf_mod rfl rfl h nofun nofun)
  obtain ⟨_, _, _, _, _, _, _, _, _, _, m⟩ := f
  obtain rfl : m = 0 := eq_of_beq hm
  rfl
theorem Selected.marmArmB64 (f : Fields) : Selected.Statement (.marmArmB64 f) := by
  intro op g e1 e2 h
  cases e1
  cases e2
  have hm : (f.mod == 1) = true := fieldsOk_mod (wf_mod rfl rfl h nofun nofun)
  obtain ⟨_, _, _, _, _, _, _, _, _, _, m⟩ := f
  obtain rfl : m = 1 := eq_of_beq hm
  rfl
theorem Selected.marmTest (f : Fields) : Selected.Statement (.marmTest f) := by
  intro op g e1 e2 h
  cases e1
  cases e2
  have hm : (f.mod == 2) = true := fieldsOk_mod (wf_mod rfl rfl h nofun nofun)
  obtain ⟨_, _, _, _, _, _, _, _, _, _, m⟩ := f
  obtain rfl : m = 2 := eq_of_beq hm
  rfl
theorem Selected.marmClr (f : Fields) : Selected.Statement (.marmClr f) := by
  intro op g e1 e2 h
  cases e1
  cases e2
  have hm : (f.mod == 3) = true := fieldsOk_mod (wf_mod rfl rfl h nofun nofun)
  obtain ⟨_, _, _, _, _, _, _, _, _, _, m⟩ := f
  obtain rfl : m = 3 := eq_of_beq hm
  rfl
theorem Selected.monitorFire (g k : Nat) : Selected.Statement (.monitorFire g k) := selected_event rfl
theorem Selected.pref (f : Fields) : Selected.Statement (.pref f) := selected_of rfl rfl rfl
theorem Selected.cctlWb (f : Fields) : Selected.Statement (.cctlWb f) := by
  intro op g e1 e2 h
  cases e1
  cases e2
  have hm : (f.mod == 0) = true := fieldsOk_mod (wf_mod rfl rfl h nofun nofun)
  obtain ⟨_, _, _, _, _, _, _, _, _, _, m⟩ := f
  obtain rfl : m = 0 := eq_of_beq hm
  rfl
theorem Selected.cctlInv (f : Fields) : Selected.Statement (.cctlInv f) := by
  intro op g e1 e2 h
  cases e1
  cases e2
  have hm : (f.mod == 1) = true := fieldsOk_mod (wf_mod rfl rfl h nofun nofun)
  obtain ⟨_, _, _, _, _, _, _, _, _, _, m⟩ := f
  obtain rfl : m = 1 := eq_of_beq hm
  rfl
theorem Selected.cctlInvall (f : Fields) : Selected.Statement (.cctlInvall f) := by
  intro op g e1 e2 h
  cases e1
  cases e2
  have hm : (f.mod == 2) = true := fieldsOk_mod (wf_mod rfl rfl h nofun nofun)
  obtain ⟨_, _, _, _, _, _, _, _, _, _, m⟩ := f
  obtain rfl : m = 2 := eq_of_beq hm
  rfl
theorem Selected.cctlIinv (f : Fields) : Selected.Statement (.cctlIinv f) := by
  intro op g e1 e2 h
  cases e1
  cases e2
  have hm : (f.mod == 3) = true := fieldsOk_mod (wf_mod rfl rfl h nofun nofun)
  obtain ⟨_, _, _, _, _, _, _, _, _, _, m⟩ := f
  obtain rfl : m = 3 := eq_of_beq hm
  rfl
theorem Selected.pzero (f : Fields) : Selected.Statement (.pzero f) := selected_of rfl rfl rfl
theorem Selected.memoryAccessComplete (g op : Nat) (lanes : BitVec 32) : Selected.Statement (.memoryAccessComplete g op lanes) := selected_event rfl
theorem Selected.mma (f : Fields) : Selected.Statement (.mma f) := selected_of rfl rfl rfl
theorem Selected.mmas (f : Fields) : Selected.Statement (.mmas f) := selected_of rfl rfl rfl
theorem Selected.mmacb (f : Fields) : Selected.Statement (.mmacb f) := selected_of rfl rfl rfl
theorem Selected.mmad (f : Fields) : Selected.Statement (.mmad f) := selected_of rfl rfl rfl
theorem Selected.matrixEngineStart (cu : Nat) : Selected.Statement (.matrixEngineStart cu) := selected_event rfl
theorem Selected.matrixComplete (cu : Nat) : Selected.Statement (.matrixComplete cu) := selected_event rfl
theorem Selected.mbmap (f : Fields) : Selected.Statement (.mbmap f) := selected_of rfl rfl rfl
theorem Selected.mzero (f : Fields) : Selected.Statement (.mzero f) := selected_of rfl rfl rfl
theorem Selected.mscale (f : Fields) : Selected.Statement (.mscale f) := selected_of rfl rfl rfl
theorem Selected.mldf (f : Fields) : Selected.Statement (.mldf f) := selected_of rfl rfl rfl
theorem Selected.mstf (f : Fields) : Selected.Statement (.mstf f) := selected_of rfl rfl rfl
theorem Selected.amov (f : Fields) : Selected.Statement (.amov f) := selected_of rfl rfl rfl
theorem Selected.anew (f : Fields) : Selected.Statement (.anew f) := selected_of rfl rfl rfl
theorem Selected.ald (f : Fields) : Selected.Statement (.ald f) := selected_of rfl rfl rfl
theorem Selected.ast (f : Fields) : Selected.Statement (.ast f) := selected_of rfl rfl rfl
theorem Selected.aadd (f : Fields) : Selected.Statement (.aadd f) := selected_of rfl rfl rfl
theorem Selected.asub (f : Fields) : Selected.Statement (.asub f) := selected_of rfl rfl rfl
theorem Selected.aneg (f : Fields) : Selected.Statement (.aneg f) := selected_of rfl rfl rfl
theorem Selected.ascl (f : Fields) : Selected.Statement (.ascl f) := selected_of rfl rfl rfl
theorem Selected.amul (f : Fields) : Selected.Statement (.amul f) := selected_of rfl rfl rfl
theorem Selected.afma (f : Fields) : Selected.Statement (.afma f) := selected_of rfl rfl rfl
theorem Selected.arcp (f : Fields) : Selected.Statement (.arcp f) := selected_of rfl rfl rfl
theorem Selected.asqrt (f : Fields) : Selected.Statement (.asqrt f) := selected_of rfl rfl rfl
theorem Selected.afold (f : Fields) : Selected.Statement (.afold f) := selected_of rfl rfl rfl
theorem Selected.acen (f : Fields) : Selected.Statement (.acen f) := selected_of rfl rfl rfl
theorem Selected.arad (f : Fields) : Selected.Statement (.arad f) := selected_of rfl rfl rfl
theorem Selected.aterm (f : Fields) : Selected.Statement (.aterm f) := selected_of rfl rfl rfl
theorem Selected.adeckRead (f : Fields) : Selected.Statement (.adeckRead f) := by
  intro op g e1 e2 h
  cases e1
  cases e2
  have hm : (f.mod == 0) = true := fieldsOk_mod (wf_mod rfl rfl h nofun nofun)
  obtain ⟨_, _, _, _, _, _, _, _, _, _, m⟩ := f
  obtain rfl : m = 0 := eq_of_beq hm
  rfl
theorem Selected.adeckAdd (f : Fields) : Selected.Statement (.adeckAdd f) := by
  intro op g e1 e2 h
  cases e1
  cases e2
  have hm : (f.mod == 1) = true := fieldsOk_mod (wf_mod rfl rfl h nofun nofun)
  obtain ⟨_, _, _, _, _, _, _, _, _, _, m⟩ := f
  obtain rfl : m = 1 := eq_of_beq hm
  rfl
theorem Selected.adeckSet (f : Fields) : Selected.Statement (.adeckSet f) := by
  intro op g e1 e2 h
  cases e1
  cases e2
  have hm : (f.mod == 2) = true := fieldsOk_mod (wf_mod rfl rfl h nofun nofun)
  obtain ⟨_, _, _, _, _, _, _, _, _, _, m⟩ := f
  obtain rfl : m = 2 := eq_of_beq hm
  rfl
theorem Selected.cpyl (f : Fields) : Selected.Statement (.cpyl f) := selected_of rfl rfl rfl
theorem Selected.cpys (f : Fields) : Selected.Statement (.cpys f) := selected_of rfl rfl rfl
theorem Selected.cpyg (f : Fields) : Selected.Statement (.cpyg f) := selected_of rfl rfl rfl
theorem Selected.cpyr (f : Fields) : Selected.Statement (.cpyr f) := selected_of rfl rfl rfl
theorem Selected.cpyp (f : Fields) : Selected.Statement (.cpyp f) := selected_of rfl rfl rfl
theorem Selected.collAllred (f : Fields) : Selected.Statement (.collAllred f) := by
  intro op g e1 e2 h
  cases e1
  cases e2
  have hc : (f.srcc.toNat == 0) = true := fieldsOk_c (wf_mod rfl rfl h nofun nofun) rfl
  obtain ⟨_, _, _, _, _, c, _, _, _, _, _⟩ := f
  obtain rfl : c = 0 := BitVec.eq_of_toNat_eq (eq_of_beq hc)
  rfl
theorem Selected.collAllgath (f : Fields) : Selected.Statement (.collAllgath f) := by
  intro op g e1 e2 h
  cases e1
  cases e2
  have hc : (f.srcc.toNat == 1) = true := fieldsOk_c (wf_mod rfl rfl h nofun nofun) rfl
  obtain ⟨_, _, _, _, _, c, _, _, _, _, _⟩ := f
  obtain rfl : c = 1 := BitVec.eq_of_toNat_eq (eq_of_beq hc)
  rfl
theorem Selected.collRedscat (f : Fields) : Selected.Statement (.collRedscat f) := by
  intro op g e1 e2 h
  cases e1
  cases e2
  have hc : (f.srcc.toNat == 2) = true := fieldsOk_c (wf_mod rfl rfl h nofun nofun) rfl
  obtain ⟨_, _, _, _, _, c, _, _, _, _, _⟩ := f
  obtain rfl : c = 2 := BitVec.eq_of_toNat_eq (eq_of_beq hc)
  rfl
theorem Selected.collSend (f : Fields) : Selected.Statement (.collSend f) := by
  intro op g e1 e2 h
  cases e1
  cases e2
  have hc : (f.srcc.toNat == 3) = true := fieldsOk_c (wf_mod rfl rfl h nofun nofun) rfl
  obtain ⟨_, _, _, _, _, c, _, _, _, _, _⟩ := f
  obtain rfl : c = 3 := BitVec.eq_of_toNat_eq (eq_of_beq hc)
  rfl
theorem Selected.collRecv (f : Fields) : Selected.Statement (.collRecv f) := by
  intro op g e1 e2 h
  cases e1
  cases e2
  have hc : (f.srcc.toNat == 4) = true := fieldsOk_c (wf_mod rfl rfl h nofun nofun) rfl
  obtain ⟨_, _, _, _, _, c, _, _, _, _, _⟩ := f
  obtain rfl : c = 4 := BitVec.eq_of_toNat_eq (eq_of_beq hc)
  rfl
theorem Selected.collPeerData (asid coll rank : Nat) (data : List (BitVec 8)) : Selected.Statement (.collPeerData asid coll rank data) := selected_event rfl
theorem Selected.copyLand (g op : Nat) : Selected.Statement (.copyLand g op) := selected_event rfl
theorem Selected.asmk (f : Fields) : Selected.Statement (.asmk f) := selected_of rfl rfl rfl
theorem Selected.asdrop (f : Fields) : Selected.Statement (.asdrop f) := selected_of rfl rfl rfl
theorem Selected.asqry (f : Fields) : Selected.Statement (.asqry f) := selected_of rfl rfl rfl
theorem Selected.launch (f : Fields) : Selected.Statement (.launch f) := selected_of rfl rfl rfl
theorem Selected.ckpt (f : Fields) : Selected.Statement (.ckpt f) := selected_of rfl rfl rfl
theorem Selected.clauseHeader (h : Header) : Selected.Statement (.clauseHeader h) := selected_event rfl
theorem Selected.longLatencyResult (g op : Nat) (lanes : BitVec 32) : Selected.Statement (.longLatencyResult g op lanes) := selected_event rfl
theorem Selected.fetchMiss (g : Nat) : Selected.Statement (.fetchMiss g) := selected_event rfl
theorem Selected.fetchLineFill (cu asid line : Nat) : Selected.Statement (.fetchLineFill cu asid line) := selected_event rfl
theorem Selected.pageWalk (cu asid : Nat) (va : BitVec 64) (kind : AccessKind) : Selected.Statement (.pageWalk cu asid va kind) := selected_event rfl
theorem Selected.pageRequestSend (req : Nat) : Selected.Statement (.pageRequestSend req) := selected_event rfl
theorem Selected.pageRequestResponse (req : Nat) (answer : PageAnswer) : Selected.Statement (.pageRequestResponse req answer) := selected_event rfl
theorem Selected.trapHandlerEntry (g : Nat) : Selected.Statement (.trapHandlerEntry g) := selected_event rfl
theorem Selected.contextEnd (asid : Nat) : Selected.Statement (.contextEnd asid) := selected_event rfl
theorem Selected.groupRetire (g : Nat) : Selected.Statement (.groupRetire g) := selected_event rfl
theorem Selected.launchComplete (l : Nat) : Selected.Statement (.launchComplete l) := selected_event rfl
theorem Selected.doorbell : Selected.Statement (.doorbell) := selected_event rfl
theorem Selected.queueEntryConsider (asid queue : Nat) : Selected.Statement (.queueEntryConsider asid queue) := selected_event rfl
theorem Selected.graphNodeStart (l : Nat) : Selected.Statement (.graphNodeStart l) := selected_event rfl
theorem Selected.teamPlace (t cluster : Nat) : Selected.Statement (.teamPlace t cluster) := selected_event rfl
theorem Selected.sramWayConvert (cu : Nat) : Selected.Statement (.sramWayConvert cu) := selected_event rfl
theorem Selected.forwardProgressSwap (cu : Nat) : Selected.Statement (.forwardProgressSwap cu) := selected_event rfl
theorem Selected.preemptByClass (t cluster : Nat) : Selected.Statement (.preemptByClass t cluster) := selected_event rfl
theorem Selected.bankSwitch (cu : Nat) (incoming : List Nat) : Selected.Statement (.bankSwitch cu incoming) := selected_event rfl
theorem Selected.rowSwap (cu : Nat) (outgoing : List Nat) : Selected.Statement (.rowSwap cu outgoing) := selected_event rfl
theorem Selected.wasteRowSpill (cu t : Nat) : Selected.Statement (.wasteRowSpill cu t) := selected_event rfl
theorem Selected.checkpointTake (asid : Nat) : Selected.Statement (.checkpointTake asid) := selected_event rfl
theorem Selected.uncorrectableError (site : ErrorSite) : Selected.Statement (.uncorrectableError site) := selected_event rfl
theorem Selected.hangTimeout (asid : Nat) : Selected.Statement (.hangTimeout asid) := selected_event rfl
theorem Selected.caughtWriteEvaluate (held : Nat) : Selected.Statement (.caughtWriteEvaluate held) := selected_event rfl
theorem Selected.revocationDeliver (slot g : Nat) : Selected.Statement (.revocationDeliver slot g) := selected_event rfl
theorem Selected.revocationAck (slot g : Nat) : Selected.Statement (.revocationAck slot g) := selected_event rfl
theorem Selected.imagePatch (slot g : Nat) : Selected.Statement (.imagePatch slot g) := selected_event rfl
theorem Selected.heldWriteRelease (slot : Nat) : Selected.Statement (.heldWriteRelease slot) := selected_event rfl
theorem Selected.reclassify (frame cu : Nat) : Selected.Statement (.reclassify frame cu) := selected_event rfl
theorem Selected.registrationRecall (line word : Nat) : Selected.Statement (.registrationRecall line word) := selected_event rfl
theorem Selected.forwardedRead (cu line word : Nat) : Selected.Statement (.forwardedRead cu line word) := selected_event rfl
theorem Selected.transientRequest (who : Holder) (line : Nat) (write : Bool) : Selected.Statement (.transientRequest who line write) := selected_event rfl
theorem Selected.attemptFail (who : Holder) (line : Nat) (write : Bool) : Selected.Statement (.attemptFail who line write) := selected_event rfl
theorem Selected.trumpRequest (who : Holder) (line : Nat) (write : Bool) : Selected.Statement (.trumpRequest who line write) := selected_event rfl
theorem Selected.trumpRelease (who : Holder) (line : Nat) : Selected.Statement (.trumpRelease who line) := selected_event rfl
theorem Selected.lineReplace (die line : Nat) : Selected.Statement (.lineReplace die line) := selected_event rfl
theorem Selected.hostMemrd (pa count : Nat) : Selected.Statement (.hostMemrd pa count) := selected_event rfl
theorem Selected.hostMemwr (pa : Nat) (data : List (BitVec 8)) : Selected.Statement (.hostMemwr pa data) := selected_event rfl
theorem Selected.hostSnoop (line : Nat) (invalidate : Bool) : Selected.Statement (.hostSnoop line invalidate) := selected_event rfl
theorem Selected.birsp (line : Nat) : Selected.Statement (.birsp line) := selected_event rfl
theorem Selected.d2hCompletion (die line : Nat) : Selected.Statement (.d2hCompletion die line) := selected_event rfl
theorem Selected.peerAccess (pa : Nat) (access : PeerOp) : Selected.Statement (.peerAccess pa access) := selected_event rfl
theorem Selected.frameZeroing (frame : Nat) : Selected.Statement (.frameZeroing frame) := selected_event rfl
theorem Selected.portAdmit : Selected.Statement (.portAdmit) := selected_event rfl
theorem Selected.imgInsert : Selected.Statement (.imgInsert) := selected_event rfl
theorem Selected.imgLookup : Selected.Statement (.imgLookup) := selected_event rfl
theorem Selected.imgRelease : Selected.Statement (.imgRelease) := selected_event rfl
theorem Selected.imgQuery : Selected.Statement (.imgQuery) := selected_event rfl
theorem Selected.biasHost : Selected.Statement (.biasHost) := selected_event rfl
theorem Selected.biasDevice : Selected.Statement (.biasDevice) := selected_event rfl
theorem Selected.tlbInvVa : Selected.Statement (.tlbInvVa) := selected_event rfl
theorem Selected.tlbInvAsid : Selected.Statement (.tlbInvAsid) := selected_event rfl
theorem Selected.tlbInvFunc : Selected.Statement (.tlbInvFunc) := selected_event rfl
theorem Selected.tlbInvS2 : Selected.Statement (.tlbInvS2) := selected_event rfl
theorem Selected.ctxCreate : Selected.Statement (.ctxCreate) := selected_event rfl
theorem Selected.ctxDelete : Selected.Statement (.ctxDelete) := selected_event rfl
theorem Selected.freeze : Selected.Statement (.freeze) := selected_event rfl
theorem Selected.podFreezeMessage : Selected.Statement (.podFreezeMessage) := selected_event rfl
theorem Selected.thaw : Selected.Statement (.thaw) := selected_event rfl
theorem Selected.partSet : Selected.Statement (.partSet) := selected_event rfl
theorem Selected.vfBind : Selected.Statement (.vfBind) := selected_event rfl
theorem Selected.ctxBw : Selected.Statement (.ctxBw) := selected_event rfl
theorem Selected.vfReset : Selected.Statement (.vfReset) := selected_event rfl
theorem Selected.clusterLend : Selected.Statement (.clusterLend) := selected_event rfl
theorem Selected.clusterReclaim : Selected.Statement (.clusterReclaim) := selected_event rfl
theorem Selected.frameClaim : Selected.Statement (.frameClaim) := selected_event rfl
theorem Selected.frameFree : Selected.Statement (.frameFree) := selected_event rfl
theorem Selected.mbCmdUnassigned : Selected.Statement (.mbCmdUnassigned) := selected_event rfl
theorem Selected.summary : Selected.Statement (.summary) := selected_event rfl
theorem Selected.memIlvWrite : Selected.Statement (.memIlvWrite) := selected_event rfl
theorem Selected.registerWrite : Selected.Statement (.registerWrite) := selected_event rfl
theorem Selected.powerOnReset : Selected.Statement (.powerOnReset) := selected_event rfl
theorem Selected.hostReset : Selected.Statement (.hostReset) := selected_event rfl
theorem Selected.vfFlr : Selected.Statement (.vfFlr) := selected_event rfl
theorem Selected.powerClockStep : Selected.Statement (.powerClockStep) := selected_event rfl
theorem Selected.thermalTrip : Selected.Statement (.thermalTrip) := selected_event rfl
theorem Selected.cuTemperatureSample : Selected.Statement (.cuTemperatureSample) := selected_event rfl
theorem Selected.voltageDroop : Selected.Statement (.voltageDroop) := selected_event rfl
theorem Selected.barExpiry : Selected.Statement (.barExpiry) := selected_event rfl
theorem Selected.linkDown : Selected.Statement (.linkDown) := selected_event rfl
theorem Selected.ethPacketReceive : Selected.Statement (.ethPacketReceive) := selected_event rfl
theorem Selected.ethRetransmitTimeout : Selected.Statement (.ethRetransmitTimeout) := selected_event rfl
theorem Selected.ethAckTimeout : Selected.Statement (.ethAckTimeout) := selected_event rfl
theorem Selected.ethEcnMark : Selected.Statement (.ethEcnMark) := selected_event rfl
set_option maxRecDepth 4000 in
theorem Selected.unassignedOpcode (op : BitVec 8) (f : Fields) : Selected.Statement (.unassignedOpcode op f) := by
  intro op' g e1 e2 h
  cases e1
  cases e2
  have hu : unassigned op = true := h
  unfold ofOpcode
  split
  all_goals first
    | exact absurd hu (by rename_i heq; simp only [unassigned, heq]; decide)
    | simp only [BitVec.ofNat_toNat, BitVec.setWidth_eq]
theorem Selected.powerFault : Selected.Statement (.powerFault) := selected_event rfl
theorem Selected.hostLinkFailure : Selected.Statement (.hostLinkFailure) := selected_event rfl
theorem Selected.patrolScrubbing : Selected.Statement (.patrolScrubbing) := selected_event rfl
theorem Selected.pageRequestCapability : Selected.Statement (.pageRequestCapability) := selected_event rfl
theorem Selected.linkLevelRetry : Selected.Statement (.linkLevelRetry) := selected_event rfl
theorem Selected.linkRetrain : Selected.Statement (.linkRetrain) := selected_event rfl

end Sys2Proof.Laws
end

