-- ==== Sys2Proof/Laws/Registers.lean ====
section
/-!
SUPPORT. Masks, lanes and registers: what a mask holds, and what a register reads after results are written.
-/
namespace Sys2Proof.Laws

open Sys2Proof.Machine Sys2Proof.Safety

/-! ### Participants -/

/-- A lane participates when it issues and its predicate holds (R70, R111). -/
@[simp] theorem has_participants (g : Group) (f : Fields) (m : Mask) (i : Nat) :
    (participants g f m).has i = (m.has i && predHolds g f i) := by
  unfold participants
  rw [has_maskOf]
  by_cases h : m.has i = true
  · simp [h, has_lt h]
  · simp [Bool.eq_false_iff.mpr h]

/-- A mask is zero where it holds no lane. -/
theorem mask_zero_iff (m : Mask) : m = 0#32 ↔ ∀ i, i < 32 → m.has i = false := by
  constructor
  · rintro rfl i _; simp [Mask.has]
  · intro h
    apply BitVec.eq_of_getLsbD_eq
    intro i hi
    simpa [Mask.has] using h i hi

/-! ### Registers -/

theorem regKey_inj {r i r' i' : Nat} (h : i < 32) (h' : i' < 32) : regKey r i = regKey r' i' ↔ r = r' ∧ i = i' := by
  unfold regKey; constructor
  · intro e; omega
  · rintro ⟨rfl, rfl⟩; rfl

/-- The registers of a group are its record's. -/
theorem reg_congr {g h : Group} (e : h.regs = g.regs) (r i : Nat) : h.reg r i = g.reg r i := by
  unfold Group.reg; rw [e]

theorem reg_setReg (g : Group) (r i r' i' : Nat) (x : Word) (hi : i < 32) (hi' : i' < 32) :
    (g.setReg r i x).reg r' i' = if r = r' ∧ i = i' ∧ r ≠ 255 then x else g.reg r' i' := by
  unfold Group.setReg Group.reg
  by_cases h : r = 255
  · simp [h]
  · simp only [h, if_false]
    by_cases h' : r' = 255
    · subst h'; simp [h]
    · simp only [h', if_false]
      rw [sget_sset]
      by_cases e : r = r' ∧ i = i'
      · obtain ⟨rfl, rfl⟩ := e; simp [h]
      · rw [if_neg (by rw [regKey_inj hi hi']; exact e), if_neg (fun h => e ⟨h.1, h.2.1⟩)]

theorem setReg_eq (g : Group) (r i : Nat) (x : Word) : g.setReg r i x = { g with regs := (g.setReg r i x).regs } := by
  unfold Group.setReg; split <;> rfl

/-- Results change the registers of a group alone. -/
theorem writeRegs_eq (g : Group) (ws : List RegWrite) : g.writeRegs ws = { g with regs := (g.writeRegs ws).regs } := by
  induction ws generalizing g with
  | nil => rfl
  | cons w ws ih =>
    have e : g.writeRegs (w :: ws) = (g.setReg w.reg w.lane w.value).writeRegs ws := rfl
    rw [e, ih, setReg_eq]

/-- The last result for a register of a lane. -/
def lastResult (ws : List RegWrite) (r l : Nat) : Option Word :=
  (ws.reverse.find? fun w => w.reg == r && w.lane == l).map RegWrite.value

/-- A register reads the last result written to it. -/
theorem reg_writeRegs (g : Group) (ws : List RegWrite) (r l : Nat) (hr : r ≠ 255) (hl : l < 32)
    (hw : ∀ w ∈ ws, w.lane < 32) : (g.writeRegs ws).reg r l = (lastResult ws r l).getD (g.reg r l) := by
  induction ws generalizing g with
  | nil => rfl
  | cons w ws ih =>
    have e : g.writeRegs (w :: ws) = (g.setReg w.reg w.lane w.value).writeRegs ws := rfl
    rw [e, ih _ (fun x hx => hw x (by simp [hx])), reg_setReg _ _ _ _ _ _ (hw w (by simp)) hl]
    unfold lastResult
    rw [List.reverse_cons, List.find?_append]
    cases hf : ws.reverse.find? (fun w => w.reg == r && w.lane == l) with
    | some x => simp
    | none =>
      by_cases h : w.reg = r ∧ w.lane = l
      · obtain ⟨h1, h2⟩ := h; simp [h1, h2, hr]
      · rw [if_neg (fun x => h ⟨x.1, x.2.1⟩)]
        have : (w.reg == r && w.lane == l) = false := by
          simp only [Bool.and_eq_false_iff, beq_eq_false_iff_ne]; by_contra hn; push Not at hn; exact h hn
        simp [this]

/-- Results for distinct registers of each lane of a list: a register reads the result for it. -/
theorem lastResult_flatMap (ls : List Nat) (h : ls.Nodup) (F : Nat → List RegWrite) (hF : ∀ i ∈ ls, ∀ w ∈ F i, w.lane = i) (r l : Nat) :
    lastResult (ls.flatMap F) r l = if l ∈ ls then lastResult (F l) r l else none := by
  induction ls with
  | nil => rfl
  | cons a as ih =>
    have ha := List.nodup_cons.mp h
    have ih' := ih ha.2 (fun i hi => hF i (by simp [hi]))
    have e : lastResult ((a :: as).flatMap F) r l = (lastResult (as.flatMap F) r l).or (lastResult (F a) r l) := by
      unfold lastResult
      rw [List.flatMap_cons, List.reverse_append, List.find?_append]
      cases (as.flatMap F).reverse.find? _ <;> simp
    have none_of : ∀ i, i ≠ l → (i ∈ a :: as) → lastResult (F i) r l = none := by
      intro i hi hm
      unfold lastResult
      rw [List.find?_eq_none.mpr]; rfl
      intro w hw
      have := hF i hm w (by simpa using hw)
      simp [this, hi]
    rw [e, ih']
    by_cases h1 : a = l
    · subst h1; simp [ha.1]
    · have h1' : ¬ l = a := fun x => h1 x.symm
      rw [none_of a h1 (by simp)]
      by_cases h2 : l ∈ as <;> simp [h1', h2]

/-- A result for one register of each participant. -/
theorem reg_each (h : Group) (c : Ictx) (v : Nat → Word) (r l : Nat) (hr : r ≠ 255) (hl : l < 32) :
    (h.writeRegs (c.each v)).reg r l = if c.parts.has l && r == c.f.dst.toNat then v l else h.reg r l := by
  have e : c.each v = (lanesOf c.parts).flatMap fun i => [⟨c.f.dst.toNat, i, v i⟩] := by
    unfold Ictx.each; rw [List.map_eq_flatMap]
  rw [reg_writeRegs _ _ _ _ hr hl, e, lastResult_flatMap _ (nodup_lanesOf _)]
  · by_cases h1 : c.parts.has l = true
    · simp only [mem_lanesOf, h1, if_true, Bool.true_and]
      by_cases h2 : c.f.dst.toNat = r
      · simp [lastResult, h2]
      · have : ¬ r = c.f.dst.toNat := fun x => h2 x.symm
        simp [lastResult, h2, this]
    · simp [h1]
  · simp
  · intro w hw
    simp only [Ictx.each, List.mem_map, mem_lanesOf] at hw
    obtain ⟨i, hi, rfl⟩ := hw
    exact has_lt hi

/-- A result for a register pair of each participant. -/
theorem reg_each64 (h : Group) (c : Ictx) (v : Nat → DWord) (r l : Nat) (hr : r ≠ 255) (hl : l < 32) :
    (h.writeRegs (c.each64 v)).reg r l =
      if c.parts.has l && r == c.f.dst.toNat then (v l).extractLsb' 0 32
      else if c.parts.has l && r == c.f.dst.toNat + 1 then (v l).extractLsb' 32 32 else h.reg r l := by
  rw [reg_writeRegs _ _ _ _ hr hl]
  · unfold Ictx.each64
    rw [lastResult_flatMap _ (nodup_lanesOf _)]
    · by_cases h1 : c.parts.has l = true
      · simp only [mem_lanesOf, h1, if_true, Bool.true_and]
        by_cases h2 : r = c.f.dst.toNat
        · subst h2; simp [lastResult]
        · by_cases h3 : r = c.f.dst.toNat + 1
          · subst h3; simp [lastResult]
          · have : ¬ c.f.dst.toNat = r := fun x => h2 x.symm
            have : ¬ c.f.dst.toNat + 1 = r := fun x => h3 x.symm
            simp [lastResult, *]
      · simp [h1]
    · simp
  · intro w hw
    simp only [Ictx.each64, List.mem_flatMap, mem_lanesOf] at hw
    obtain ⟨i, hi, hw⟩ := hw
    have := has_lt hi
    rcases List.mem_cons.mp hw with rfl | hw
    · exact this
    · simp at hw; subst hw; exact this

/-! ### Fixed-latency instructions -/

/-- The issue of an instruction whose own effect writes results. -/
theorem writes_of {i : Instr} {f : Fields} {guard : State → Group → Fields → Guard} {pre : Ictx → Prop}
    {own : Ictx → State → Effect} {ws : Ictx → List RegWrite} {val : Ictx → Nat → Nat → Option Word}
    (he : ∀ s, exec i s = issue i f .whole guard own s)
    (ho : ∀ c s, c.f = f → pre c → own c s = .done (s.writeResults c (ws c)))
    (hv : ∀ c h r l, r ≠ 255 → l < 32 → c.f = f →
      (Group.writeRegs h (ws c)).reg r l = if c.parts.has l then (val c r l).getD (h.reg r l) else h.reg r l) :
    WritesIf i f guard pre val := by
  intro s cur g hi hs hp
  have hid := group_id hi.group
  refine ⟨((moved g cur s.now).writeRegs (ws (seen g cur f))).regs, ?_, ?_⟩
  · rw [he, issue_group hi .whole guard _ rfl (alone_whole g cur) (fun h => h.writeRegs (ws (seen g cur f))) (by simp)
      (ho _ _ rfl hp)]
    · exact congrArg _ (issued_congr (writeRegs_eq _ _))
    · rw [writeRegs_eq]; simp
    · rw [writeRegs_eq]
      rcases hs with h | h
      · exact .inl ⟨h, by simpa using h⟩
      · refine .inr ?_
        rw [← h]
        exact escape_congr _ _ _ _ _ _ rfl rfl rfl rfl rfl
  · intro r l hr hl
    have e : Group.reg { g with regs := ((moved g cur s.now).writeRegs (ws (seen g cur f))).regs } r l
        = ((moved g cur s.now).writeRegs (ws (seen g cur f))).reg r l := reg_congr rfl r l
    rw [e, hv _ _ _ _ hr hl rfl, reg_congr (moved_regs g cur s.now)]
    simp [seen, takes]

/-- A 32-bit result of each participant. -/
theorem writes_each {i : Instr} {f : Fields} {guard : State → Group → Fields → Guard} {v w : Ictx → Nat → Word}
    (he : ∀ s, exec i s = issue i f .whole guard (fun c s => .done (s.writeResults c (c.each (v c)))) s)
    (hv : ∀ c l, c.f = f → v c l = w c l) : Writes i f guard (into w) := by
  refine writes_of he (fun _ _ _ _ => rfl) fun c h r l hr hl hf => ?_
  rw [reg_each _ _ _ _ _ hr hl]
  unfold into
  by_cases h1 : c.parts.has l = true <;> by_cases h2 : r = c.f.dst.toNat <;> simp [h1, h2, hv _ _ hf]

/-- A 64-bit result of each participant. -/
theorem writes_each64 {i : Instr} {f : Fields} {guard : State → Group → Fields → Guard} {v w : Ictx → Nat → DWord}
    (he : ∀ s, exec i s = issue i f .whole guard (fun c s => .done (s.writeResults c (c.each64 (v c)))) s)
    (hv : ∀ c l, c.f = f → v c l = w c l) : Writes i f guard (intoPair w) := by
  refine writes_of he (fun _ _ _ _ => rfl) fun c h r l hr hl hf => ?_
  rw [reg_each64 _ _ _ _ _ hr hl]
  unfold intoPair
  by_cases h1 : c.parts.has l = true <;> by_cases h2 : r = c.f.dst.toNat <;> by_cases h3 : r = c.f.dst.toNat + 1 <;>
    simp_all

end Sys2Proof.Laws
end

