-- ==== Sys2Proof/Tests/Slice0.lean ====
section
/-!
SUPPORT. Tests: words written out from the spec's encodings and from its examples, ill-formed instructions, worked results,
and for every statement a state that meets what it supposes.
-/
namespace Sys2Proof.Tests

open Sys2Proof Machine Safety Claims

set_option maxRecDepth 4000
set_option Elab.async false

/-! ### Words -/

/-- Each instruction has the word, and the word reads as the instruction. -/
def denotes (xs : List (Instr × DWord)) : Prop :=
  ∀ x ∈ xs, (decodeWord x.2).toOption = some x.1 ∧ encode x.1 = some x.2

theorem test_words_00 : denotes
  [(.nop ⟨0, 0, 0, 0, 0, 0, 0, 0, 63, 0, 0⟩, 0x0000_0000_0000_03F0),
    (.bra ⟨0, 0, 0, 0, 2, 70, 4, 5, 63, 0, 4⟩, 0x0100_0000_048D_17F4),
    (.brax ⟨0, 0, 0, 20, 0, 0, 0, 0, 12, 0, 0⟩, 0x0200_0028_0000_00C0),
    (.call ⟨0, 0, 30, 0, 255, 255, 7, 0, 9, 1, 4⟩, 0x0300_3C01_FFFF_C09C),
    (.callx ⟨0, 0, 30, 20, 0, 0, 0, 0, 63, 0, 0⟩, 0x0400_3C28_0000_03F0),
    (.ret ⟨0, 0, 0, 20, 0, 0, 0, 0, 63, 0, 0⟩, 0x0500_0028_0000_03F0),
    (.exit ⟨0, 0, 0, 0, 0, 0, 0, 0, 63, 0, 0⟩, 0x0600_0000_0000_03F0),
    (.yield ⟨0, 0, 0, 0, 0, 0, 0, 0, 3, 1, 0⟩, 0x0700_0000_0000_0038)] := by
  unfold denotes; decide

theorem test_words_08 : denotes
  [(.jenr ⟨0, 0, 3, 7, 0, 0, 0, 0, 15, 1, 0⟩, 0x0800_060E_0000_00F8),
    (.jenrAct ⟨0, 0, 15, 0, 0, 0, 0, 0, 63, 0, 1⟩, 0x0800_1E00_0000_03F1),
    (.jsign ⟨0, 0, 9, 0, 0, 0, 0, 0, 63, 0, 0⟩, 0x0900_1200_0000_03F0),
    (.jwait ⟨0, 0, 9, 0, 0, 0, 0, 0, 18, 0, 0⟩, 0x0A00_1200_0000_0120),
    (.sbwait ⟨0, 0, 0, 0, 0, 85, 0, 0, 63, 0, 0⟩, 0x0B00_0000_00AA_03F0),
    (.cwait ⟨0, 0, 0, 0, 0, 63, 0, 0, 63, 0, 3⟩, 0x0C00_0000_007E_03F3),
    (.twait ⟨0, 0, 0, 10, 0, 0, 0, 0, 21, 1, 0⟩, 0x0D00_0014_0000_0158),
    (.twany ⟨0, 0, 5, 10, 0, 0, 0, 0, 63, 0, 0⟩, 0x0E00_0A14_0000_03F0),
    (.tfind ⟨0, 0, 5, 10, 0, 0, 0, 0, 24, 0, 0⟩, 0x0F00_0A14_0000_0180)] := by
  unfold denotes; decide

theorem test_words_10 : denotes
  [(.tclr ⟨0, 0, 0, 10, 0, 0, 0, 0, 63, 0, 0⟩, 0x1000_0014_0000_03F0),
    (.barw ⟨0, 0, 0, 31, 4, 0, 0, 0, 63, 0, 1⟩, 0x1100_003E_0800_03F1),
    (.bara ⟨0, 0, 0, 17, 0, 0, 0, 0, 63, 0, 0⟩, 0x1200_0022_0000_03F0),
    (.rarv ⟨0, 0, 0, 7, 0, 15, 0, 0, 27, 1, 0⟩, 0x1300_000E_001E_01B8),
    (.rwait ⟨0, 0, 0, 3, 0, 9, 0, 0, 63, 0, 1⟩, 0x1400_0006_0012_03F1),
    (.mwait ⟨0, 0, 5, 20, 30, 11, 0, 0, 63, 0, 5⟩, 0x1500_0A28_3C16_03F5),
    (.spawn ⟨3, 2, 3, 10, 20, 0, 0, 0, 30, 0, 0⟩, 0x1664_0614_2800_01E0),
    (.ipref ⟨0, 0, 0, 40, 0, 7, 0, 0, 63, 0, 0⟩, 0x1700_0050_000E_03F0)] := by
  unfold denotes; decide

theorem test_words_18 : denotes
  [(.trap ⟨0, 0, 0, 0, 1, 87, 4, 13, 63, 0, 0⟩, 0x1800_0000_02AF_37F0),
    (.assert ⟨0, 0, 0, 9, 22, 0, 0, 0, 63, 0, 0⟩, 0x1900_0012_2C00_03F0),
    (.bkpt ⟨0, 0, 0, 0, 1, 87, 4, 13, 63, 0, 0⟩, 0x1A00_0000_02AF_37F0),
    (.getsr ⟨0, 0, 12, 0, 0, 11, 0, 0, 33, 1, 0⟩, 0x1B00_1800_0016_0218),
    (.setsr ⟨0, 0, 0, 14, 0, 17, 0, 0, 63, 0, 0⟩, 0x1C00_001C_0022_03F0),
    (.renter ⟨0, 0, 0, 0, 0, 0, 0, 0, 63, 0, 0⟩, 0x1D00_0000_0000_03F0),
    (.rleave ⟨0, 0, 0, 0, 0, 0, 0, 0, 63, 0, 0⟩, 0x1E00_0000_0000_03F0),
    (.trapretReplay ⟨0, 0, 0, 0, 0, 0, 0, 0, 6, 0, 0⟩, 0x1F00_0000_0000_0060),
    (.trapretSkip ⟨0, 0, 0, 0, 0, 0, 0, 0, 63, 0, 1⟩, 0x1F00_0000_0000_03F1)] := by
  unfold denotes; decide

theorem test_words_20 : denotes
  [(.iadd ⟨0, 0, 1, 2, 3, 0, 4, 9, 63, 0, 7⟩, 0x2000_0204_0601_27F7),
    (.isub ⟨0, 0, 1, 2, 3, 0, 4, 9, 36, 0, 3⟩, 0x2100_0204_0601_2643),
    (.imul ⟨0, 0, 200, 255, 3, 0, 0, 0, 63, 0, 1⟩, 0x2201_91FE_0600_03F1),
    (.imulh ⟨0, 0, 1, 2, 3, 0, 0, 0, 63, 0, 2⟩, 0x2300_0204_0600_03F2),
    (.imad ⟨0, 0, 1, 2, 3, 4, 1, 15, 39, 1, 4⟩, 0x2400_0204_0608_7E7C),
    (.iaddi ⟨0, 0, 6, 7, 0, 0, 0, 1, 63, 0, 7⟩, 0x2500_0C0E_0000_07F7),
    (.imin ⟨0, 0, 1, 2, 3, 0, 0, 0, 63, 0, 2⟩, 0x2600_0204_0600_03F2),
    (.imax ⟨0, 0, 1, 2, 3, 0, 0, 0, 42, 0, 2⟩, 0x2700_0204_0600_02A2)] := by
  unfold denotes; decide

theorem test_words_28 : denotes
  [(.and ⟨0, 0, 10, 20, 30, 0, 3, 3, 63, 0, 0⟩, 0x2800_1428_3C00_CFF0),
    (.orr ⟨0, 0, 10, 20, 30, 0, 3, 3, 63, 0, 0⟩, 0x2900_1428_3C00_CFF0),
    (.xor ⟨0, 0, 10, 20, 30, 0, 3, 3, 45, 1, 0⟩, 0x2A00_1428_3C00_CED8),
    (.andn ⟨0, 0, 10, 20, 30, 0, 3, 3, 63, 0, 0⟩, 0x2B00_1428_3C00_CFF0),
    (.shl ⟨0, 0, 10, 20, 30, 0, 3, 3, 63, 0, 0⟩, 0x2C00_1428_3C00_CFF0),
    (.shr ⟨0, 0, 10, 20, 30, 0, 0, 0, 48, 0, 2⟩, 0x2D00_1428_3C00_0302),
    (.iadd64 ⟨0, 0, 2, 4, 6, 0, 0, 0, 63, 0, 3⟩, 0x2E00_0408_0C00_03F3),
    (.iaddi64 ⟨0, 0, 252, 4, 255, 255, 7, 15, 63, 0, 1⟩, 0x2F01_F809_FFFF_FFF1)] := by
  unfold denotes; decide

theorem test_words_30 : denotes
  [(.popc ⟨0, 0, 5, 0, 6, 0, 0, 0, 51, 1, 0⟩, 0x3000_0A00_0C00_0338),
    (.clz ⟨0, 0, 5, 0, 6, 0, 0, 0, 63, 0, 0⟩, 0x3100_0A00_0C00_03F0),
    (.brev ⟨0, 0, 5, 0, 6, 0, 0, 0, 63, 0, 0⟩, 0x3200_0A00_0C00_03F0),
    (.bfe ⟨0, 0, 1, 2, 3, 0, 0, 0, 54, 0, 2⟩, 0x3300_0204_0600_0362),
    (.bfi ⟨0, 0, 1, 2, 3, 4, 0, 0, 63, 0, 0⟩, 0x3400_0204_0608_03F0),
    (.iset ⟨0, 0, 1, 2, 3, 1, 0, 0, 63, 0, 5⟩, 0x3500_0204_0602_03F5),
    (.sel ⟨0, 0, 1, 2, 3, 4, 0, 0, 57, 1, 0⟩, 0x3600_0204_0608_0398),
    (.mov ⟨0, 0, 1, 0, 255, 0, 0, 0, 63, 0, 0⟩, 0x3700_0201_FE00_03F0)] := by
  unfold denotes; decide

theorem test_words_38 : denotes
  [(.movi ⟨0, 0, 17, 0, 36, 104, 5, 6, 63, 0, 5⟩, 0x3800_2200_48D1_5BF5),
    (.movhi ⟨0, 0, 18, 0, 0, 1, 1, 10, 60, 0, 0⟩, 0x3900_2400_0002_6BC0),
    (.movx ⟨0, 0, 1, 2, 0, 200, 0, 0, 63, 0, 0⟩, 0x3A00_0204_0190_03F0),
    (.movxw ⟨0, 0, 0, 2, 3, 100, 0, 0, 63, 0, 0⟩, 0x3B00_0004_06C8_03F0),
    (.bwin ⟨0, 0, 1, 2, 3, 4, 0, 0, 0, 1, 0⟩, 0x3C00_0204_0608_0008),
    (.lxch ⟨0, 0, 1, 2, 3, 5, 2, 7, 63, 0, 3⟩, 0x3D00_0204_060A_9FF3),
    (.lmask ⟨0, 0, 1, 0, 3, 0, 0, 0, 63, 0, 6⟩, 0x3E00_0200_0600_03F6),
    (.lcomb ⟨0, 0, 1, 0, 3, 5, 0, 0, 3, 0, 7⟩, 0x3F00_0200_060A_0037)] := by
  unfold denotes; decide

theorem test_words_40 : denotes
  [(.faddF32 ⟨0, 0, 11, 12, 13, 0, 4, 9, 63, 0, 2⟩, 0x4000_1618_1A01_27F2),
    (.fsubF32 ⟨0, 0, 11, 12, 13, 0, 4, 9, 63, 0, 2⟩, 0x4100_1618_1A01_27F2),
    (.fmulF32 ⟨0, 0, 11, 12, 13, 0, 4, 9, 6, 1, 2⟩, 0x4200_1618_1A01_246A),
    (.ffmaF32 ⟨0, 0, 11, 12, 13, 14, 1, 6, 63, 0, 7⟩, 0x4300_1618_1A1C_5BF7),
    (.fminF32 ⟨0, 0, 11, 12, 13, 0, 0, 0, 63, 0, 1⟩, 0x4400_1618_1A00_03F1),
    (.fmaxF32 ⟨0, 0, 11, 12, 13, 0, 0, 0, 9, 0, 1⟩, 0x4500_1618_1A00_0091),
    (.fsetF32 ⟨0, 0, 11, 12, 13, 0, 0, 0, 63, 0, 6⟩, 0x4600_1618_1A00_03F6),
    (.fclassF32 ⟨0, 0, 11, 0, 13, 0, 0, 0, 63, 0, 0⟩, 0x4700_1600_1A00_03F0)] := by
  unfold denotes; decide

theorem test_words_48 : denotes
  [(.faddF64 ⟨0, 0, 12, 14, 16, 0, 0, 0, 12, 1, 3⟩, 0x4800_181C_2000_00CB),
    (.fsubF64 ⟨0, 0, 12, 14, 16, 0, 0, 0, 63, 0, 3⟩, 0x4900_181C_2000_03F3),
    (.fmulF64 ⟨0, 0, 12, 14, 16, 0, 0, 0, 63, 0, 3⟩, 0x4A00_181C_2000_03F3),
    (.ffmaF64 ⟨0, 0, 12, 14, 16, 18, 0, 0, 15, 0, 1⟩, 0x4B00_181C_2024_00F1),
    (.fminF64 ⟨0, 0, 12, 14, 16, 0, 0, 0, 63, 0, 1⟩, 0x4C00_181C_2000_03F1),
    (.fmaxF64 ⟨0, 0, 12, 14, 16, 0, 0, 0, 63, 0, 1⟩, 0x4D00_181C_2000_03F1),
    (.fsetF64 ⟨0, 0, 13, 14, 16, 0, 0, 0, 18, 1, 7⟩, 0x4E00_1A1C_2000_012F),
    (.fclassF64 ⟨0, 0, 13, 0, 16, 0, 0, 0, 63, 0, 0⟩, 0x4F00_1A00_2000_03F0)] := by
  unfold denotes; decide

theorem test_words_50 : denotes
  [(.hadd2F16 ⟨0, 0, 21, 22, 23, 0, 0, 0, 63, 0, 1⟩, 0x5000_2A2C_2E00_03F1),
    (.hsub2F16 ⟨0, 0, 21, 22, 23, 0, 0, 0, 21, 0, 1⟩, 0x5100_2A2C_2E00_0151),
    (.hmul2F16 ⟨0, 0, 21, 22, 23, 0, 0, 0, 63, 0, 1⟩, 0x5200_2A2C_2E00_03F1),
    (.hfma2F16 ⟨0, 0, 21, 22, 23, 24, 0, 0, 63, 0, 3⟩, 0x5300_2A2C_2E30_03F3),
    (.hmin2F16 ⟨0, 0, 21, 22, 23, 0, 0, 0, 63, 0, 1⟩, 0x5400_2A2C_2E00_03F1),
    (.hmax2F16 ⟨0, 0, 21, 22, 23, 0, 0, 0, 63, 0, 1⟩, 0x5500_2A2C_2E00_03F1),
    (.hset2F16 ⟨0, 0, 21, 22, 23, 0, 0, 0, 63, 0, 2⟩, 0x5600_2A2C_2E00_03F2),
    (.frndF32 ⟨0, 0, 21, 0, 23, 0, 0, 0, 63, 0, 2⟩, 0x5700_2A00_2E00_03F2)] := by
  unfold denotes; decide

theorem test_words_58 : denotes
  [(.hadd2Bf16 ⟨0, 0, 21, 22, 23, 0, 0, 0, 63, 0, 1⟩, 0x5800_2A2C_2E00_03F1),
    (.hsub2Bf16 ⟨0, 0, 21, 22, 23, 0, 0, 0, 24, 1, 1⟩, 0x5900_2A2C_2E00_0189),
    (.hmul2Bf16 ⟨0, 0, 21, 22, 23, 0, 0, 0, 63, 0, 1⟩, 0x5A00_2A2C_2E00_03F1),
    (.hfma2Bf16 ⟨0, 0, 21, 22, 23, 24, 0, 0, 27, 0, 3⟩, 0x5B00_2A2C_2E30_01B3),
    (.hmin2Bf16 ⟨0, 0, 21, 22, 23, 0, 0, 0, 30, 1, 1⟩, 0x5C00_2A2C_2E00_01E9),
    (.hmax2Bf16 ⟨0, 0, 21, 22, 23, 0, 0, 0, 63, 0, 1⟩, 0x5D00_2A2C_2E00_03F1),
    (.hset2Bf16 ⟨0, 0, 21, 22, 23, 0, 0, 0, 33, 0, 2⟩, 0x5E00_2A2C_2E00_0212),
    (.frndF64 ⟨0, 0, 20, 0, 22, 0, 0, 0, 63, 0, 3⟩, 0x5F00_2800_2C00_03F3)] := by
  unfold denotes; decide

theorem test_words_60 : denotes
  [(.rcpF32 ⟨2, 3, 31, 32, 0, 0, 0, 0, 36, 1, 1⟩, 0x6046_3E40_0000_0249),
    (.rsqF32 ⟨2, 3, 31, 32, 0, 0, 0, 0, 63, 0, 1⟩, 0x6146_3E40_0000_03F1),
    (.sqrtF32 ⟨2, 3, 31, 32, 0, 0, 0, 0, 63, 0, 1⟩, 0x6246_3E40_0000_03F1),
    (.ex2F32 ⟨2, 3, 31, 32, 0, 0, 0, 0, 39, 0, 1⟩, 0x6346_3E40_0000_0271),
    (.lg2F32 ⟨2, 3, 31, 32, 0, 0, 0, 0, 63, 0, 1⟩, 0x6446_3E40_0000_03F1),
    (.sinF32 ⟨2, 3, 31, 32, 0, 0, 0, 0, 63, 0, 1⟩, 0x6546_3E40_0000_03F1),
    (.cosF32 ⟨2, 3, 31, 32, 0, 0, 0, 0, 42, 1, 1⟩, 0x6646_3E40_0000_02A9),
    (.tanhF32 ⟨2, 3, 31, 32, 0, 0, 0, 0, 63, 0, 1⟩, 0x6746_3E40_0000_03F1)] := by
  unfold denotes; decide

theorem test_words_68 : denotes
  [(.rcpF64 ⟨7, 15, 32, 34, 0, 0, 0, 0, 63, 0, 2⟩, 0x68FE_4044_0000_03F2),
    (.sqrtF64 ⟨7, 15, 32, 34, 0, 0, 0, 0, 45, 0, 2⟩, 0x69FE_4044_0000_02D2)] := by
  unfold denotes; decide

theorem test_words_70 : denotes
  [(.cvt ⟨0, 0, 4, 0, 6, 145, 0, 0, 63, 0, 0⟩, 0x7000_0800_0D22_03F0),
    (.cvti ⟨0, 0, 4, 0, 5, 18, 0, 0, 63, 0, 1⟩, 0x7100_0800_0A24_03F1),
    (.cvtf ⟨0, 0, 4, 0, 5, 73, 0, 0, 48, 1, 2⟩, 0x7200_0800_0A92_030A),
    (.cvtn ⟨0, 0, 4, 8, 5, 3, 4, 5, 63, 0, 6⟩, 0x7300_0810_0A07_17F6),
    (.cvtw ⟨0, 0, 8, 4, 5, 7, 0, 0, 63, 0, 1⟩, 0x7400_1008_0A0E_03F1),
    (.cbdec ⟨0, 1, 16, 4, 5, 6, 0, 0, 51, 0, 2⟩, 0x7502_2008_0A0C_0332),
    (.bscale ⟨0, 0, 4, 0, 5, 47, 0, 0, 63, 0, 0⟩, 0x7600_0800_0A5E_03F0)] := by
  unfold denotes; decide

theorem test_words_80 : denotes
  [(.ld ⟨1, 4, 8, 10, 252, 6, 0, 0, 63, 0, 2⟩, 0x8028_1015_F80C_03F2),
    (.st ⟨2, 0, 127, 10, 12, 5, 0, 0, 54, 1, 1⟩, 0x8140_FE14_180A_0369),
    (.spld ⟨0, 2, 9, 11, 3, 1, 0, 0, 63, 0, 0⟩, 0x8204_1216_0602_03F0),
    (.spst ⟨0, 0, 128, 11, 12, 6, 0, 0, 63, 0, 0⟩, 0x8301_0016_180C_03F0),
    (.ldp ⟨0, 2, 9, 11, 3, 4, 0, 0, 57, 0, 0⟩, 0x8404_1216_0608_0390),
    (.atom ⟨0, 1, 8, 10, 12, 13, 0, 0, 63, 0, 1⟩, 0x8502_1014_181A_03F1),
    (.red ⟨0, 0, 0, 10, 13, 11, 0, 0, 63, 0, 0⟩, 0x8600_0014_1A16_03F0),
    (.cas ⟨0, 1, 8, 10, 12, 14, 0, 0, 60, 1, 1⟩, 0x8702_1014_181C_03C9)] := by
  unfold denotes; decide

theorem test_words_88 : denotes
  [(.atoms ⟨0, 1, 9, 11, 13, 4, 0, 0, 63, 0, 0⟩, 0x8802_1216_1A08_03F0),
    (.cass ⟨0, 1, 9, 11, 13, 15, 0, 0, 63, 0, 0⟩, 0x8902_1216_1A1E_03F0),
    (.fence ⟨0, 0, 0, 0, 0, 9, 0, 0, 0, 0, 2⟩, 0x8A00_0000_0012_0002),
    (.rel ⟨0, 0, 0, 10, 12, 0, 0, 0, 63, 0, 7⟩, 0x8B00_0014_1800_03F7),
    (.acq ⟨5, 2, 14, 10, 0, 0, 0, 0, 63, 0, 3⟩, 0x8CA4_1C14_0000_03F3),
    (.sigclr ⟨0, 0, 0, 10, 0, 0, 0, 0, 3, 1, 0⟩, 0x8D00_0014_0000_0038),
    (.marmArm ⟨0, 0, 3, 10, 5, 14, 0, 0, 63, 0, 0⟩, 0x8E00_0614_0A1C_03F0),
    (.marmArmB64 ⟨0, 0, 3, 10, 6, 7, 0, 0, 6, 0, 1⟩, 0x8E00_0614_0C0E_0061),
    (.marmClr ⟨0, 0, 0, 0, 0, 2, 0, 0, 63, 0, 3⟩, 0x8E00_0000_0004_03F3),
    (.marmTest ⟨0, 0, 3, 0, 0, 0, 0, 0, 63, 0, 2⟩, 0x8E00_0600_0000_03F2),
    (.pref ⟨0, 0, 0, 10, 0, 0, 0, 0, 9, 1, 1⟩, 0x8F00_0014_0000_0099)] := by
  unfold denotes; decide

theorem test_words_90 : denotes
  [(.cctlIinv ⟨0, 0, 0, 10, 0, 3, 0, 0, 63, 0, 3⟩, 0x9000_0014_0006_03F3),
    (.cctlInv ⟨0, 0, 0, 10, 0, 1, 0, 0, 63, 0, 1⟩, 0x9000_0014_0002_03F1),
    (.cctlInvall ⟨0, 0, 0, 0, 0, 0, 0, 0, 12, 0, 2⟩, 0x9000_0000_0000_00C2),
    (.cctlWb ⟨0, 0, 0, 10, 0, 15, 0, 0, 63, 0, 0⟩, 0x9000_0014_001E_03F0),
    (.pzero ⟨0, 0, 0, 10, 0, 0, 0, 0, 63, 0, 0⟩, 0x9100_0014_0000_03F0)] := by
  unfold denotes; decide

theorem test_words_a0 : denotes
  [(.mma ⟨2, 1, 65, 33, 49, 0, 0, 0, 63, 0, 0⟩, 0xA042_8242_6200_03F0),
    (.mmas ⟨1, 2, 66, 41, 48, 6, 0, 0, 15, 1, 0⟩, 0xA124_8452_600C_00F8),
    (.mmacb ⟨2, 1, 65, 33, 49, 0, 0, 0, 63, 0, 0⟩, 0xA242_8242_6200_03F0),
    (.mmad ⟨3, 1, 83, 32, 40, 0, 0, 0, 63, 0, 0⟩, 0xA362_A640_5000_03F0),
    (.mbmap ⟨4, 1, 6, 35, 0, 0, 0, 0, 18, 0, 0⟩, 0xA482_0C46_0000_0120),
    (.mzero ⟨5, 1, 64, 0, 0, 0, 0, 0, 63, 0, 0⟩, 0xA5A2_8000_0000_03F0),
    (.mscale ⟨6, 1, 0, 12, 0, 0, 0, 0, 63, 0, 1⟩, 0xA6C2_0018_0000_03F1),
    (.mldf ⟨3, 1, 48, 5, 0, 0, 0, 0, 21, 1, 1⟩, 0xA762_600A_0000_0159)] := by
  unfold denotes; decide

theorem test_words_a8 : denotes
  [(.mstf ⟨3, 0, 0, 6, 64, 0, 0, 0, 63, 0, 2⟩, 0xA860_000C_8000_03F2)] := by
  unfold denotes; decide

theorem test_words_b0 : denotes
  [(.amov ⟨0, 0, 3, 9, 0, 0, 0, 0, 63, 0, 0⟩, 0xB000_0612_0000_03F0),
    (.anew ⟨0, 0, 3, 10, 11, 0, 0, 0, 63, 0, 0⟩, 0xB100_0614_1600_03F0),
    (.ald ⟨0, 2, 3, 10, 0, 0, 0, 0, 63, 0, 0⟩, 0xB204_0614_0000_03F0),
    (.ast ⟨0, 0, 0, 10, 15, 0, 0, 0, 27, 1, 0⟩, 0xB300_0014_1E00_01B8),
    (.aadd ⟨0, 0, 3, 4, 5, 0, 0, 0, 63, 0, 0⟩, 0xB400_0608_0A00_03F0),
    (.asub ⟨0, 0, 3, 4, 5, 0, 0, 0, 63, 0, 0⟩, 0xB500_0608_0A00_03F0),
    (.aneg ⟨0, 0, 3, 9, 0, 0, 0, 0, 24, 0, 0⟩, 0xB600_0612_0000_0180),
    (.ascl ⟨0, 0, 3, 4, 6, 0, 0, 0, 30, 0, 0⟩, 0xB700_0608_0C00_01E0)] := by
  unfold denotes; decide

theorem test_words_b8 : denotes
  [(.amul ⟨0, 1, 3, 1, 2, 0, 0, 0, 63, 0, 0⟩, 0xB802_0602_0400_03F0),
    (.afma ⟨0, 1, 3, 1, 2, 4, 0, 0, 63, 0, 0⟩, 0xB902_0602_0408_03F0),
    (.arcp ⟨0, 3, 4, 1, 0, 0, 0, 0, 33, 1, 0⟩, 0xBA06_0802_0000_0218),
    (.asqrt ⟨0, 3, 4, 1, 0, 0, 0, 0, 63, 0, 0⟩, 0xBB06_0802_0000_03F0),
    (.afold ⟨0, 1, 7, 3, 0, 5, 0, 0, 63, 0, 1⟩, 0xBC02_0E06_000A_03F1),
    (.acen ⟨0, 0, 10, 3, 0, 0, 0, 0, 36, 0, 0⟩, 0xBD00_1406_0000_0240),
    (.arad ⟨0, 0, 10, 3, 0, 0, 0, 0, 63, 0, 2⟩, 0xBE00_1406_0000_03F2),
    (.aterm ⟨0, 0, 12, 7, 0, 6, 0, 0, 63, 0, 0⟩, 0xBF00_180E_000C_03F0)] := by
  unfold denotes; decide

theorem test_words_c0 : denotes
  [(.cpyl ⟨0, 0, 35, 40, 0, 0, 0, 0, 42, 0, 2⟩, 0xC000_4650_0000_02A2),
    (.cpys ⟨0, 0, 63, 40, 0, 0, 0, 0, 63, 0, 1⟩, 0xC100_7E50_0000_03F1),
    (.cpyg ⟨0, 0, 0, 48, 20, 0, 0, 0, 63, 0, 3⟩, 0xC200_0060_2800_03F3),
    (.cpyr ⟨0, 0, 0, 56, 0, 0, 0, 0, 45, 1, 0⟩, 0xC300_0070_0000_02D8),
    (.cpyp ⟨0, 0, 127, 40, 0, 0, 0, 0, 63, 0, 2⟩, 0xC400_FE50_0000_03F2),
    (.collAllgath ⟨0, 0, 5, 40, 0, 1, 0, 0, 48, 0, 1⟩, 0xC500_0A50_0002_0301),
    (.collAllred ⟨0, 0, 5, 40, 0, 0, 0, 0, 63, 0, 1⟩, 0xC500_0A50_0000_03F1),
    (.collRecv ⟨0, 0, 5, 40, 0, 4, 0, 0, 51, 1, 1⟩, 0xC500_0A50_0008_0339),
    (.collRedscat ⟨0, 0, 5, 40, 0, 2, 0, 0, 63, 0, 1⟩, 0xC500_0A50_0004_03F1),
    (.collSend ⟨0, 0, 5, 40, 0, 3, 0, 0, 63, 0, 1⟩, 0xC500_0A50_0006_03F1)] := by
  unfold denotes; decide

theorem test_words_e0 : denotes
  [(.asmk ⟨0, 4, 20, 4, 0, 0, 0, 0, 63, 0, 1⟩, 0xE008_2808_0000_03F1),
    (.asdrop ⟨0, 0, 0, 20, 0, 0, 0, 0, 63, 0, 0⟩, 0xE100_0028_0000_03F0),
    (.asqry ⟨0, 1, 24, 20, 0, 0, 0, 0, 54, 0, 0⟩, 0xE202_3028_0000_0360),
    (.launch ⟨0, 1, 9, 20, 22, 0, 0, 0, 63, 0, 1⟩, 0xE302_1228_2C00_03F1),
    (.ckpt ⟨0, 0, 5, 0, 0, 0, 0, 0, 63, 0, 0⟩, 0xE400_0A00_0000_03F0),
    (.adeckAdd ⟨0, 1, 8, 0, 3, 0, 0, 0, 63, 0, 1⟩, 0xE502_1000_0600_03F1),
    (.adeckRead ⟨0, 1, 8, 0, 3, 0, 0, 0, 39, 1, 0⟩, 0xE502_1000_0600_0278),
    (.adeckSet ⟨0, 1, 8, 0, 3, 0, 0, 0, 63, 0, 2⟩, 0xE502_1000_0600_03F2)] := by
  unfold denotes; decide

/-- The words that the spec's examples write out. -/
theorem test_words_of_the_examples : denotes
  [(.ffmaF32 ⟨0, 0, 5, 1, 2, 3, 1, 1, 63, 0, 4⟩, 0x4300_0A02_0406_47F4), (.faddF32 ⟨0, 0, 6, 5, 4, 0, 0, 0, 7, 1, 1⟩, 0x4000_0C0A_0800_0079),
    (.jenrAct ⟨0, 0, 1, 0, 0, 0, 0, 0, 63, 0, 1⟩, 0x0800_0200_0000_03F1), (.mldf ⟨1, 2, 32, 4, 0, 0, 0, 0, 63, 0, 1⟩, 0xA724_4008_0000_03F1),
    (.sbwait ⟨0, 0, 0, 0, 0, 1, 0, 0, 63, 0, 0⟩, 0x0B00_0000_0002_03F0), (.mma ⟨2, 1, 0x41, 0x21, 0x31, 0, 0, 0, 63, 0, 0⟩, 0xA042_8242_6200_03F0),
    (.mstf ⟨3, 0, 0, 6, 64, 0, 0, 0, 63, 0, 2⟩, 0xA860_000C_8000_03F2), (.cpyl ⟨0, 0, 35, 40, 0, 0, 0, 0, 63, 0, 2⟩, 0xC000_4650_0000_03F2),
    (.cpys ⟨0, 0, 5, 40, 0, 0, 0, 0, 63, 0, 1⟩, 0xC100_0A50_0000_03F1), (.cpyl ⟨0, 0, 0, 40, 20, 0, 0, 0, 63, 0, 3⟩, 0xC000_0050_2800_03F3),
    (.amul ⟨0, 0, 3, 1, 2, 0, 0, 0, 63, 0, 0⟩, 0xB800_0602_0400_03F0), (.arcp ⟨0, 0, 4, 1, 0, 0, 0, 0, 63, 0, 0⟩, 0xBA00_0802_0000_03F0)] := by
  unfold denotes; decide

theorem test_words_of_the_examples_2 : denotes
  [(.asqrt ⟨0, 0, 6, 5, 0, 0, 0, 0, 63, 0, 0⟩, 0xBB00_0C0A_0000_03F0), (.afold ⟨0, 0, 7, 3, 0, 1, 0, 0, 63, 0, 1⟩, 0xBC00_0E06_0002_03F1),
    (.arad ⟨0, 0, 10, 3, 0, 0, 0, 0, 63, 0, 2⟩, 0xBE00_1406_0000_03F2), (.aterm ⟨0, 0, 12, 7, 0, 1, 0, 0, 63, 0, 0⟩, 0xBF00_180E_0002_03F0),
    (.asmk ⟨0, 0, 20, 4, 0, 0, 0, 0, 63, 0, 1⟩, 0xE000_2808_0000_03F1), (.asdrop ⟨0, 0, 0, 20, 0, 0, 0, 0, 63, 0, 0⟩, 0xE100_0028_0000_03F0),
    (.clauseHeader ⟨0, 0, 0, 2, 0, 1, 1⟩, 0xCA00_0002_0001_0001),
    (.asqry ⟨0, 0, 24, 20, 0, 0, 0, 0, 63, 0, 0⟩, 0xE200_3028_0000_03F0), (.ckpt ⟨0, 0, 5, 0, 0, 0, 0, 0, 63, 0, 0⟩, 0xE400_0A00_0000_03F0)] := by
  unfold denotes; decide

/-! ### Ill-formed instructions -/

/-- Each check of an instruction's fields refuses one: a kind of each field (an affine register of 16, an odd pair, a pair
beyond v254, a bounded field, a field that is to be zero), MOD, PERM and PPARAM, LOOK without L, a slot that is required,
and a sense without predicate. -/
theorem test_ill_formed : ∀ i ∈ ([.aadd ⟨0, 0, 16, 1, 2, 0, 0, 0, 63, 0, 0⟩, .brax ⟨0, 0, 0, 21, 0, 0, 0, 0, 63, 0, 0⟩,
    .iadd64 ⟨0, 0, 2, 4, 254, 0, 0, 0, 63, 0, 0⟩, .sbwait ⟨0, 0, 0, 0, 0, 128, 0, 0, 63, 0, 0⟩, .nop ⟨0, 0, 1, 0, 0, 0, 0, 0, 63, 0, 0⟩,
    .iadd ⟨0, 0, 1, 2, 3, 0, 0, 0, 63, 0, 2⟩, .iadd ⟨0, 0, 1, 2, 3, 0, 0, 1, 63, 0, 0⟩, .iadd ⟨0, 0, 1, 2, 3, 0, 3, 6, 63, 0, 0⟩,
    .iadd ⟨0, 0, 1, 2, 3, 0, 5, 0, 63, 0, 0⟩, .iadd64 ⟨0, 0, 2, 4, 6, 0, 1, 0, 63, 0, 0⟩,
    .iadd ⟨0, 1, 1, 2, 3, 0, 0, 0, 63, 0, 0⟩, .mma ⟨0, 0, 0x41, 0x21, 0x31, 0, 0, 0, 63, 0, 0⟩, .iadd ⟨0, 0, 1, 2, 3, 0, 0, 0, 63, 1, 0⟩]
    : List Instr), ¬ WellFormed i := by
  decide

/-- The rule of a header and that of an opcode: a clause of ENGINE 7, a class to wait for without CWEN, a row of the map. -/
theorem test_ill_formed_words : ¬ WellFormed (.clauseHeader ⟨0, 0, 0, 0, 0, 7, 1⟩) ∧ ¬ WellFormed (.clauseHeader ⟨0, 1, 0, 0, 0, 0, 1⟩)
    ∧ ¬ WellFormed (.unassignedOpcode 0x20 ⟨0, 0, 0, 0, 0, 0, 0, 0, 63, 0, 0⟩)
    ∧ (decodeWord 0x2000_0204_0600_03F2).toOption = none ∧ (decodeWord 0xCA00_0000_0007_0001).toOption = none := by
  decide

/-! ### Small states -/

/-- The word of an instruction. -/
def wordOf (i : Instr) : DWord := (encode i).getD 0

/-- A state in which the lanes of `m` of group 1 issue the instruction, at address 8 of a clause that begins at 0; `F`
says what else holds. -/
def here (m : Mask) (F : State → State) (i : Instr) : State :=
  { F (State.reset.withFetchWord 64 (wordOf i).toNat) with
    cur := some ⟨1, m, 8, 0, fetchHeader (wordOf i), wordOf i⟩ }

/-- A change of group 1, of its launch's record, of its team, of CU 0 and of its context. -/
def withGroup (F : Group → Group) (s : State) : State := s.modGroup 1 F
def withInfo (F : Record → Record) (s : State) : State := s.modLaunch 1 fun l => { l with info := F l.info }
def withTeam (F : Team → Team) (s : State) : State := s.modTeam 1 F
def withCu (F : Cu → Cu) (s : State) : State := s.modCu 0 F
def withContext (F : Context → Context) (s : State) : State := s.modContext 0 F

/-- The same value in a register of every lane, and a pair. -/
def put (r : Nat) (x : Word) (g : Group) : Group := g.writeRegs ((List.range 32).map fun l => ⟨r, l, x⟩)
def put64 (r : Nat) (x : DWord) (g : Group) : Group := put (r + 1) (x.extractLsb' 32 32) (put r (x.extractLsb' 0 32) g)

/-- A page of data at 0x1000 for the context, in frame 0x200, in both data structures. -/
def withPage (s : State) : State :=
  let t : Tlb := ⟨0, 0, false, 0x1000, 12, 0x200000, 0x200000, true, true, false, 0, false⟩
  withCu (fun k => { k with dtlb := [t], ctlb := [t] }) s

/-- What a statement about an instruction supposes: the instruction, its fields, what it asks of its slot, how it acts and
what it comes to; and a state that is to meet it. -/
structure Case where
  i   : Instr
  f   : Fields
  gd  : State → Group → Fields → Guard
  how : Acting
  own : Ictx → State → Option State
  s   : State

/-- The instruction issues: the hypothesis of every statement about one. -/
def issuing (gd : State → Group → Fields → Guard) (i : Instr) (f : Fields) (s : State) : Bool :=
  match s.cur with
  | none => false
  | some cur =>
    match s.group? cur.group with
    | none => false
    | some g =>
      encode i == some cur.word && i.fields? == some f && !s.stalled g (fieldOf cur.word 56 8) f cur.lanes
        && (s.checks g cur i f (guardIn gd s g f)).isNone

theorem issues_of {gd : State → Group → Fields → Guard} {i : Instr} {f : Fields} {s : State} (h : issuing gd i f s = true) :
    ∃ cur g, Issues s cur g i f (guardIn gd s g f) := by
  unfold issuing at h
  split at h
  · cases h
  · rename_i cur hc
    split at h
    · cases h
    · rename_i g hg
      simp only [Bool.and_eq_true, beq_iff_eq, Bool.not_eq_true', Option.isNone_iff_eq_none] at h
      exact ⟨cur, g, hc, hg, h.1.1.1, h.1.1.2, h.1.2, h.2⟩

/-- The instruction issues, and its lanes stay in their region: the hypotheses of `Writes`. -/
def staying (gd : State → Group → Fields → Guard) (i : Instr) (f : Fields) (s : State) : Bool :=
  issuing gd i f s &&
    match s.cur with
    | none => false
    | some cur =>
      match s.group? cur.group with
      | none => false
      | some g => (s.escape (moved g cur s.now) cur.addr cur.lanes).isNone

theorem stays_of {gd : State → Group → Fields → Guard} {i : Instr} {f : Fields} {s : State} (h : staying gd i f s = true) :
    ∃ cur g, Issues s cur g i f (guardIn gd s g f) ∧ Stays s g cur := by
  unfold staying at h
  obtain ⟨cur, g, hi⟩ := issues_of (Bool.and_eq_true _ _ ▸ h).1
  have h2 := (Bool.and_eq_true _ _ ▸ h).2
  simp only [hi.chosen, hi.group, Option.isNone_iff_eq_none] at h2
  exact ⟨cur, g, hi, .inr h2⟩

/-- A case's hypotheses: those of `Completes`. -/
def Case.meets (x : Case) : Prop :=
  ∃ cur g t, Issues x.s cur g x.i x.f (guardIn x.gd x.s g x.f)
    ∧ acting x.how x.own cur x.f (actions g.fwd x.how cur.lanes) { x.s with cur := none } = some t

/-- The same, evaluated. -/
def Case.met (x : Case) : Bool :=
  issuing x.gd x.i x.f x.s &&
    match x.s.cur with
    | none => false
    | some cur =>
      match x.s.group? cur.group with
      | none => false
      | some g => (acting x.how x.own cur x.f (actions g.fwd x.how cur.lanes) { x.s with cur := none }).isSome

theorem Case.meets_of {x : Case} (h : x.met = true) : x.meets := by
  unfold Case.met at h
  obtain ⟨cur, g, hi⟩ := issues_of (Bool.and_eq_true _ _ ▸ h).1
  have h2 := (Bool.and_eq_true _ _ ▸ h).2
  simp only [hi.chosen, hi.group] at h2
  obtain ⟨t, ht⟩ := Option.isSome_iff_exists.1 h2
  exact ⟨cur, g, t, hi, ht⟩

theorem meets_all {xs : List Case} (h : (xs.all Case.met) = true) : ∀ x ∈ xs, x.meets :=
  fun x hx => Case.meets_of (List.all_eq_true.1 h x hx)

/-- Fields by name, all else as an unconditional instruction has it. -/
def fl (dst a b c : Nat) (mod : Nat := 0) (pred : Nat := 63) (sb : Nat := 0) : Fields :=
  ⟨BitVec.ofNat 3 sb, 0, BitVec.ofNat 8 dst, BitVec.ofNat 8 a, BitVec.ofNat 8 b, BitVec.ofNat 8 c, 0, 0, BitVec.ofNat 6 pred, 0,
    BitVec.ofNat 3 mod⟩

/-- Instructions of fixed latency that ask nothing more than to issue. -/
def allStay (xs : List ((Fields → Instr) × Fields)) : Bool :=
  xs.all fun p => staying unguarded (p.1 p.2) p.2 (here Mask.all id (p.1 p.2))

theorem stay_all {xs : List ((Fields → Instr) × Fields)} (h : allStay xs = true) :
    ∀ p ∈ xs, ∃ s cur g, Issues s cur g (p.1 p.2) p.2 (guardIn unguarded s g p.2) ∧ Stays s g cur := fun p hp =>
  let ⟨cur, g, hc⟩ := stays_of (List.all_eq_true.1 h p hp)
  ⟨_, cur, g, hc⟩

/-- A case in which the first and the last lane issue, or those of `m`. -/
def one (i : Fields → Instr) (f : Fields) (how : Acting) (own : Ictx → State → Option State) (F : State → State := id)
    (m : Mask := 0x80000001) (gd : State → Group → Fields → Guard := unguarded) : Case :=
  ⟨i f, f, gd, how, own, here m F (i f)⟩

/-! ### Instructions at issue -/

/-- IntegerArithmetic, BitsAndConstants, and WindowsAndLanes of IndexesWindowsAndLanes: every instruction issues. -/
theorem witness_integer_rows : ∀ p ∈
    [(Instr.iadd, fl 1 2 3 0 3), (Instr.isub, fl 1 2 3 0), (Instr.imul, fl 1 2 255 0 1), (Instr.imad, fl 1 2 3 4),
      (Instr.iaddi, fl 6 7 0 0 4), (Instr.iadd64, fl 252 4 6 0 3), (Instr.iaddi64, fl 2 4 0 0 4), (Instr.imulh, fl 1 2 3 0 2),
      (Instr.imin, fl 1 2 3 0 2), (Instr.imax, fl 1 2 3 0), (Instr.shl, fl 1 2 3 0), (Instr.shr, fl 1 2 3 0 2),
      (Instr.bfe, fl 1 2 3 0 2), (Instr.bfi, fl 1 2 3 4), (Instr.and, fl 1 2 3 0), (Instr.orr, fl 1 2 3 0),
      (Instr.xor, fl 1 2 3 0), (Instr.andn, fl 1 2 3 0), (Instr.popc, fl 1 0 3 0), (Instr.clz, fl 1 0 3 0),
      (Instr.brev, fl 1 0 3 0), (Instr.sel, fl 1 2 3 4), (Instr.mov, fl 255 0 3 0), (Instr.iset, fl 1 2 3 1 5),
      (Instr.movi, fl 1 0 0 0 1), (Instr.movhi, fl 1 0 0 0), (Instr.bwin, fl 1 2 3 4), (Instr.lxch, fl 1 2 3 5 3),
      (Instr.lmask, fl 1 0 3 0 6), (Instr.lcomb, fl 1 0 3 5 7)],
    ∃ s cur g, Issues s cur g (p.1 p.2) p.2 (guardIn unguarded s g p.2) ∧ Stays s g cur :=
  stay_all (by decide +kernel)

/-- FloatInstructions: every instruction issues. -/
theorem witness_float_rows : ∀ p ∈
    [(Instr.faddF32, fl 1 2 3 0), (Instr.fsubF32, fl 1 2 3 0 1), (Instr.fmulF32, fl 1 2 3 0 2), (Instr.ffmaF32, fl 1 2 3 4 3),
      (Instr.faddF64, fl 2 4 6 0), (Instr.fsubF64, fl 2 4 6 0), (Instr.fmulF64, fl 2 4 6 0), (Instr.ffmaF64, fl 2 4 6 8),
      (Instr.hadd2F16, fl 1 2 3 0), (Instr.hsub2F16, fl 1 2 3 0), (Instr.hmul2F16, fl 1 2 3 0), (Instr.hfma2F16, fl 1 2 3 4),
      (Instr.hadd2Bf16, fl 1 2 3 0), (Instr.hsub2Bf16, fl 1 2 3 0), (Instr.hmul2Bf16, fl 1 2 3 0),
      (Instr.hfma2Bf16, fl 1 2 3 4), (Instr.frndF32, fl 1 0 3 0 2), (Instr.frndF64, fl 2 0 4 0 3),
      (Instr.fminF32, fl 1 2 3 0), (Instr.fmaxF32, fl 1 2 3 0 1), (Instr.fminF64, fl 2 4 6 0), (Instr.fmaxF64, fl 2 4 6 0 1),
      (Instr.hmin2F16, fl 1 2 3 0), (Instr.hmax2F16, fl 1 2 3 0), (Instr.hmin2Bf16, fl 1 2 3 0), (Instr.hmax2Bf16, fl 1 2 3 0),
      (Instr.fsetF32, fl 1 2 3 0 7), (Instr.fsetF64, fl 1 2 4 0 6), (Instr.hset2F16, fl 1 2 3 0 6), (Instr.hset2Bf16, fl 1 2 3 0 7),
      (Instr.fclassF32, fl 1 0 3 0), (Instr.fclassF64, fl 1 0 4 0)],
    ∃ s cur g, Issues s cur g (p.1 p.2) p.2 (guardIn unguarded s g p.2) ∧ Stays s g cur :=
  stay_all (by decide +kernel)

/-- ConversionsAndFunctions, CVT, CVTI and CVTF, and AffineFamily, ACEN, ARAD and ATERM: every instruction issues, its type
codes as the clause supposes. -/
theorem witness_conversions : ∀ p ∈
    [(Instr.cvt, fl 2 0 3 0x19), (Instr.cvt, fl 2 0 4 0x92), (Instr.cvti, fl 2 0 3 0x27), (Instr.cvti, fl 2 0 4 0x92),
      (Instr.cvtf, fl 2 0 3 0x01), (Instr.cvtf, fl 2 0 4 0x29), (Instr.acen, fl 2 1 0 0), (Instr.arad, fl 2 1 0 0 2),
      (Instr.aterm, fl 2 1 0 6)],
    ∃ s cur g, Issues s cur g (p.1 p.2) p.2 (guardIn unguarded s g p.2) ∧ Stays s g cur :=
  stay_all (by decide +kernel)

/-- ControlFlow: each instruction issues and has its effect. -/
theorem witness_ControlFlow : ∀ x ∈
    [one .bra (fl 0 0 0 0) .whole (fun c s => some (jump c (fun _ => near c) s)),
      one .brax (fl 0 20 0 0) .whole (fun c s => some (jump c c.a64 s)),
      one .call (fl 30 0 0 0) .whole (fun c s => some (jump c (fun _ => near c) (link c s))),
      one .callx (fl 30 20 0 0) .whole (fun c s => some (jump c c.a64 (link c s))),
      one .ret (fl 0 20 0 0) .whole (fun c s => some (jump c c.a64 s)),
      one .nop (fl 0 0 0 0) .whole (fun _ s => some s),
      one .yield (fl 0 0 0 0) .grouped (fun c s => some (s.modGroup c.g.id fun g => { g with lastIssue := s.now })),
      one .exit (fl 0 0 0 0) .whole (fun c s =>
        if c.parts = 0 then some s
        else
          (settledAs c (fun g => g.modLanes c.parts fun l =>
              { l with pos := ⟨0xFFFFFFFFFFFFFFFF, 0, 0, .fall⟩, park := .running }) s).map fun t =>
            if c.g.fwd then t.recheckTeam c.g.team else t)], x.meets :=
  meets_all (by decide +kernel)

/-- JoinInstructions. -/
theorem witness_JoinInstructions :
    let own (F : Ictx → Group → Group) (c : Ictx) (s : State) : Option State :=
      if c.g.handler then none else if c.parts = 0 then some s else settledAs c (F c) s
    ∀ x ∈
      [one .jenr (fl 3 7 0 0) .halved (own fun c => declared (joinAt c) (declaredMask c)),
        one .jenrAct (fl 15 0 0 0 1) .halved (own fun c => declared (joinAt c) c.parts),
        one .jsign (fl 3 0 0 0) .halved (own fun c => signed (joinAt c) c.parts),
        one .jwait (fl 3 0 0 0) .halved (own fun c g => parkedAt c (joinAt c) (signed (joinAt c) c.parts g))], x.meets := by
  intro own
  exact meets_all (by decide +kernel)

/-- MemoryWaits: words that differ already, and a timeout that has fallen due. -/
theorem witness_MemoryWaits : ∀ x ∈
    [one .mwait (fl 5 20 30 11) .grouped (fun c s => waitOver false s.clock c s)
        (fun s => withPage (withGroup (fun g => put 30 7 (put64 20 0x1000 g)) s))], x.meets :=
  meets_all (by decide +kernel)

/-- SpecialRegisters: the first and the last, one of 64 bits, and SETSR in handler mode. -/
theorem witness_SpecialRegisters :
    let get : Fields → Ictx → State → Option State := fun f c s =>
      some (s.writeResults c
        (if f.srcc.toNat = 11 ∨ f.srcc.toNat = 15 ∨ f.srcc.toNat = 16 ∨ f.srcc.toNat = 17 then
          c.each64 fun l => srValue s c.g l f.srcc.toNat
        else c.each fun l => (srValue s c.g l f.srcc.toNat).truncate 32))
    ∀ x ∈
      [one .getsr (fl 1 0 0 0) .whole (get (fl 1 0 0 0)), one .getsr (fl 1 0 0 20) .whole (get (fl 1 0 0 20)),
        one .getsr (fl 2 0 0 17) .whole (get (fl 2 0 0 17)),
        one .setsr (fl 0 14 0 17) .whole (fun c s =>
          if c.g.handler then
            some (s.modGroup c.g.id fun g =>
              { g with lanes := (List.range 32).map fun l =>
                  if c.parts.has l then { g.lane l with save := ⟨c.a64 l, 0, 0, .transfer c.addr⟩, setsr := true }
                  else g.lane l })
          else none) (withGroup fun g => { g with handler := true })], x.meets := by
  intro get
  exact meets_all (by decide +kernel)

/-- HandlerReturn: TRAPRET.replay and TRAPRET.skip in handler mode, and one whose revocation waits for it. -/
theorem witness_TrapReturn : ∀ x ∈
    [one .trapretReplay (fl 0 0 0 0) .whole (trapReturn false) (withGroup fun g => { g with handler := true }),
      one .trapretSkip (fl 0 0 0 0 1) .whole (trapReturn true) (withGroup fun g =>
        { g with handler := true, lanes := g.lanes.map fun l => { l with entered := true } }),
      one .trapretReplay (fl 0 0 0 0) .whole (trapReturn false) (withGroup fun g =>
        { g with handler := true, redirect := some ⟨0x40, 9, 5, true⟩ })], x.meets :=
  meets_all (by decide +kernel)

/-- HandlerReturn, ReplayRestores: a group as it starts. -/
theorem witness_ReplayRestores :
    let g := Group.fresh 1 1 0 0 255 false 0 0 (List.replicate 32 ⟨Pos.fall 0, .running, Pos.fall 0, false, false⟩)
    g.handler = false ∧ g.lanes.length = 32 ∧ (0x40 : DWord) ≠ exitedPc ∧ ∀ l, l < 32 → (g.lane l).entered = false := by
  decide +kernel

/-- ConversionsAndFunctions: the functions, whose results land later. -/
theorem witness_SpecialFunctions : ∀ x ∈
    [one .rcpF32 (fl 1 2 0 0) .whole (pending [1] fun c => c.each fun l => BitVec.ofNat 32 (f32.rcp 0 (c.a l).toNat)),
      one .rsqF32 (fl 1 2 0 0) .whole (pending [1] fun c => c.each fun l => BitVec.ofNat 32 (f32.rsq 0 (c.a l).toNat)),
      one .sqrtF32 (fl 1 2 0 0) .whole (pending [1] fun c => c.each fun l => BitVec.ofNat 32 (f32.sqrt 0 (c.a l).toNat)),
      one .ex2F32 (fl 1 2 0 0) .whole (pending [1] fun c => c.each fun l => BitVec.ofNat 32 (ex2 0 (c.a l).toNat)),
      one .lg2F32 (fl 1 2 0 0) .whole (pending [1] fun c => c.each fun l => BitVec.ofNat 32 (lg2 0 (c.a l).toNat)),
      one .sinF32 (fl 1 2 0 0) .whole (pending [1] fun c => c.each fun l => BitVec.ofNat 32 (sin2pi 0 (c.a l).toNat)),
      one .cosF32 (fl 1 2 0 0) .whole (pending [1] fun c => c.each fun l => BitVec.ofNat 32 (cos2pi 0 (c.a l).toNat)),
      one .tanhF32 (fl 1 2 0 0) .whole (pending [1] fun c => c.each fun l => BitVec.ofNat 32 (tanh32 0 (c.a l).toNat)),
      one .rcpF64 (fl 2 4 0 0) .whole (pending [2, 3] fun c => c.each64 fun l => BitVec.ofNat 64 (f64.rcp 0 (c.a64 l).toNat)),
      one .sqrtF64 (fl 2 4 0 0) .whole
        (pending [2, 3] fun c => c.each64 fun l => BitVec.ofNat 64 (f64.sqrt 0 (c.a64 l).toNat))], x.meets :=
  meets_all (by decide +kernel)

/-- WaitInstructions, WaitsPass: SBWAIT on empty slots, CWAIT at its threshold, and the tag instructions. -/
theorem witness_WaitsPass : ∀ x ∈
    [one .sbwait (fl 0 0 0 127) .grouped fun c s => if slotsClear c 127 then some s else none,
      one .cwait (fl 0 0 0 0 3) .grouped fun c s => if c.g.counter 3 ≤ 0 then some s else none,
      one .twait (fl 0 12 0 0) .grouped (fun c s =>
        if tagsExist c s ∧ tagsSet c s = c.a64 c.lead then some s else none)
        fun s => withTeam (fun t => { t with tags := [5] }) (withGroup (put64 12 4) s),
      one .twany (fl 4 12 0 0) .grouped (fun c s =>
        if tagsExist c s ∧ (c.a64 c.lead = 0 ∨ tagsSet c s ≠ 0) then
          some (s.writeResults c (c.each fun _ => tagNumber (tagsSet c s)))
        else none) fun s => withTeam (fun t => { t with tags := [2 ^ 63] }) (withGroup (put64 12 (2 ^ 63)) s),
      one .tfind (fl 4 12 0 0) .grouped fun c s =>
        if tagsExist c s then some (s.writeResults c (c.each fun _ => tagNumber (tagsSet c s))) else none,
      one .tclr (fl 0 12 0 0) .grouped (fun c s =>
        if tagsExist c s then
          some (s.modTeam c.g.team fun t =>
            { t with tags := t.tags.set (t.cuIndex c.g) (t.tags.getD (t.cuIndex c.g) 0 &&& ~~~(c.a64 c.lead)) })
        else none) (withGroup (put64 12 1))], x.meets :=
  meets_all (by decide +kernel)

/-! ### Memory -/

/-- An address, its page and operands for the memory instructions. -/
def reaching (s : State) : State :=
  withPage ((withGroup (fun g => put 14 0x40 (put64 12 1 (put64 10 0x1000 g))) s).setFrame 0x200 (.owned 0))

/-- MemoryInstructions, LaneAccesses: the narrowest and the widest types, and both widths of atomics. -/
theorem witness_LaneAccesses :
    let load : Fields → Ictx → Nat → AccessOp := fun f _ _ => .load (accessSize f.srcc.toNat) (extends' f.srcc.toNat)
    let store : Fields → Ictx → Nat → AccessOp := fun f c l => .store (bytesAt c f.srcb.toNat (accessSize f.srcc.toNat) l)
    let ld : Fields → Case := fun f => one .ld f .whole (overMemory (accessSize f.srcc.toNat) .read
      (addresses · f.srcb (accessSize f.srcc.toNat)) (load f) (f.mod.toNat % 4 == 2)
      (registersOf f.dst.toNat (accessSize f.srcc.toNat))) reaching
    let st : Fields → Case := fun f => one .st f .whole (overMemory (accessSize f.srcc.toNat) .write
      (addresses · f.dst (accessSize f.srcc.toNat)) (store f) (f.mod.toNat % 4 == 2) []) reaching
    let spld : Fields → Case := fun f => one .spld f .whole (overScratch (accessSize f.srcc.toNat) false
      (offsets · f.srcb (accessSize f.srcc.toNat)) (load f) (registersOf f.dst.toNat (accessSize f.srcc.toNat))) reaching
    let spst : Fields → Case := fun f => one .spst f .whole (overScratch (accessSize f.srcc.toNat) true
      (offsets · f.dst (accessSize f.srcc.toNat)) (store f) []) reaching
    let ldp : Fields → Case := fun f => one .ldp f .whole (fun c s =>
      let z := accessSize f.srcc.toNat
      if c.parts = 0 then some s
      else if (blockOffsets c f.srcb z).any (fun x => x.2 % z != 0) then none
      else
        some (outstanding (some 0) (registersOf f.dst.toNat z) c.parts (.access (((blockOffsets c f.srcb z).map fun x =>
          (⟨x.1, BitVec.ofNat 64 x.2, .param x.2, load f c x.1, false, false, none, registersOf f.dst.toNat z, false⟩ : Access)).flatMap
            Access.pieces) []) c s)) reaching
    let at' : (Fields → Instr) → (Ictx → Nat → AccessOp) → Bool → Fields → Case := fun i op res f =>
      one i f .whole (overMemory (atomicSize f) .readWrite (addresses · 0 1) op false
        (if res then registersOf f.dst.toNat (atomicSize f) else [])) reaching
    let ats : (Fields → Instr) → (Ictx → Nat → AccessOp) → Fields → Case := fun i op f =>
      one i f .whole (overScratch (atomicSize f) true (offsets · 0 1) op (registersOf f.dst.toNat (atomicSize f))) reaching
    ∀ x ∈
      [ld (fl 4 10 1 0), ld (fl 4 10 0 6 2), ld (fl 255 10 1 1), st (fl 1 10 12 0), st (fl 0 10 12 6), spld (fl 4 14 1 0),
        spld (fl 4 14 0 6), spst (fl 1 14 12 0), spst (fl 0 14 12 6), ldp (fl 4 14 1 0), ldp (fl 4 14 255 6),
        at' .atom atomAt true (fl 4 10 12 0), at' .atom atomAt true (fl 4 10 12 13 1), at' .red atomAt false (fl 0 10 12 9),
        at' .cas swapAt true (fl 4 10 12 14 1), ats .atoms atomAt (fl 4 14 12 8 1), ats .cass swapAt (fl 4 14 12 14)],
      x.meets := by
  intros load store ld st spld spst ldp at' ats
  exact meets_all (by decide +kernel)

/-- MemoryInstructions, GroupAccesses. -/
theorem witness_GroupAccesses :
    let rel : Fields → Case := fun f => one .rel f .grouped (fun c s =>
      let add := f.mod.getLsbD 2
      let op := AccessOp.rel add (c.g.reg64 f.srcb.toNat c.lead) (if f.mod.toNat % 4 = 0 then none else some c.g.sig)
      match s.reach c 128 (if add then .readWrite else .write) (leadAddress c) (fun _ => op) true [] with
      | .error _ => none
      | .ok (accs, t) => some (outstanding (some 0) [] 0 (.access accs []) c
          (if f.mod.toNat % 4 = 0 then t else t.modGroup c.g.id fun g => { g with sig := 0 }))) reaching
    let acq : Fields → Case := fun f => one .acq f .grouped (fun c s =>
      match s.reach c 128 .read (leadAddress c) (fun _ => .rel true 0 (some 0)) true [] with
      | .ok ([a], t) =>
        match a.place with
        | .mem pa =>
          some (outstanding (some 0) [f.dst.toNat, f.dst.toNat + 1] c.parts (.acquire pa (f.mod.toNat % 4) f.dst.toNat none) c t)
        | _ => none
      | _ => none) reaching
    ∀ x ∈
      [rel (fl 0 10 12 0), rel (fl 0 10 12 0 7), acq (fl 4 10 0 0), acq (fl 4 10 0 0 3),
        one .sigclr (fl 0 10 0 0) .grouped (overLine 128 .write .sigClear 8) reaching,
        one .pzero (fl 0 10 0 0) .grouped (fun c s =>
          match s.reach c 4096 .readWrite (leadAddress c) (fun _ => .zeroLine) true [] with
          | .error _ => none
          | .ok (accs, t) =>
            some (outstanding (some 0) [] 0 (.access (accs.flatMap fun a => (List.range 32).map fun k =>
              { a.shift (128 * k) with va := a.va + BitVec.ofNat 64 (128 * k) }) []) c t)) reaching,
        one .fence (fl 0 0 0 15 3) .grouped (fun c s => some (outstanding none [] 0 (.fence 15 3) c s)) reaching,
        one .marmArm (fl 4 10 12 14) .grouped (armed false) reaching,
        one .marmArmB64 (fl 4 10 12 14 1) .grouped (armed true) reaching,
        one .marmTest (fl 4 0 0 0 2) .grouped (fun c s => some (finished c (s.writeResults c (c.each fun _ =>
          maskOf fun k => k < 4 && (c.g.monitor k).fired)))) reaching,
        one .marmClr (fl 0 0 0 3 3) .grouped (fun c s => some (finished c (s.modGroup c.g.id fun g =>
          { g with monitors := g.monitors.set 3 { g.monitor 3 with armed := false, fired := false } }))) reaching,
        one .pref (fl 0 10 0 0 1) .whole (fun c s =>
          some ((lanesOf c.parts).foldl (fun s l => s.prefetch c.g true (c.a64 l)) s)) reaching,
        one .cctlWb (fl 0 10 0 15) .grouped (overCache fun pas _ => .cacheWb pas) reaching,
        one .cctlInv (fl 0 10 0 0 1) .grouped (overCache fun pas _ => .cacheInv pas) reaching,
        one .cctlInvall (fl 0 0 0 0 2) .grouped (fun c s => some (outstanding (some 0) [] 0 .cacheInvAll c s)) reaching,
        one .cctlIinv (fl 0 10 0 3 3) .grouped (overCache fun _ vas => .codeInv vas) reaching], x.meets := by
  intros rel acq
  exact meets_all (by decide +kernel)

/-! ### Matrix and affine -/

/-- Format slots for the tests: f16, e4m3, e8m0-scaled e4m3, e2m1. -/
def slots (s : State) : State := withInfo (fun r => { r with slots := [2, 4, 0x050A04, 6, 0x000007, 1, 3, 9] }) s

/-- MultipliesJoin: the issuing lanes sign a join that others are still to reach, or complete it. -/
theorem witness_MultipliesJoin :
    let declares (s : State) : State := withGroup (fun g => g.setJoin 1 ⟨Mask.all, 0⟩) (slots s)
    ∀ x ∈
      [one .mma (fl 0x41 0x20 0x30 0 0 63 1) .whole (multiplied (.mma (fl 0x41 0x20 0x30 0 0 63 1))) declares 1 (mulGuard false),
        one .mma (fl 0x41 0x21 0x31 0 0 63 1) .whole (multiplied (.mma (fl 0x41 0x21 0x31 0 0 63 1))) declares Mask.all (mulGuard false),
        one .mmas (fl 0x41 0x20 0x30 6 0 63 1) .whole (multiplied (.mmas (fl 0x41 0x20 0x30 6 0 63 1))) declares 1 (mulGuard false),
        one .mmad (fl 0x51 0x20 0x28 0 0 63 1) .whole (multiplied (.mmad (fl 0x51 0x20 0x28 0 0 63 1))) declares Mask.all madGuard],
      x.meets := by
  intro declares
  exact meets_all (by decide +kernel)

/-- MatrixEngine, MatrixInstructions. -/
theorem witness_MatrixInstructions :
    let ifAny (F : Ictx → State → Option State) (c : Ictx) (s : State) := if c.parts = 0 then some s else F c s
    ∀ x ∈
      [one .mbmap (fl 6 0x21 0 0 0 63 1) .whole (ifAny fun c s =>
          let x := blockMap c.g (slotElement (s.slotBits c.g 1)) 32
          atEngine c [6, 7] (everywhere 6 (x.extractLsb' 0 32) ++ everywhere 7 (x.extractLsb' 32 32)) [] s) slots Mask.all mapGuard,
        one .mzero (fl 32 0 0 0 0 63 1) .whole (ifAny fun c s =>
          let rs := (List.range 32).map (32 + ·)
          atEngine c rs (rs.flatMap fun r => everywhere r 0) [] s) slots,
        one .mzero (fl 16 0 0 0 1 63 1) .whole (ifAny fun c s =>
          let rs := (List.range 16).map (16 + ·)
          atEngine c rs (rs.flatMap fun r => everywhere r 0) [] s) slots,
        one .mscale (fl 0 12 0 0 1 63 1) .whole (ifAny fun c s =>
          atEngine c [] [] [] (s.modGroup c.g.id fun g => g.loadScales true 12)) slots,
        one .mldf (fl 48 5 0 0 3 63 1) .whole (ifAny fun c s =>
          match imageAt c 512 s with
          | none => none
          | some (t, i, o) =>
            if s.scratchPoisoned t i o 512 ≠ [] then none
            else
              atEngine c ((List.range 4).map (48 + ·)) [] ((List.range (32 * 4)).map fun w =>
                ⟨w / 4, BitVec.ofNat 64 ((c.g.reg 5 c.lead).toNat + 4 * w), .scratch t i (o + 4 * w),
                  .load 4 false, false, false, none, [48 + w % 4], false⟩) s) slots,
        one .mstf (fl 0 5 48 0 0 63 1) .whole (ifAny fun c s =>
          match imageAt c 1024 s with
          | none => none
          | some (t, i, o) =>
            atEngine c [] [] ((List.range (32 * 8)).map fun w =>
              ⟨w / 8, BitVec.ofNat 64 ((c.g.reg 5 c.lead).toNat + 4 * w), .scratch t i (o + 4 * w),
                .store ((List.range 4).map fun k => (c.g.reg (48 + w % 8) (w / 8)).extractLsb' (8 * k) 8),
                false, false, none, [], false⟩) s) slots],
      x.meets := by
  intro ifAny
  exact meets_all (by decide +kernel)

/-- A hand with ids left, and a Deck that can deal. -/
def dealt (s : State) : State := reaching (withGroup (fun g => { g with handNext := 64, handLeft := 8 })
  (withContext (fun c => { c with deckA := 4, deckH := 2 }) s))

/-- AffineFamily, AffineInstructions. -/
theorem witness_AffineInstructions : ∀ x ∈
    [one .amov (fl 3 9 0 0) .whole (writesForm fun c l => c.fa l) dealt,
      one .aadd (fl 3 4 5 0) .whole (writesForm fun c l => aaddsub false (c.fa l) (c.fb l)) dealt,
      one .asub (fl 3 4 5 0) .whole (writesForm fun c l => aaddsub true (c.fa l) (c.fb l)) dealt,
      one .aneg (fl 3 4 0 0) .whole (writesForm fun c l => anegForm (c.fa l)) dealt,
      one .ascl (fl 3 4 6 0) .whole (writesForm fun c l => ascl (c.fa l) (c.b64 l).toNat) dealt,
      one .anew (fl 3 20 12 0) .whole (fun c s =>
        match s.mint c with
        | .error _ => none
        | .ok (id, t) => writesForm (fun c l => Machine.anew (c.a64 l).toNat (c.g.reg 12 l).toNat (id l)) c t) dealt,
      one .amul (fl 3 4 5 0) .whole (mintsForm fun c l id => amulForm (c.fa l) (c.fb l) none id) dealt,
      one .afma (fl 3 4 5 6) .whole (mintsForm fun c l id => amulForm (c.fa l) (c.fb l) (some (c.fc l)) id) dealt,
      one .arcp (fl 3 4 0 0) .whole (mintsForm fun c l id => arcpForm (c.fa l) id) dealt,
      one .asqrt (fl 3 4 0 0) .whole (mintsForm fun c l id => asqrtForm (c.fa l) id) dealt,
      one .afold (fl 3 4 0 5 1) .whole (mintsForm fun c l id => afoldForm (c.fa l) 5 true id) dealt,
      one .ald (fl 3 10 0 0) .whole (fun c s =>
        if c.parts = 0 then some s
        else
          match s.reach c 64 .read (records c) (fun _ => .load 64 false) false [3] with
          | .error _ => none
          | .ok (accs, t) => some (outstanding (some 0) [256 + 3] c.parts (.formLoad accs []) c t)) dealt,
      one .ast (fl 0 10 4 0) .whole (overMemory 64 .write records (fun c l => .store (c.fb l).record) false []) dealt,
      one .adeckRead (fl 8 0 3 0) .grouped deckRead dealt, one .adeckAdd (fl 8 0 3 0 1) .grouped deckRead dealt,
      one .adeckSet (fl 8 0 12 0 2) .grouped deckRead dealt], x.meets :=
  meets_all (by decide +kernel)

/-! ### Waits, barriers and rings -/

/-- The hypotheses of `Holds`, evaluated but for the condition. -/
def holding (i : Instr) (f : Fields) (how : Acting) (s : State) : Bool :=
  match s.cur with
  | none => false
  | some cur =>
    match s.group? cur.group with
    | none => false
    | some g =>
      encode i == some cur.word && i.fields? == some f && !s.stalled g (fieldOf cur.word 56 8) f cur.lanes
        && (s.checks g cur i f Guard.plain).isNone && actions g.fwd how cur.lanes == [(halfOf g cur, cur.lanes)] && (List.range 32).any (takes g cur f)

/-- What the issue at hand sees. -/
def seenAt (s : State) (f : Fields) : Option Ictx :=
  match s.cur with
  | none => none
  | some cur => (s.group? cur.group).map fun g => seen g cur f

theorem holds_hyps {i : Instr} {f : Fields} {how : Acting} {s : State} {cond : Ictx → State → Prop}
    (h : holding i f how s = true) (hs : (seenAt s f).isSome = true) (hc : cond ((seenAt s f).get hs) s) :
    ∃ cur g, Issues s cur g i f Guard.plain ∧ Alone g cur how ∧ Taken g cur f ∧ cond (seen g cur f) s := by
  have he : seenAt s f = some ((seenAt s f).get hs) := (Option.some_get hs).symm
  generalize (seenAt s f).get hs = x at he hc
  unfold holding at h
  split at h
  · cases h
  · rename_i cur h1
    split at h
    · cases h
    · rename_i g h2
      simp only [Bool.and_eq_true, beq_iff_eq, Bool.not_eq_true', Option.isNone_iff_eq_none,
        List.any_eq_true, List.mem_range] at h
      simp only [seenAt, h1, h2, Option.map_some, Option.some.injEq] at he
      exact ⟨cur, g, ⟨h1, h2, h.1.1.1.1.1, h.1.1.1.1.2, h.1.1.1.2, h.1.1.2⟩, h.1.2, h.2, he ▸ hc⟩

/-- An outstanding operation of slot 1 and class `oc.mem`. -/
def anOp : Op := ⟨9, 0, some 0, 1, 0, 0, 0, Mask.all, [], 0, .fence 0 0, 1, [], [], [], false⟩

/-- WaitInstructions, WaitsHold: each instruction waits. -/
theorem witness_WaitsHold :
    let busy := here Mask.all (withGroup fun g => { g with ops := [anOp] })
    let none' := here Mask.all (withGroup (put64 12 1))
    (∃ cur g, Issues (busy (.sbwait (fl 0 0 0 1))) cur g (.sbwait (fl 0 0 0 1)) (fl 0 0 0 1) Guard.plain
      ∧ Alone g cur .grouped ∧ Taken g cur (fl 0 0 0 1) ∧ ¬ slotsClear (seen g cur (fl 0 0 0 1)) 1)
    ∧ (∃ cur g, Issues (busy (.cwait (fl 0 0 0 0))) cur g (.cwait (fl 0 0 0 0)) (fl 0 0 0 0) Guard.plain
      ∧ Alone g cur .grouped ∧ Taken g cur (fl 0 0 0 0) ∧ 0 < (seen g cur (fl 0 0 0 0)).g.counter 0)
    ∧ (∃ cur g, Issues (none' (.twait (fl 0 12 0 0))) cur g (.twait (fl 0 12 0 0)) (fl 0 12 0 0) Guard.plain
      ∧ Alone g cur .grouped ∧ Taken g cur (fl 0 12 0 0)
      ∧ (tagsExist (seen g cur (fl 0 12 0 0)) (none' (.twait (fl 0 12 0 0)))
        ∧ tagsSet (seen g cur (fl 0 12 0 0)) (none' (.twait (fl 0 12 0 0))) ≠ (seen g cur (fl 0 12 0 0)).a64 (seen g cur (fl 0 12 0 0)).lead))
    ∧ (∃ cur g, Issues (none' (.twany (fl 4 12 0 0))) cur g (.twany (fl 4 12 0 0)) (fl 4 12 0 0) Guard.plain
      ∧ Alone g cur .grouped ∧ Taken g cur (fl 4 12 0 0)
      ∧ (tagsExist (seen g cur (fl 4 12 0 0)) (none' (.twany (fl 4 12 0 0)))
        ∧ (seen g cur (fl 4 12 0 0)).a64 (seen g cur (fl 4 12 0 0)).lead ≠ 0
        ∧ tagsSet (seen g cur (fl 4 12 0 0)) (none' (.twany (fl 4 12 0 0))) = 0))
    ∧ ∃ cur g, Issues (none' (.rwait (fl 0 7 0 15 1))) cur g (.rwait (fl 0 7 0 15 1)) (fl 0 7 0 15 1) Guard.plain
      ∧ Alone g cur .grouped ∧ Taken g cur (fl 0 7 0 15 1)
      ∧ ((fl 0 7 0 15 1).srca.toNat < (none' (.rwait (fl 0 7 0 15 1))).need (seen g cur (fl 0 7 0 15 1)).g Record.rings
        ∧ (seen g cur (fl 0 7 0 15 1)).g.wait (seen g cur (fl 0 7 0 15 1)).half ≠ .released
        ∧ ringPhase (seen g cur (fl 0 7 0 15 1)) (none' (.rwait (fl 0 7 0 15 1))) = some false) := by
  intro busy none'
  refine ⟨holds_hyps (cond := fun c _ => ¬ slotsClear c 1) (by decide +kernel) (by decide +kernel) (by unfold slotsClear; decide +kernel),
    holds_hyps (cond := fun c _ => 0 < c.g.counter 0) (by decide +kernel) (by decide +kernel) (by decide +kernel),
    holds_hyps (cond := fun c s => tagsExist c s ∧ tagsSet c s ≠ c.a64 c.lead) (by decide +kernel)
      (by decide +kernel) (by unfold tagsExist; decide +kernel),
    holds_hyps (cond := fun c s => tagsExist c s ∧ c.a64 c.lead ≠ 0 ∧ tagsSet c s = 0) (by decide +kernel)
      (by decide +kernel) (by unfold tagsExist; decide +kernel),
    holds_hyps (cond := fun c s => (fl 0 7 0 15 1).srca.toNat < s.need c.g Record.rings ∧ c.g.wait c.half ≠ .released
      ∧ ringPhase c s = some false) (by decide +kernel) (by decide +kernel) (by decide +kernel)⟩

/-- BarriersFlip, BarriersAndRings: an arrival on a barrier of the team's last number, one that flips its phase, one whose
phase has flipped since, and a ring's last slot. -/
theorem witness_BarriersAndRings :
    let wait : Ictx → State → Option State := fun c s =>
      if c.g.wait c.half = .released then some s
      else (arrived false c s).bind fun t => if barrierPhase c t ≠ barrierPhase c s then some t else none
    ∀ x ∈
      [one .bara (fl 0 31 4 0 1) .grouped (arrived true) (withGroup (put 4 384)), one .barw (fl 0 0 0 0) .grouped wait,
        one .barw (fl 0 0 0 0) .grouped wait (withGroup fun g => { g with wait0 := .released }),
        one .rarv (fl 0 7 0 15) .grouped (fun c s =>
          if 7 < s.need c.g Record.rings then some (s.arriveRing c.g 7 15) else none),
        one .rwait (fl 0 7 0 15) .grouped (fun c s =>
          if 7 < s.need c.g Record.rings ∧ (c.g.wait c.half = .released ∨ ringPhase c s = some false) then some s else none)],
      x.meets := by
  intro wait
  exact meets_all (by decide +kernel)

/-! ### Conversions with format slots -/

/-- A codebook of 256 words at 0x1000 in object 3, and a slot that names it. -/
def aBook : BitVec 512 :=
  BitVec.ofNat 512 (2 ^ 464 + 255 * 2 ^ 400 + 2 ^ 395 + 2 ^ 392 + 2 * 2 ^ 384
    + 512 * 2 ^ 64 + 2 ^ 96 + 2 ^ 128 + 2 ^ 160 + 2 ^ 192 + 0x1000)
def withBook (s : State) : State :=
  withContext (fun c => { c with objects := [(3, aBook)] })
    (withInfo (fun r => { r with slots := [2, 4, 0x050A04, 6, 0x300050A07, 1, 3, 9] }) (reaching s))

/-- ConversionsAndFunctions: CVTN, CVTW, BSCALE and CBDEC. -/
theorem witness_SlotConversions :
    let n : Fields := fl 4 8 5 1
    let w : Fields := fl 8 4 5 3
    let b : Fields := fl 4 0 5 42
    let d : Fields := fl 16 4 5 4
    ∀ x ∈
      [one .cvtn n .whole (fun c s =>
          let x := slotBitsOf s n c
          let k := packs (slotElement x)
          some (s.writeResults c (c.each fun l => BitVec.ofNat 32 (((List.range k).map fun j =>
            2 ^ (32 / k * j) * narrowElement x 0 ((c.b l).toNat % 256) (c.g.reg (n.srca.toNat + j) l).toNat).sum))))
          withBook 0x80000001 (asks packedAccepts Fields.srca true false),
        one .cvtw w .whole (fun c s =>
          let x := slotBitsOf s w c
          let k := packs (slotElement x)
          some (s.writeResults c ((lanesOf c.parts).flatMap fun l => (List.range k).map fun j =>
            ⟨w.dst.toNat + j, l, BitVec.ofNat 32
              (widenElement x 0 ((c.b l).toNat % 256) ((c.a l).toNat / 2 ^ (32 / k * j) % 2 ^ (32 / k)))⟩)))
          withBook 0x80000001 (asks packedAccepts Fields.dst true false),
        one .bscale b .whole (fun c s =>
          some (s.writeResults c (c.each fun l => BitVec.ofNat 32
            (blockScale (slotElement (slotBitsOf s b c)) ((blockLanes c l).map fun j => (c.b j).toNat)))))
          withBook 0x80000001 (asks (fun x => slotScale x == 0x0A && [4, 5, 6, 7].contains (slotElement x)) Fields.srca false false),
        one .cbdec d .whole (fun c s =>
          if c.parts = 0 then some (outstanding none [] 0 (.result [] []) c s)
          else
            match s.readBook c.g (d.srcc.toNat % 8) c.parts c.addr with
            | .fault _ _ => none
            | .waits _ => none
            | .words book t =>
              some (outstanding none ((List.range 8).map (d.dst.toNat + ·)) c.parts (.result ((lanesOf c.parts).flatMap fun l =>
                let index := (c.a l).toNat % 2 ^ 16
                ((weights (slotBitsOf t d c) 0 ((c.b l).toNat % 256) index (book.getD (index / 256) 0).toNat).zipIdx.map fun w =>
                  (⟨d.dst.toNat + w.2, l, w.1⟩ : RegWrite))) []) c t))
          withBook 1 (asks (fun x => slotElement x == 7) Fields.srca false true),
        one .mmacb (fl 0x41 0x23 0x34 0 0 63 1) .whole (multiplied (.mmacb (fl 0x41 0x23 0x34 0 0 63 1)))
          (fun s => withGroup (fun g => g.setJoin 1 ⟨Mask.all, 0⟩) (withBook s)) 1 (mulGuard true)], x.meets := by
  intro n w b d
  exact meets_all (by decide +kernel)

/-! ### Copies, the registry, spawns -/

/-- Page tables for the context: VA 0x1000 is frame 0x200 with every right. One table serves as the table of every level. -/
def withTables (s : State) : State :=
  withContext (fun c => { c with root := 0x300000, qtable := 0x1000 })
    ((((s.setBytes 0x300000 (bytesOfNat 8 0x300001 ++ bytesOfNat 8 0x2000F3)).setFrame 0x300 (.owned 0)).setFrame 0x200 (.owned 0)))

/-- A record of 8 f32 elements of 32 at 0x1000, to be read and written, in object 1; and one that CPYG admits, 4 rows of 8
elements, in object 2. -/
def aTensor : BitVec 512 :=
  BitVec.ofNat 512 (2 ^ 464 + 7 * 2 ^ 400 + 2 ^ 396 + 2 ^ 395 + 2 ^ 392 + 1 * 2 ^ 384 + 32 * 2 ^ 64 + 2 ^ 96 + 2 ^ 128 + 2 ^ 160
    + 2 ^ 192 + 0x1000)
def aGather : BitVec 512 :=
  BitVec.ofNat 512 (2 ^ 464 + 7 * 2 ^ 400 + 2 ^ 396 + 2 ^ 395 + 2 * 2 ^ 392 + 1 * 2 ^ 384 + 32 * 2 ^ 224 + 8 * 2 ^ 64 + 4 * 2 ^ 96
    + 2 ^ 128 + 2 ^ 160 + 2 ^ 192 + 0x1000)

/-- A state for copies: records in registers 40 and 48, the second of tensor 2. -/
def copies (s : State) : State :=
  withContext (fun c => { c with objects := [(1, aTensor), (2, aGather)] })
    (withGroup (fun g => put 48 2 (put 40 0x10001 g)) (reaching (withTables s)))

/-- CopyInstructions: the tile copies, with a tag, a ring slot and a memory counter as targets, CPYG, CPYP, and the
collectives of two ranks. -/
theorem witness_CopyInstructions :
    let ranks (s : State) : State := withInfo (fun r => { r with pgt := 32, pgtRanks := 2 }) (withGroup (put 47 1) (copies s))
    ∀ x ∈
      [one .cpyl (fl 63 40 0 0 1) .grouped (tileCopied true false false (fun t => .copy t.grain) (fun _ => true) .read) copies,
        one .cpys (fl 0x7F 40 0 0 2) .grouped (tileCopied false true true (fun t => .copy t.grain) (fun _ => true) .write) copies,
        one .cpyr (fl 0 40 10 0 3) .grouped
          (tileCopied true true true (fun t => .add t.format) (fun k => k == 9 || k == 1 || k == 2 || k == 3) .readWrite) copies,
        one .cpyg (fl 0 48 0 0) .grouped gathered copies, one .cpyp (fl 0 40 0 0) .grouped prefetched copies,
        one .collAllred (fl 0 40 0 0) .grouped collected ranks, one .collSend (fl 0 40 0 3) .grouped collected ranks,
        one .collRecv (fl 0 40 0 4) .grouped collected ranks,
        one .collAllgath (fl 0 40 0 1) .grouped collected copies, one .collRedscat (fl 0 40 0 2) .grouped collected copies],
      x.meets := by
  intro ranks
  exact meets_all (by decide +kernel)

/-- A handle to the assumption that slot 5 holds for the context, and regions that rest on it. -/
def aSlot (state : SlotState) : Slot :=
  { Slot.empty with gen := 1, issued := 1, asid := 0, kind := 2, state := state, addr := 0x1000 }
def withRegion (state : SlotState) (s : State) : State :=
  { s with
    slots := [(5, aSlot state)]
    launches := s.launches.map fun l =>
      { l with handles := [(aSlot state).handle 5], regions := [⟨0, 0x80, 0x40, 9, [0]⟩] } }

/-- Assumptions, RegistryInstructions. -/
theorem witness_RegistryInstructions :
    let handle (state : SlotState) (s : State) : State := withGroup (put64 20 ((aSlot state).handle 5)) (withRegion state s)
    ∀ x ∈
      [one .asmk (fl 4 10 0 0 2) .grouped assumed reaching Mask.all asmkGuard,
        one .asmk (fl 4 10 0 0 3) .grouped assumed reaching Mask.all asmkGuard,
        one .asdrop (fl 0 20 0 0) .grouped droppedBy (handle .live), one .asdrop (fl 0 20 0 0) .grouped droppedBy (handle .broken),
        one .asdrop (fl 0 20 0 0) .grouped droppedBy,
        one .asqry (fl 4 20 0 0) .whole (fun c s =>
          pending [4] (fun c => c.each fun l => queried s (s.asidOf c.g) (c.a64 l)) c s) (handle .live),
        one .renter (fl 0 0 0 0) .whole regionEntered (withRegion .live) Mask.all,
        one .renter (fl 0 0 0 0) .whole regionEntered (withRegion .broken) Mask.all,
        one .rleave (fl 0 0 0 0) .whole regionLeft (withRegion .live) Mask.all,
        one .rleave (fl 0 0 0 0) .whole regionLeft], x.meets := by
  intro handle
  exact meets_all (by decide +kernel)

/-- SpawnsAndLaunches, SpawnLaunchCkpt, where no queue and no backing is needed; and IPREF of HeadersAndFetches. -/
theorem witness_SpawnLaunchCkpt : ∀ x ∈
    [one .spawn (fl 3 20 8 0) .whole (fun c s => spawned c s), one .launch (fl 3 20 22 0) .grouped launchedBy,
      one .launch (fl 3 20 22 0 1) .grouped launchedBy,
      one .ckpt (fl 5 0 0 0) .halved checkpointed (withContext fun c => { c with ckptReserved := true }),
      one .ipref (fl 0 10 0 15) .grouped (fun c s =>
        some ((List.range 16).foldl (fun u k => askedAhead c.g (((c.a64 c.lead).toNat / 128 + k) % 2 ^ 57) u) s)) reaching],
    x.meets :=
  meets_all (by decide +kernel)

/-! ### Faults of instructions -/

/-- What a statement about a fault supposes: `p` is its condition on what the instruction sees. -/
structure Trouble where
  i   : Instr
  f   : Fields
  gd  : State → Group → Fields → Guard
  how : Acting
  p   : State → Ictx → Bool
  s   : State

def Trouble.meets (x : Trouble) : Prop :=
  ∃ cur g, Issues x.s cur g x.i x.f (guardIn x.gd x.s g x.f) ∧ (x.how = .grouped → Taken g cur x.f) ∧ x.p x.s (seen g cur x.f) = true

def Trouble.met (x : Trouble) : Bool :=
  issuing x.gd x.i x.f x.s &&
    match x.s.cur with
    | none => false
    | some cur =>
      match x.s.group? cur.group with
      | none => false
      | some g => (List.range 32).any (takes g cur x.f) && x.p x.s (seen g cur x.f)

theorem troubles {xs : List Trouble} (h : (xs.all Trouble.met) = true) : ∀ x ∈ xs, x.meets := by
  intro x hx
  have h := List.all_eq_true.1 h x hx
  unfold Trouble.met at h
  obtain ⟨cur, g, hi⟩ := issues_of (Bool.and_eq_true _ _ ▸ h).1
  have h2 := (Bool.and_eq_true _ _ ▸ h).2
  simp only [hi.chosen, hi.group, Bool.and_eq_true, List.any_eq_true, List.mem_range] at h2
  exact ⟨cur, g, hi, fun _ => h2.1, h2.2⟩

def bad (i : Fields → Instr) (f : Fields) (how : Acting) (p : State → Ictx → Bool) (F : State → State := id) (m : Mask := 3)
    (gd : State → Group → Fields → Guard := unguarded) : Trouble :=
  ⟨i f, f, gd, how, p, here m F (i f)⟩

/-- IndexesWindowsAndLanes, IndexedMoves: an index just past the last register of a group that has 254, and the last one. -/
theorem witness_IndexedMoves :
    let few : State → State := withGroup fun g => { g with nregs := 254 }
    let last (i : Instr) : State := here Mask.all few i
    (∃ cur g, Issues (last (.movx (fl 1 2 0 253))) cur g (.movx (fl 1 2 0 253)) (fl 1 2 0 253) (guardIn unguarded (last (.movx (fl 1 2 0 253))) g (fl 1 2 0 253))
      ∧ Stays (last (.movx (fl 1 2 0 253))) g cur ∧ namesRegister (seen g cur (fl 1 2 0 253)))
    ∧ (∃ cur g, Issues (last (.movxw (fl 0 2 3 253))) cur g (.movxw (fl 0 2 3 253)) (fl 0 2 3 253) (guardIn unguarded (last (.movxw (fl 0 2 3 253))) g (fl 0 2 3 253))
      ∧ Stays (last (.movxw (fl 0 2 3 253))) g cur ∧ namesRegister (seen g cur (fl 0 2 3 253)))
    ∧ ∀ x ∈
      [bad .movx (fl 1 2 0 254) .whole (fun _ c => misindexed c != 0) few, bad .movxw (fl 0 2 3 255) .whole (fun _ c => misindexed c != 0)],
      x.meets := by
  intro few last
  have names : ∀ c : Ictx, (List.range 32).all (fun l => !c.parts.has l
      || (decide ((c.a l).toNat + c.f.srcc.toNat < c.g.nregs) && (c.a l).toNat + c.f.srcc.toNat != 255)) = true → namesRegister c := by
    intro c h l hl
    have := List.all_eq_true.1 h l (List.mem_range.2 (Laws.has_lt hl))
    simp only [hl, Bool.not_true, Bool.false_or, Bool.and_eq_true, decide_eq_true_eq, bne_iff_ne] at this
    exact this
  have both : ∀ (i : Instr) (f : Fields) (s : State), staying unguarded i f s = true → (seenAt s f).any (fun c => (List.range 32).all
      (fun l => !c.parts.has l
        || (decide ((c.a l).toNat + c.f.srcc.toNat < c.g.nregs) && (c.a l).toNat + c.f.srcc.toNat != 255))) = true →
      ∃ cur g, Issues s cur g i f (guardIn unguarded s g f) ∧ Stays s g cur ∧ namesRegister (seen g cur f) := by
    intro i f s h1 h2
    obtain ⟨cur, g, hi, hs⟩ := stays_of h1
    simp only [seenAt, hi.chosen, hi.group, Option.map_some, Option.any_some] at h2
    exact ⟨cur, g, hi, hs, names _ h2⟩
  exact ⟨both _ _ _ (by decide +kernel) (by decide +kernel), both _ _ _ (by decide +kernel) (by decide +kernel),
    troubles (by decide +kernel)⟩

/-- TrapInstructions: software traps with and without participants, and what handler mode forbids or requires. -/
theorem witness_TrapInstructions :
    let failing (c : Ictx) : Mask := maskOf fun l => c.parts.has l && c.a l == 0
    let inHandler : State → State := withGroup fun g => { g with handler := true }
    let handled : State → Ictx → Bool := fun _ c => c.lanes != 0 && c.g.handler
    (∀ x ∈
      [bad .trap (fl 0 0 0 0) .whole (fun _ c => c.parts != 0), bad .bkpt (fl 0 0 0 0) .whole (fun _ c => c.parts != 0),
        bad .assert (fl 0 9 22 0) .whole (fun _ c => failing c != 0), bad .jenr (fl 3 7 0 0) .halved handled inHandler,
        bad .jenrAct (fl 3 0 0 0 1) .halved handled inHandler, bad .jsign (fl 3 0 0 0) .halved handled inHandler,
        bad .jwait (fl 3 0 0 0) .halved handled inHandler,
        bad .mma (fl 0x41 0x21 0x31 0 0 63 1) .whole handled (fun s => inHandler (slots s)) 3 (mulGuard false),
        bad .mmas (fl 0x41 0x21 0x31 6 0 63 1) .whole handled (fun s => inHandler (slots s)) 3 (mulGuard false),
        bad .mmacb (fl 0x41 0x23 0x34 0 0 63 1) .whole handled (fun s => inHandler (withBook s)) 3 (mulGuard true),
        bad .mmad (fl 0x51 0x20 0x28 0 0 63 1) .whole handled inHandler 3 madGuard,
        bad .setsr (fl 0 14 0 17) .whole (fun _ c => !c.g.handler), bad .trapretReplay (fl 0 0 0 0) .whole (fun _ c => !c.g.handler),
        bad .trapretSkip (fl 0 0 0 0 1) .whole (fun _ c => !c.g.handler), bad .ckpt (fl 5 0 0 0) .halved handled inHandler],
      x.meets)
    ∧ ∀ x ∈
      [one .trap (fl 0 0 0 0 0 7) .whole fun c s => if c.parts = 0 then some s else none,
        one .bkpt (fl 0 0 0 0 0 7) .whole fun c s => if c.parts = 0 then some s else none,
        one .assert (fl 0 9 22 0) .whole (fun c s => if failing c = 0 then some s else none) (withGroup (put 9 1))], x.meets := by
  intro failing inHandler handled
  exact ⟨troubles (by decide +kernel), meets_all (by decide +kernel)⟩

/-- MisalignedAccessFaults: an address one past a multiple, and one short of it. -/
theorem witness_MisalignedAccessFaults :
    let at' (x : DWord) (s : State) : State := withGroup (put64 10 x) s
    let lane (z : Nat) (off : BitVec 8) : State → Ictx → Bool := fun _ c => (addresses c off z).any fun x => x.2.toNat % z != 0
    let group (z : Nat) : State → Ictx → Bool := fun _ c => !c.g.fwd && (c.a64 c.lead).toNat % z != 0
    ∀ x ∈
      [bad .ld (fl 4 10 1 4) .whole (lane 4 1) (at' 0x1001), bad .st (fl 1 10 12 6) .whole (lane 16 1) (at' 0x100F),
        bad .atom (fl 4 10 12 0 1) .whole (lane 8 0) (at' 0x1004), bad .red (fl 0 10 12 0) .whole (lane 4 0) (at' 0x1002),
        bad .cas (fl 4 10 12 14) .whole (lane 4 0) (at' 0x1003), bad .ald (fl 3 10 0 0) .whole (lane 64 0) (at' 0x1020),
        bad .ast (fl 0 10 4 0) .whole (lane 64 0) (at' 0x103F), bad .rel (fl 0 10 12 0) .grouped (group 128) (at' 0x1040),
        bad .acq (fl 4 10 0 0) .grouped (group 128) (at' 0x1001), bad .sigclr (fl 0 10 0 0) .grouped (group 128) (at' 0x107F),
        bad .pzero (fl 0 10 0 0) .grouped (group 4096) (at' 0x1800)], x.meets := by
  intro at' lane group
  exact troubles (by decide +kernel)

/-- MultipliesJoin, lanes that the join does not declare; Assumptions, RENTER outside every region, and RENTER and RLEAVE
reached by some lanes alone. -/
theorem witness_StrayLanes :
    let stray' : State → Ictx → Bool := fun _ c => !c.g.handler && stray c != 0
    let apart : State → Ictx → Bool := fun s c => c.g.live &&& ~~~c.all != 0 && (s.regionAt c.g c.addr).isSome
    ∀ x ∈
      [bad .mma (fl 0x41 0x21 0x31 0 0 63 1) .whole stray' slots 3 (mulGuard false),
        bad .mmas (fl 0x41 0x21 0x31 6 0 63 1) .whole stray' slots 3 (mulGuard false),
        bad .mmacb (fl 0x41 0x23 0x34 0 0 63 1) .whole stray' withBook 3 (mulGuard true),
        bad .mmad (fl 0x51 0x20 0x28 0 0 63 1) .whole stray' id 3 madGuard,
        bad .renter (fl 0 0 0 0) .whole (fun s c => (s.regionAt c.g c.addr).isNone) id Mask.all,
        bad .renter (fl 0 0 0 0) .whole apart (withRegion .live), bad .rleave (fl 0 0 0 0) .whole apart (withRegion .live)],
      x.meets := by
  intro stray' apart
  exact troubles (by decide +kernel)

/-! ### The machine -/

/-- DecodeEncode and DecodingIsExact: a word, a header that R60 forbids, a kernel header, an opcode of no row, few bytes. -/
theorem witness_Decoding :
    (WellFormed (.iadd (fl 1 2 3 0)) ∧ encode (.iadd (fl 1 2 3 0)) = some 0x2000_0204_0600_03F0)
    ∧ (decodeWord 0x2000_0204_0600_03F0).toOption = some (.iadd (fl 1 2 3 0))
    ∧ ((0xCA01_0000_0000_0001 : DWord).extractLsb' 56 8 = 0xCA ∧ (0xCA01_0000_0000_0001 : DWord).extractLsb' 48 8 ≠ 0)
    ∧ ((0xCA00_0000_8000_0001 : DWord).extractLsb' 56 8 = 0xCA ∧ (0xCA00_0000_8000_0001 : DWord).extractLsb' 20 12 ≠ 0)
    ∧ ((0xCA00_0000_0000_0011 : DWord).extractLsb' 56 8 = 0xCA ∧ (0xCA00_0000_0000_0011 : DWord).extractLsb' 4 12 ≠ 0)
    ∧ ((0xCA00_0000_0007_0001 : DWord).extractLsb' 56 8 = 0xCA ∧ (0xCA00_0000_0007_0001 : DWord).extractLsb' 16 3 = 7)
    ∧ (0xCB00_0000_0000_0000 : DWord).extractLsb' 56 8 = 0xCB ∧ unassigned ((0xFF00_0000_0000_0000 : DWord).extractLsb' 56 8) = true
    ∧ (List.replicate 7 (0 : Byte)).length < 8 := by
  decide +kernel

/-- The one thing that can happen next is an issue of a given word, after a header or not. -/
def issuesNext (s : State) (w : DWord) (header : Bool) : Bool :=
  s.powered && s.prompt.isEmpty && (s.outside.1).isNone &&
    match s.outside.2.nexts with
    | [.issue c] =>
      match c.ready with
      | .issue cur h _ => cur.word == w && h.isSome == header
      | _ => false
    | _ => false

theorem issues_next {s : State} {w : DWord} {header : Bool} (h : issuesNext s w header = true) :
    ∃ u c cur hd t, s.powered = true ∧ s.prompt = [] ∧ s.outside = (none, u)
      ∧ choose u.nexts (Config.order u.draws) = some (.issue c) ∧ c.ready = .issue cur hd t ∧ cur.word = w ∧ hd.isSome = header := by
  unfold issuesNext at h
  simp only [Bool.and_eq_true, List.isEmpty_iff, Option.isNone_iff_eq_none] at h
  obtain ⟨⟨⟨h1, h2⟩, h3⟩, h4⟩ := h
  split at h4
  · rename_i c hn
    split at h4
    · rename_i cur hd t hr
      simp only [Bool.and_eq_true, beq_iff_eq] at h4
      exact ⟨s.outside.2, c, cur, hd, t, h1, h2, Prod.ext h3 rfl, by rw [hn]; rfl, hr, h4.1, h4.2⟩
    · cases h4
  · cases h4

/-- StepRunsDecodedInstruction: an instruction alone, and one that issues with its clause's header. -/
theorem witness_StepRunsDecodedInstruction :
    (∃ u c cur t, (State.reset.withFetchWord 64 (wordOf (.iadd (fl 1 2 3 0))).toNat).powered = true
      ∧ (State.reset.withFetchWord 64 (wordOf (.iadd (fl 1 2 3 0))).toNat).prompt = []
      ∧ (State.reset.withFetchWord 64 (wordOf (.iadd (fl 1 2 3 0))).toNat).outside = (none, u)
      ∧ choose u.nexts (Config.order u.draws) = some (.issue c) ∧ reads cur.word (.iadd (fl 1 2 3 0)) ∧ c.ready = .issue cur none t)
    ∧ ∃ u c cur h t, (State.reset.withFetchWord 64 0xCA00_0000_0000_0001).powered = true
      ∧ (State.reset.withFetchWord 64 0xCA00_0000_0000_0001).prompt = []
      ∧ (State.reset.withFetchWord 64 0xCA00_0000_0000_0001).outside = (none, u)
      ∧ choose u.nexts (Config.order u.draws) = some (.issue c) ∧ reads cur.word (.nop (fl 0 0 0 0 0 0)) ∧ c.ready = .issue cur (some h) t := by
  constructor
  · obtain ⟨u, c, cur, hd, t, h1, h2, h3, h4, h5, h6, h7⟩ := issues_next
      (s := State.reset.withFetchWord 64 (wordOf (.iadd (fl 1 2 3 0))).toNat) (w := wordOf (.iadd (fl 1 2 3 0))) (header := false)
      (by decide +kernel)
    cases hd with
    | some h => cases h7
    | none => exact ⟨u, c, cur, t, h1, h2, h3, h4, h6 ▸ ⟨by rfl, by decide +kernel, fun h => by simp⟩, h5⟩
  · obtain ⟨u, c, cur, hd, t, h1, h2, h3, h4, h5, h6, h7⟩ := issues_next
      (s := State.reset.withFetchWord 64 0xCA00_0000_0000_0001) (w := 0) (header := true) (by decide +kernel)
    cases hd with
    | none => cases h7
    | some h => exact ⟨u, c, cur, h, t, h1, h2, h3, h4, h6 ▸ ⟨by rfl, by decide +kernel, fun h => by simp⟩, h5⟩

/-- IssueSelection: a plan, of a word and of a header; a group that may issue. -/
theorem witness_IssueSelection :
    (∃ s g m cur h t, State.plan s g m = (.go cur h, t)) ∧ (∃ s g m cur h t, State.plan s g m = (.go cur (some h), t))
    ∧ ∃ (s : State) (g : Group), g.fwd = false ∧ g.lanes.length = 32 ∧ s.over g 0 = true ∧ g.active ≠ 0 := by
  have plan (w : Nat) (hdr : Bool)
      (h : (match (State.reset.withFetchWord 64 w).group? 1 with
        | none => false
        | some g => match (State.plan (State.reset.withFetchWord 64 w) g Mask.all).1 with
          | .go _ hd => hd.isSome == hdr
          | _ => false) = true) :
      ∃ s g m cur hd t, State.plan s g m = (.go cur hd, t) ∧ hd.isSome = hdr := by
    split at h
    · cases h
    · rename_i g hg
      split at h
      · rename_i cur hd hp
        exact ⟨_, g, Mask.all, cur, hd, _, Prod.ext hp rfl, beq_iff_eq.1 h⟩
      · cases h
  refine ⟨?_, ?_, ?_⟩
  · obtain ⟨s, g, m, cur, hd, t, h, -⟩ := plan 0 false (by decide +kernel)
    exact ⟨s, g, m, cur, hd, t, h⟩
  · obtain ⟨s, g, m, cur, hd, t, h, h'⟩ := plan 0xCA00_0000_0000_0001 true (by decide +kernel)
    obtain ⟨x, rfl⟩ := Option.isSome_iff_exists.1 h'
    exact ⟨s, g, m, cur, x, t, h⟩
  · exact ⟨State.reset, Group.fresh 1 1 0 0 255 false 0 0 (List.replicate 32 ⟨Pos.fall 0, .running, Pos.fall 0, false, false⟩),
      by decide +kernel⟩

/-- ResetState, ResetDiscards. -/
theorem witness_ResetState : State.reset.fitting.portCfg ≠ 15 ∧ State.reset.powered = true := by decide +kernel

/-- A state in which nothing is cached is coherent. -/
theorem coherent_bare {s : State} (hl : s.lines = []) (hc : ∀ c, (s.cu c).l1 = []) : Coherent s := by
  have line : ∀ l, s.line l = Line.reset := fun l => by simp [State.line, hl, sget]
  have l1 : ∀ c w, s.l1? c w = none := fun c w => by simp [State.l1?, hc]
  have reg : ∀ w, s.registered? w = none := fun w => by simp only [State.registered?, line]; rfl
  exact {
    tokens := fun l => by rw [line]; rfl
    owner := fun l => by rw [line]; exact ⟨rfl, by decide⟩
    ordered := fun l => by rw [line]; exact ⟨.nil, .nil⟩
    sorted := fun c => by rw [hc]; exact .nil
    inLine := fun l => by rw [line]; exact ⟨fun _ h => (List.not_mem_nil h).elim, fun _ h => (List.not_mem_nil h).elim⟩
    holds := fun w c h => by rw [reg] at h; cases h
    known := fun w c v h => by rw [l1] at h; cases h
    dirty := fun w c v h => by rw [l1] at h; cases h }

/-- The state from which most of the tests start, with nothing issuing. -/
def ready : State := withTables (State.reset.withFetchWord 64 0)

theorem cus_bare {s : State} (h : s.cus = ready.cus) (c : Nat) : (s.cu c).l1 = [] := by
  rw [State.cu, h]
  show ((sget Cu.empty [(0, _)] c)).l1 = []
  by_cases h : c = 0
  · subst h; rfl
  · simp [sget, show ¬ 0 = c from fun h' => h h'.symm, Cu.empty]

theorem ready_coherent : Coherent ready := coherent_bare (by rfl) (cus_bare rfl)

/-- Nothing in an L1, nothing sent. -/
theorem noneSent_bare {s : State} (hc : ∀ c, (s.cu c).l1 = []) : noneSent s := fun c => by simp [Cu.sentWords, hc]
theorem ready_noneSent : noneSent ready := noneSent_bare (cus_bare rfl)

/-- A word of which no cache holds a newer value has the home's. -/
theorem word_home {s : State} {w : Nat} (hr : s.registered? w = none) (hp : s.privateDirty? w = none)
    (hd : (s.line (w / 32)).dirty = []) : s.word w = s.homeWord w := by
  simp [State.word, hr, hp, hd]

/-- Where no CU holds a dirty word, no private page has one. -/
theorem privateDirty_none {s : State} {w : Nat} (h : ∀ c x, s.l1? c w = some x → x.state ≠ .dirty) : s.privateDirty? w = none := by
  have : s.dirtyAt? w = none := by
    unfold State.dirtyAt?
    rw [Option.filter_eq_none_iff]
    intro c _ hc
    obtain ⟨x, hx, e⟩ := Option.any_eq_true _ _ |>.1 hc
    exact h c x hx (by simpa using e)
  rw [State.privateDirty?, this]
  rfl

theorem tableRead_bare {s : State} (hl : s.lines = []) (hc : ∀ c, (s.cu c).l1 = []) : tableRead s := fun w _ =>
  word_home (by simp [State.registered?, State.line, hl, sget, Line.reset])
    (privateDirty_none fun c x h => by simp [State.l1?, hc] at h) (by simp [State.line, hl, sget, Line.reset])

theorem ready_tableRead : tableRead ready := tableRead_bare (by rfl) (cus_bare rfl)

theorem stepped {o : Host.Outcome State Fault Refusal} (h : (match o with | .next _ => true | _ => false) = true) :
    ∃ t, o = .next t := by
  cases o with
  | next t => exact ⟨t, rfl⟩
  | fault _ => cases h
  | refused _ => cases h

/-- StepKeepsSound and StepKeepsCoherent: a step from a state that is sound and coherent. -/
theorem witness_StepKeeps : MemoryCanonical ready ∧ TokensConserved ready ∧ Coherent ready ∧ ∃ t, step ready = .next t := by
  refine ⟨by unfold MemoryCanonical; decide +kernel, ready_coherent.tokens, ready_coherent, ?_⟩
  have h : (match step ready with | .next _ => true | _ => false) = true := by
    decide +kernel
  exact stepped h

/-! ### Checks, faults, joins -/

/-- InstructionChecks: an instruction for each check that may fail first, and one that passes them all. -/
theorem witness_ChecksInOrder :
    (Instr.unassignedOpcode 0xFF (fl 0 0 0 0)).sig? = none
    ∧ ((Instr.mma (fl 0 0 0 0)).sig? ≠ none ∧ fwdUnassigned (opcodeOf (wordOf (.mma (fl 0 0 0 0)))) = true)
    ∧ ((Instr.faddF32 (fl 1 2 3 0)).sig? ≠ none ∧ classOf (opcodeOf (wordOf (.faddF32 (fl 1 2 3 0)))) = some 1
      ∧ 1 ≠ engineOf (0xCA00_0000_0000_0001 : DWord))
    ∧ ((Instr.nop (fl 1 0 0 0)).sig? ≠ none ∧ classOf (opcodeOf (wordOf (.nop (fl 1 0 0 0)))) = none ∧ ¬ WellFormed (.nop (fl 1 0 0 0)))
    ∧ (WellFormed (.jwait (fl 8 0 0 0)) ∧ ∃ sg, (Instr.jwait (fl 8 0 0 0)).sig? = some sg ∧ sg.dst = .j)
    ∧ (Kind.ok (.packed 3 16 16) 0x29 = false)
    ∧ (WellFormed (.iadd (fl 1 2 200 0)) ∧ ((Instr.iadd (fl 1 2 200 0)).sig?.map fun sg =>
        (touched sg Guard.plain (fl 1 2 200 0)).find? fun r => 64 ≤ r) = some (some 200))
    ∧ (asmkGuard State.reset (Group.fresh 1 1 0 0 255 false 0 0 []) (fl 4 10 0 0 3)).priv = true
    ∧ (madGuard { State.reset with fitting := { Fitting.named with x4l := true } } (Group.fresh 1 1 0 0 255 false 0 0 [])
        (fl 0 0 0 0)).unit = some 0
    ∧ (mapGuard State.reset (Group.fresh 1 1 0 0 255 false 0 0 []) (fl 6 0x21 0 0)).slot = some 1 := by
  refine ⟨rfl, ⟨?_, ?_⟩, ⟨?_, ?_, ?_⟩, ⟨?_, ?_, ?_⟩, ⟨?_, _, rfl, rfl⟩, ?_, ⟨?_, ?_⟩, ?_, ?_, ?_⟩ <;> decide +kernel

/-- InstructionChecks, UnassignedOpcodeFaults. -/
theorem witness_UnassignedOpcode :
    let s : State := { ready with cur := some ⟨1, Mask.all, 8, 0, 0xCA00_0000_0000_0001, 0xFF00_0000_0000_03F0⟩ }
    ∃ cur g, s.cur = some cur ∧ s.group? cur.group = some g
      ∧ s.stalled g (fieldOf cur.word 56 8) (fl 0 0 0 0) cur.lanes = false := by
  intro s
  exact ⟨_, (s.group? 1).get (by decide +kernel), rfl, by exact (Option.some_get _).symm, by decide +kernel⟩

/-- A state of group 1 in a launch with a trap handler at 0x4000, and the group. -/
def trapping (F : Group → Group) : State := withInfo (fun r => { r with trap := 0x4000 }) (withGroup F ready)
def groupOf (s : State) : Group := (s.group? 1).getD (Group.fresh 0 0 0 0 0 false 0 0 [])

/-- A record of TENSOR_BOUNDS, of class TH, and one of UNCORRECTABLE, of class FA. -/
def aFault : FaultRecord := ⟨0x23, 1, 0, 8, 0⟩
def aFatal : FaultRecord := ⟨0x30, 1, 0, 8, 0⟩

/-- TrapEntry: with nothing pending, with a register pending, and the entry that was waited for. -/
theorem witness_TrapEntry :
    let s := trapping id
    let p := trapping fun g => { g with ops := [{ anOp with dsts := [3], pend := 1 }] }
    let w := trapping fun g => { g with trapWait := some aFault }
    (s.group? (groupOf s).id = some (groupOf s) ∧ trapOf s (groupOf s) ≠ 0 ∧ (groupOf s).handler = false
      ∧ goesToHandler s (groupOf s) aFault false ∧ (groupOf s).noPending = true)
    ∧ (p.group? (groupOf p).id = some (groupOf p) ∧ trapOf p (groupOf p) ≠ 0 ∧ (groupOf p).handler = false
      ∧ goesToHandler p (groupOf p) aFault false ∧ (groupOf p).noPending = false)
    ∧ (w.group? (groupOf w).id = some (groupOf w) ∧ (groupOf w).trapWait = some aFault ∧ w.running (groupOf w) = true
      ∧ (groupOf w).noPending = true) := by
  unfold goesToHandler
  decide +kernel

/-- FatalFaultsEndTheContext: a fatal fault, one without a handler, and one in the handler. -/
theorem witness_FatalFaults :
    let c := (ready.context? 0).getD (contextOf 0 0 0 false [] 0)
    let h := trapping fun g => { g with handler := true }
    (ready.group? (groupOf ready).id = some (groupOf ready) ∧ ready.contextOf? (groupOf ready) = some c ∧ c.state ≠ .ending
      ∧ fatalCodes.contains aFatal.fcode = true)
    ∧ (goesToHandler ready (groupOf ready) aFault false ∧ (groupOf ready).handler = false ∧ trapOf ready (groupOf ready) = 0)
    ∧ (h.group? (groupOf h).id = some (groupOf h) ∧ h.contextOf? (groupOf h) = some c ∧ goesToHandler h (groupOf h) aFault false
      ∧ (groupOf h).handler = true) := by
  unfold goesToHandler
  decide +kernel

/-- CompleteJoinsRelease: lanes wait at a join that is complete and at one that is not, and a lane runs on. -/
theorem witness_CompleteJoins :
    let s := withGroup (fun g =>
      ({ g with lanes := (List.range 32).map fun l =>
          if l < 2 then { g.lane l with park := .join 0 } else if l < 3 then { g.lane l with park := .join 15 } else g.lane l }.setJoin
        0 ⟨3, 3⟩).setJoin 15 ⟨0x80000004, 4⟩) ready
    let g := groupOf s
    s.group? g.id = some g ∧ g.handler = false ∧ g.lanes.length = 32 ∧ g.joins.length = 16 ∧ (∀ j, g.holders j = 0)
    ∧ (∀ l, l < 32 → (g.join 0).declared.has l = true → (g.join 0).signed.has l = true)
    ∧ ((g.join 15).declared.has 31 = true ∧ (g.join 15).signed.has 31 = false ∧ (g.lane 31).exited = false ∧ (g.lane 31).park = .running)
    ∧ (g.lane 1).park = .join 0 ∧ (g.lane 2).park = .join 15 := by
  intro s g
  refine ⟨?_, ?_, ?_, ?_, ?_, ?_, ?_, ?_, ?_⟩
  rotate_left 4
  · intro j
    have : ∀ l, l < 32 → (match (g.lane l).park with | .mma _ _ => false | _ => true) = true := by decide +kernel
    refine (Laws.mask_zero_iff _).2 fun l hl => ?_
    have hp : ∀ p : Park, (match p with | .mma _ _ => false | _ => true) = true → (match p with | .mma k _ => k == j | _ => false) = false := by
      intro p h
      cases p <;> first | rfl | cases h
    unfold Group.holders Group.parkedLanes
    rw [Laws.has_maskOf]
    exact (congrArg (fun b => decide (l < 32) && (!(g.lane l).exited && b)) (hp _ (this l hl))).trans (by simp)
  all_goals decide +kernel

/-- BarriersFlip, BarrierPhases: the count reached, at the most that a counted barrier expects, and one short of it. -/
theorem witness_BarrierPhases :
    let t : Team := { Team.new 1 1 0 0 false [0] 64 0 0 with
      barriers := [(3, ⟨384, 384, some true, false⟩), (4, ⟨383, 384, some true, true⟩), (5, ⟨1, 0, some false, false⟩)] }
    let s : State := { ready with teams := [t] }
    s.team? t.id = some t ∧ (∀ n, n = 3 ∨ n = 4 ∨ n = 5 → (t.barrier n).form ≠ none)
    ∧ (t.barrier 3).expected ≤ (t.barrier 3).count ∧ (t.barrier 4).count < (t.barrier 4).expected
    ∧ s.units t.id none ≤ (t.barrier 5).count := by
  refine ⟨by decide +kernel, ?_, by decide +kernel, by decide +kernel, by decide +kernel⟩
  rintro n (rfl | rfl | rfl) <;> decide +kernel

/-- MemoryWaits: a sleeping MWAIT whose word differs now, and one whose timeout has fallen due. -/
theorem witness_MwaitWakes :
    let f := fl 5 20 30 40
    let asleep (x y : Word) : State := { (reaching (withGroup (fun g => (put 40 y (put 30 x (put64 20 0x1000 g))).setWait 0
      (.mwait 0 f 1 (wordOf (.mwait f)))) ready)) with clock := 5 }
    let wakes (s : State) : Bool :=
      let g := groupOf s
      let p := g.posOf 1
      s.running g && (acting .grouped (waitOver true 0) ⟨g.id, 1, p.pc, p.hdr, p.word, wordOf (.mwait f)⟩ f [(0, 1)] s).isSome
    wakes (asleep 7 0) = true ∧ wakes (asleep 0 5) = true ∧ wakes (asleep 0 6) = false := by
  decide +kernel

/-! ### Numbers -/

/-- RoundingIsCorrect, ArithmeticRoundsOnce, RootsAndReciprocals, SelectionOrdersValues and ConversionsRoundOnce: codes of
every arithmetic format that stand for a number: the least and the greatest positive, and one; zero; a NaN. -/
theorem witness_codes : ∀ F ∈ arithmetic,
    (∃ x : ℝ, realOf F 1 = some x ∧ 0 < x) ∧ (∃ x : ℝ, realOf F (F.top - 1) = some x ∧ 0 < x)
    ∧ (∃ x : ℝ, realOf F (2 ^ (F.w + F.m) + 1) = some x ∧ x < 0) ∧ realOf F 0 = some 0
    ∧ isNan F (F.top + 1) ∧ F.top + 1 < 2 ^ F.width ∧ 2 ^ (F.w + F.m) + 1 < 2 ^ F.width := by
  have fin : ∀ (F : Fmt) (c n : Nat) (e : Int) (s : Bool), F.read c = .fin s n e → 0 < n →
      ∃ x : ℝ, realOf F c = some x ∧ (if s then x < 0 else 0 < x) := by
    intro F c n e s h hn
    refine ⟨_, by rw [realOf, h], ?_⟩
    have h2 : (0 : ℝ) < (n : ℝ) * (2 : ℝ) ^ e := by positivity
    cases s
    · simpa using h2
    · simp only [if_true]
      nlinarith [h2]
  have zero : ∀ F : Fmt, F.read 0 = .fin false 0 F.qmin → realOf F 0 = some 0 := by
    intro F h
    rw [realOf, h]
    simp
  intro F hF
  simp only [arithmetic, List.mem_cons, List.not_mem_nil, or_false] at hF
  obtain rfl | rfl | rfl | rfl := hF
  all_goals exact ⟨fin _ _ 1 _ false rfl (by decide), fin _ _ _ _ false rfl (by decide), fin _ _ 1 _ true rfl (by decide), zero _ rfl,
    by unfold isNan; decide, by decide, by decide⟩

/-- SelectionOrdersValues: values in order, equal, and the two zeros; RootsAndReciprocals: a number above zero. -/
theorem witness_order :
    (∃ x y : ℝ, realOf f32 0x3F800000 = some x ∧ realOf f32 0x40000000 = some y ∧ x < y)
    ∧ realOf f32 0 = some 0 ∧ realOf f32 0x80000000 = some 0 ∧ signOf f32 0x80000000 = true ∧ signOf f32 0 = false := by
  refine ⟨⟨1, 2, ?_, ?_, by norm_num⟩, ?_, ?_, by decide, by decide⟩
  · rw [realOf, show f32.read 0x3F800000 = .fin false (2 ^ 23) (-23) from rfl]
    norm_num
  · rw [realOf, show f32.read 0x40000000 = .fin false (2 ^ 23) (-22) from rfl]
    norm_num
  · rw [realOf, show f32.read 0 = .fin false 0 (-149) from rfl]
    norm_num
  · rw [realOf, show f32.read 0x80000000 = .fin true 0 (-149) from rfl]
    norm_num

/-- ConversionsRoundOnce: bounds that an integer type has. -/
theorem witness_bounds : leastOf 0 ≤ 0 ∧ 0 ≤ greatestOf 0 ∧ leastOf 1 ≤ 0 ∧ 0 ≤ greatestOf 1 ∧ (1 : Int) ≠ 0 := by decide

/-- ChunksRoundOnce: a product and an accumulator whose sum is not zero. -/
theorem witness_ChunksRoundOnce :
    ∃ (c : Nat) (x : ℝ) (as bs : List Machine.Num) (us vs : List ℝ), c < 2 ^ f32.width ∧ realOf f32 c = some x ∧ as.length = bs.length
      ∧ realNums as = some us ∧ realNums bs = some vs ∧ x + (List.zipWith (· * ·) us vs).sum ≠ 0 := by
  refine ⟨0, 0, [.fin false 3 0], [.fin true 1 2], [3], [-4], by decide, ?_, rfl, ?_, ?_, ?_⟩
  · rw [realOf, show f32.read 0 = .fin false 0 (-149) from rfl]
    norm_num
  · simp [realNums, realNum]
  · simp [realNums, realNum]
    norm_num
  · norm_num

/-- AffineResultsEnclose: ordinary forms of one symbol, an assignment, the values that they enclose, and a fresh id. -/
theorem witness_AffineResultsEnclose :
    ∃ (x y : Form) (e : Nat → ℝ) (u v : ℝ), ordinary x ∧ ordinary y ∧ (∀ n, |e n| ≤ 1) ∧ encloses x e u ∧ encloses y e v
      ∧ (70 : Nat) < 2 ^ 24 ∧ ∀ t ∈ x.terms ++ y.terms, t.id.toNat ≠ 70 := by
  have one : realOf f64 0x3FF0000000000000 = some 1 := by
    rw [realOf, show f64.read 0x3FF0000000000000 = .fin false (2 ^ 52) (-52) from rfl]
    norm_num
  have none' : realOf f32 0 = some 0 := by
    rw [realOf, show f32.read 0 = .fin false 0 (-149) from rfl]
    norm_num
  let x : Form := { centre := 0x3FF0000000000000, residue := 0, terms := [⟨5, 0x40000000⟩], void := false }
  have ho : ordinary x := by unfold ordinary; decide +kernel
  have he : encloses x (fun _ => 0) 1 := by
    refine ⟨rfl, .inr ?_⟩
    simp [centreOf, linearOf, residueOf, x, one, none']
  exact ⟨x, x, fun _ => 0, 1, 1, ho, ho, fun _ => by simp, he, he, by decide, by decide +kernel⟩

/-- AffineFamily, SymbolsInOrder: a hand that suffices, one that is short, and a Deck without allowance, whose hand is spent. -/
theorem witness_SymbolsInOrder :
    (takeIds 2 1 100 4 4).isSome = true ∧ (takeIds 2 1 100 4 36).isSome = true ∧ takeIds 2 0 100 4 5 = none
    ∧ takeIds (2 ^ 18) 3 100 4 5 = none := by
  decide +kernel

/-! ### Operations -/

/-- ResultsAndCounters, ResultsLand: an operation of known results that is outstanding. -/
theorem witness_ResultsLand :
    let o : Op := { anOp with dsts := [3], pend := 3, kind := .result [⟨3, 0, 7⟩, ⟨3, 31, 9⟩] [] }
    let s := withGroup (fun g => { g with ops := [o] }) ready
    s.group? (groupOf s).id = some (groupOf s) ∧ (groupOf s).op? o.id = some o ∧ ((groupOf s).ops.map Op.id).Nodup
    ∧ o.late = [] ∧ o.done = false ∧ ∀ w ∈ [(⟨3, 0, 7⟩ : RegWrite), ⟨3, 31, 9⟩], w.lane < 32 := by
  decide +kernel

/-- StoresAndOperations, OperationsLeave: words, a compare that matches and one that does not, and a line. -/
theorem witness_OperationsLeave :
    (2 ^ 32 - 1 < 2 ^ 32 ∧ 2 ^ 64 - 1 < 2 ^ 64) ∧ [(1 : Byte), 2, 3, 4].length = (if false then 8 else 4)
    ∧ natOfBytes [(1 : Byte), 2, 3, 4] = (0x04030201 : BitVec 64).toNat % 2 ^ (8 * 4)
    ∧ natOfBytes [(1 : Byte), 2, 3, 4] ≠ (0 : BitVec 64).toNat % 2 ^ (8 * 4) ∧ (List.replicate 128 (0xFF : Byte)).length = 128 := by
  decide +kernel

/-- AffineFamily, DeckTakesEffect: an ADECK that sets the Deck, outstanding. -/
theorem witness_DeckTakesEffect :
    let o : Op := { anOp with cls := none, dsts := [8, 9, 10, 11], pend := 3, kind := .deck 2 5 8 }
    let s := withGroup (fun g => { g with ops := [o] }) ready
    s.group? (groupOf s).id = some (groupOf s) ∧ (groupOf s).op? o.id = some o ∧ ((groupOf s).ops.map Op.id).Nodup
    ∧ o.late = [] ∧ o.done = false ∧ (s.contextOf? (groupOf s)).isSome = true ∧ deckNext 2 5 1 0 = (5, 0) := by
  decide +kernel

/-- MemoryReadsBack: a coherent state in which nothing is sent, a load and a store that no count and no peer concerns, at the
last bytes of a page. -/
theorem witness_MemoryReadsBack :
    let a (op : AccessOp) : Access := ⟨0, 0x1FFC, .mem 0x200FFC, op, false, false, none, [], false⟩
    (Coherent ready ∧ noneSent ready ∧ tableRead ready ∧ offTable ready (wordsOf 0x200FFC 4)) ∧ (∀ n, (a (.store [1, 2, 3, 4])).op ≠ .covered n)
    ∧ (∀ n sg, (a (.store [1, 2, 3, 4])).op ≠ .load n sg)
    ∧ (a (.load 4 false)).count = none ∧ (a (.store [1, 2, 3, 4])).op ≠ .zeroLine
    ∧ (∀ k, k < 4 → inPeer (0x200FFC + k) = false) ∧ (∀ w ∈ wordsOf 0x200FFC 4, ready.l1? 0 w = none)
    ∧ ready.zeroingFrame 0x200FFC = false
    ∧ (a (.store [1, 2, 3, 4])).op.after (ready.peek 0x200FFC 4) = some [1, 2, 3, 4]
    ∧ (AccessOp.cas false 1 2).after (ready.peek 0x200FFC 4) = none :=
  ⟨⟨ready_coherent, ready_noneSent, ready_tableRead, by unfold offTable; decide +kernel⟩, fun n h => by simp at h, fun n sg h => by simp at h, by decide +kernel⟩

/-- What lets an access be made, evaluated. -/
theorem mayBeMade_of {s : State} {g : Group} {id pa : Nat} {a : Access} (hp : a.place = .mem pa)
    (h : (s.inTurn g id a && !s.isHeld g.id id a.lane pa && !s.peerGone pa && !s.caught pa a.op && !s.behindHeld pa a.op.size
      && !s.accessWaits g.cu (s.asidOf g) (some (g.id, id)) a pa false) = true)
    (hr : ∀ add v sig, a.op ≠ .rel add v (some sig)) : mayBeMade s g id a := by
  simp only [Bool.and_eq_true, Bool.not_eq_true'] at h
  obtain ⟨⟨⟨⟨⟨h1, h2⟩, h3⟩, h4⟩, h5⟩, h6⟩ := h
  refine ⟨h1, fun q hq => ?_⟩
  obtain rfl : pa = q := by rw [hp] at hq; injection hq
  exact ⟨h2, h3, h4, h5, h6, fun add v sig h => absurd h (hr add v sig)⟩

/-- AccessesComplete: an access of a lane that may be made, the last of its operation; a FENCE whose counters have fallen and
whose registrations are accepted; and an armed monitor whose word differs. -/
theorem witness_AccessesComplete :
    let a : Access := ⟨31, 0x1000, .mem 0x200000, .store [1, 2, 3, 4], false, false, none, [], false⟩
    let o : Op := { anOp with kind := .access [a] [] }
    let s := withGroup (fun g => { g with ops := [o] }) ready
    let p : Op := { anOp with kind := .fence 15 2 }
    let t := withGroup (fun g => { g with ops := [p] }) ready
    let u := reaching (withGroup (fun g => { g with monitors := g.monitors.set 3 ⟨true, false, true, 0, 0x1000, 5⟩ }) ready)
    mayBeMade s (groupOf s) o.id a
    ∧ (s.group? (groupOf s).id = some (groupOf s) ∧ (groupOf s).op? o.id = some o ∧ o.done = false ∧ a.isCovered = false
      ∧ a.lane < 32 ∧ [a].filter (fun b => b.lane == a.lane) = [a])
    ∧ (t.group? (groupOf t).id = some (groupOf t) ∧ (groupOf t).op? p.id = some p ∧ (groupOf t).counter 1 = 0
      ∧ (groupOf t).counter 3 = 0 ∧ (t.settleSent (groupOf t).cu).isSome = true)
    ∧ (u.group? (groupOf u).id = some (groupOf u) ∧ ((groupOf u).monitor 3).armed = true ∧ ((groupOf u).monitor 3).fired = false
      ∧ u.seen (groupOf u) ((groupOf u).monitor 3).scope ((groupOf u).monitor 3).va 8 = some 0 ∧ 0 ≠ ((groupOf u).monitor 3).expect.toNat) :=
  ⟨mayBeMade_of rfl (by decide +kernel) (fun add v sig h => by simp at h), by decide +kernel⟩

/-- WordsOfAccesses: the words of a 16-byte store, outstanding, and those of a record's load, before and after one is read. -/
theorem witness_WordsOfAccesses :
    let bs : List Byte := [1, 2, 3, 4, 5, 6, 7, 8, 9, 10, 11, 12, 13, 14, 15, 16]
    let a : Access := ⟨31, 0x1000, .mem 0x200000, .store bs, false, false, none, [], false⟩
    let l : Access := ⟨31, 0x1000, .mem 0x200000, .load 8 false, false, false, none, [3], false⟩
    let op (k : OpKind) : Op := { anOp with kind := k }
    let s (k : OpKind) := withGroup (fun g => { g with ops := [op k] }) ready
    let here (k : OpKind) : Prop := (s k).group? (groupOf (s k)).id = some (groupOf (s k))
      ∧ (groupOf (s k)).op? (op k).id = some (op k) ∧ (op k).done = false
    (8 < a.op.size ∧ a.pieces ≠ [])
    ∧ (here (.access a.pieces []) ∧ ∀ b ∈ a.pieces, b.isCovered = false ∧ together b = false
      ∧ mayBeMade (s (.access a.pieces [])) (groupOf (s (.access a.pieces []))) 9 b)
    ∧ ∀ read, (read = [] ∨ read = [⟨31, 8, bs.drop 8⟩]) →
      here (.formLoad [l] read) ∧ mayBeMade (s (.formLoad [l] read)) (groupOf (s (.formLoad [l] read))) 9 l := by
  refine ⟨by decide +kernel, ⟨by decide +kernel, fun b hb => ?_⟩, fun read hr => ?_⟩
  · have : b = ⟨31, 0x1000, .mem 0x200000, .store [1, 2, 3, 4, 5, 6, 7, 8], false, false, none, [], false⟩
        ∨ b = ⟨31, 0x1008, .mem 0x200008, .store [9, 10, 11, 12, 13, 14, 15, 16], false, false, none, [], false⟩ := by
      revert hb; revert b; decide +kernel
    rcases this with rfl | rfl
    all_goals exact ⟨rfl, rfl, mayBeMade_of rfl (by decide +kernel) (fun add v sig h => by simp at h)⟩
  · rcases hr with rfl | rfl
    all_goals exact ⟨by decide +kernel, mayBeMade_of rfl (by decide +kernel) (fun add v sig h => by simp at h)⟩

/-- R319: the two halves of a 16-byte store, and the registers of the halves of a 16-byte load. -/
theorem test_halves :
    let bs : List Byte := [1, 2, 3, 4, 5, 6, 7, 8, 9, 10, 11, 12, 13, 14, 15, 16]
    let a (op : AccessOp) : Access := ⟨0, 0x1000, .mem 0x200000, op, false, false, none, [4, 5, 6, 7], false⟩
    ((a (.store bs)).pieces.map fun y => (y.place, y.op)) =
      [(.mem 0x200000, .store [1, 2, 3, 4, 5, 6, 7, 8]), (.mem 0x200008, .store [9, 10, 11, 12, 13, 14, 15, 16])]
    ∧ ((a (.load 16 false)).pieces.map fun y => (y.place, y.rets)) = [(.mem 0x200000, [4, 5]), (.mem 0x200008, [6, 7])]
    ∧ (a (.load 8 false)).pieces = [a (.load 8 false)] := by decide

/-- TilesLand, UnitsOfCopies: a copy of two rows, of which a unit takes the end of one and the start of the other. -/
theorem witness_UnitsOfCopies :
    let m (n : Nat) : Move := ⟨n, .param 0, .scratch 1 0 (6 * n), 6, false, false, none, none⟩
    let k : OpKind := .copy [m 0, m 1] (.copy 1) [] .none
    let o : Op := { anOp with cls := some 1, kind := k }
    let s := withGroup (fun g => { g with ops := [o] }) ready
    (s.group? (groupOf s).id = some (groupOf s) ∧ (groupOf s).op? o.id = some o ∧ o.done = false)
    ∧ (s.held = [] ∧ s.slots = [] ∧ s.poison = [] ∧ ∀ t ∈ s.teams, t.poison = [])
    ∧ (5 < (m 0).size ∧ 0 < (MoveOp.copy 1).grain)
    ∧ ([m 0, m 1].flatMap fun x => (x.split ((m 0).unit (.copy 1) 5).1 ((m 0).unit (.copy 1) 5).2).2) ≠ [] := by
  decide +kernel

/-- TilesLand, CopyMovesBytes: a run from memory to scratchpad that is moved, and one back. -/
theorem witness_CopyMovesBytes :
    let pad : Place := .scratch 1 0 8
    let m (b : Bool) : Move := ⟨0, if b then pad else .mem 0x200000, if b then .mem 0x200000 else pad, 4, false, false, none, none⟩
    (Coherent ready ∧ noneSent ready) ∧ (∀ b off, (m b).src ≠ .param off ∧ (m b).dst ≠ .param off)
    ∧ (∀ b, (m b).srcCount = none ∧ (m b).dstCount = none
      ∧ (ready.runUnit (groupOf ready) 9 (.copy 4) [] [] [m b]).1 = true)
    ∧ (∀ k, k < 4 → inPeer (0x200000 + k) = false) ∧ ready.zeroingFrame 0x200000 = false ∧ (ready.team? 1).isSome = true :=
  ⟨⟨ready_coherent, ready_noneSent⟩, fun b off => by cases b <;> exact ⟨fun h => (by cases h), fun h => (by cases h)⟩,
    by decide +kernel⟩

/-- R290: a write across lines enters each of them: 512 bytes from byte 64 of a line stand in five lines. -/
theorem test_lines_of_a_run :
    (⟨0, 0, .mem 0x200040, .store (List.replicate 512 0), true, false, none, [], false⟩ : Access).lines =
      [0x4000, 0x4001, 0x4002, 0x4003, 0x4004] := by decide

/-- MatrixEngine, MatrixEngineRuns: the head of the queue, to be started and started. -/
theorem witness_MatrixEngineRuns :
    let o (b : Bool) : Op := { anOp with cls := some 2, kind := .matrix [⟨3, 0, 7⟩] [] b }
    let s (b : Bool) := withCu (fun k => { k with matrixQueue := [(1, 9)] }) (withGroup (fun g => { g with ops := [o b] }) ready)
    ∀ b, (s b).group? (groupOf (s b)).id = some (groupOf (s b)) ∧ (groupOf (s b)).op? (o b).id = some (o b)
      ∧ ((s b).cu 0).matrixQueue = ((groupOf (s b)).id, (o b).id) :: [] ∧ ((groupOf (s b)).ops.map Op.id).Nodup
      ∧ (o b).fixed = [] ∧ (groupOf (s b)).redirect = none := by
  decide +kernel

/-- TilesLand, CopiesLand: a copy without a run left, to a tag, and one whose run a held write keeps back; and data for a
collective of a context. -/
theorem witness_CopiesLand :
    let o (ms : List Move) : Op := { anOp with cls := some 1, kind := .copy ms (.copy 4) [3] (.tag 63) }
    let s (ms : List Move) := withGroup (fun g => { g with ops := [o ms] }) ready
    let m : Move := ⟨0, .scratch 1 0 0, .mem 0x200000, 4, false, false, none, none⟩
    let t : State := { s [m] with held := [⟨7, .host, 0x200000, .store [1, 2, 3, 4], [], true, [], false, [], []⟩] }
    let r := (s []).moveAll 1 9 (.copy 4) [] [] [] [3]
    let u := r.2.2.setKind 1 9 (.copy r.1 (.copy 4) r.2.1 (.tag 63))
    ((s []).group? (groupOf (s [])).id = some (groupOf (s [])) ∧ (groupOf (s [])).op? 9 = some (o []) ∧ (o []).done = false
      ∧ r.1 = [] ∧ (u.group? 1).map Group.team = some (groupOf (s [])).team
      ∧ (u.group? 1).map Group.index = some (groupOf (s [])).index)
    ∧ (t.moveAll 1 9 (.copy 4) [] [] [m] []).1 ≠ [] ∧ (ready.context? 0).isSome = true := by
  decide +kernel

/-! ### The registry's events -/

/-- Assumptions, AssumptionsMade: descriptors that are refused, beyond the quota, and of an assumption that is made; a region
whose assumption holds and one whose does not. -/
theorem witness_AssumptionsMade :
    let c (quota : Nat) : Context := { (ready.context? 0).getD (contextOf 0 0 0 false [] 0) with quota := quota }
    let s : State := { ready with contexts := [c 16] }
    let x : Nat := 2 + 2 ^ 64 * 0x1000
    (2 < 4 ∧ (c 16).asid < 1024 ∧ descriptorOk 0 2 = false)
    ∧ (descriptorOk x 2 = true ∧ (c 0).quota ≤ s.slotsHeld (c 0).asid)
    ∧ (s.makeAssumption (c 16) 2 x).1 = 0 ∧ (s.makeAssumption (c 16) 1 x).1 ≠ 0
    ∧ (∀ st, (st = .live ∨ st = .broken) → ∃ l, (withRegion st ready).launchOf? (groupOf (withRegion st ready)) = some l) := by
  intro c s x
  refine ⟨?_, ?_, ?_, ?_, ?_⟩
  rotate_left 4
  · rintro st (rfl | rfl) <;> exact ⟨_, (Option.some_get (by decide +kernel)).symm⟩
  all_goals decide +kernel

/-- A group that is resident in the region whose assumption is in slot 5, with the revocation of that slot. -/
def revoking (v : Revocation) (F : Group → Group) : State :=
  { withGroup (fun g => F { g with region := some 0 }) (withRegion .broken ready) with
    slots := [(5, { aSlot .broken with reason := 1, revocation := some v })] }

/-- RevocationsRun: a held write next to be evaluated; a dependant to be stopped; one that is stopped, in the machine and in
its saved image; and a revocation with every acknowledgement. -/
theorem witness_RevocationsRun :
    let h : Held := ⟨7, .host, 0x200000, .store [1, 2, 3, 4], [], true, [], false, [], []⟩
    let s : State := { ready with held := [h], slots := [(5, { aSlot .live with watches := [⟨0x1000, 0x200000, 0x200000, 8⟩] })] }
    let d := revoking ⟨1, [(1, 0)], []⟩ id
    let w := revoking ⟨1, [], [(1, 0)]⟩ fun g => { g with redirect := some ⟨0x40, 9, 0x1100005, false⟩ }
    let i := withTeam (fun t => { t with residency := .waiting }) w
    (findId Held.id s.held h.id = some h ∧ s.evaluable h = true
      ∧ leavings h.ops (s.peek h.place h.op.size) = [[1, 2, 3, 4]] ∧ (s.slot 5).state = .live ∧ 5 ∈ s.watchers h.place h.op.size
      ∧ s.holds (s.slot 5) h.place [1, 2, 3, 4] = false)
    ∧ ((d.slot 5).revocation = some ⟨1, [(1, 0)], []⟩ ∧ d.group? (groupOf d).id = some (groupOf d) ∧ d.beyond (groupOf d) 5 = false
      ∧ (groupOf d).handler = false ∧ (groupOf d).redirect = none ∧ (groupOf d).region = some 0
      ∧ (∃ l, d.launchOf? (groupOf d) = some l ∧ l.regions[0]? = some ⟨0, 0x80, 0x40, 9, [0]⟩))
    ∧ (∀ u, (u = w ∨ u = i) → u.group? (groupOf u).id = some (groupOf u) ∧ u.awaits 5 (groupOf u).id = true
      ∧ (groupOf u).redirect = some ⟨0x40, 9, 0x1100005, false⟩ ∧ (groupOf u).handler = false ∧ (groupOf u).live ≠ 0
      ∧ (groupOf u).lanes.length = 32 ∧ (0x40 : DWord) ≠ exitedPc ∧ ∃ c, u.contextOf? (groupOf u) = some c ∧ c.state ≠ .ending)
    ∧ (w.saved (groupOf w) = false ∧ w.readsDone (groupOf w) = true) ∧ (i.saved (groupOf i) = true ∧ i.readsDone (groupOf i) = true)
    ∧ (revoking ⟨1, [], []⟩ id).acked 5 = true := by
  intro h s d w i
  refine ⟨?_, ⟨?_, ?_, ?_, ?_, ?_, ?_, ⟨_, (Option.some_get (by decide +kernel)).symm, ?_⟩⟩, ?_, ?_, ?_, ?_⟩
  rotate_left 8
  · rintro u (rfl | rfl)
    all_goals
      refine ⟨?_, ?_, ?_, ?_, ?_, ?_, ?_, _, (Option.some_get (by decide +kernel)).symm, ?_⟩ <;> decide +kernel
  all_goals decide +kernel

/-! ### Spawns -/

/-- SpawnsAndLaunches, SpawnedGroups: bins that take a record, are filled by it, are missing, and time out; and a pending
group that fits. -/
theorem witness_SpawnedGroups :
    let r : ThreadRecord := ⟨0, 0x1000, [1, 2, 3, 4]⟩
    let b (n left : Nat) : Bin := ⟨3, 0, 0, 1, 0x1000, 2 ^ 48 * 8, List.replicate n r, left⟩
    let s (n left : Nat) : State := { ready with bins := [b n left] }
    let entry : State := ready.setBytes 0x200000 (bytesOfNat 8 0xCB08_0000_0000_0000)
    let o : Op := { anOp with kind := .spawn [r] 3 }
    let g := withGroup (fun g => { g with ops := [o] }) ready
    let p : Pending := ⟨4, 0, 0, 1, 0x1000, 2 ^ 48 * 8, List.replicate 32 r, 0⟩
    let w : State := { ready with pending := [p] }
    ((s 30 9).binFor 0 0 1 r.entry = some (b 30 9) ∧ (b 30 9).records.length < 31)
    ∧ ((s 31 9).binFor 0 0 1 r.entry = some (b 31 9) ∧ (b 31 9).records.length = 31 ∧ (s 31 9).queued 0 < 256)
    ∧ (entry.spawnEntry? ((ready.context? 0).getD (contextOf 0 0 0 false [] 0)) 0x1000).isSome = true
    ∧ (ready.binFor 0 0 1 r.entry = none ∧ ready.spawnEntry? ((ready.context? 0).getD (contextOf 0 0 0 false [] 0)) 0x1004 = none)
    ∧ (g.group? (groupOf g).id = some (groupOf g) ∧ (groupOf g).op? o.id = some o ∧ o.done = false
      ∧ (g.contextOf? (groupOf g)).isSome = true ∧ (g.launchOf? (groupOf g)).isSome = true)
    ∧ (findId Bin.id (s 1 0).bins 3 = some (b 1 0) ∧ (b 1 0).left = 0 ∧ ((s 1 0).context? 0).map Context.state = some .running
      ∧ (s 1 0).queued 0 < 256)
    ∧ (findId Bin.id (s 32 9).bins 3 = some (b 32 9) ∧ 32 ≤ (b 32 9).records.length)
    ∧ (∃ x cus, w.nextWork = some x ∧ x.die = some 0 ∧ x.job = .spawn p.id ∧ findId Pending.id w.pending p.id = some p
      ∧ w.setOf x 0 (some 0) = some cus ∧ (∀ c ∈ cus, w.converted x c = true) ∧ p.records.length ≤ 32
      ∧ ∀ r ∈ p.records, r.args.length = 4) := by
  intro r b s entry o g p w
  refine ⟨?_, ?_, ?_, ?_, ?_, ?_, ?_, w.nextWork.get (by decide +kernel), [0], (Option.some_get _).symm, ?_, ?_, ?_, ?_, ?_, ?_, ?_⟩
    <;> decide +kernel

/-! ### Fetch and translation -/

/-- HeadersAndFetches: a header whose class a role does not admit, one that waits, one that passes; a miss; a line that
arrives; IPREF has a witness of its own. -/
theorem witness_HeadersAndFetches :
    let h (engine : BitVec 3) (mask : BitVec 7) : Header := ⟨0, 0, 0, mask, 0, engine, 1⟩
    let at' (F : Group → Group) : State :=
      { withGroup F ready with cur := some ⟨1, Mask.all, 0, 0, 0xCA00_0000_0000_0001, 0xCA00_0000_0000_0001⟩ }
    let copy := at' fun g => { g with role := 1 }
    let busy := at' fun g => { g with ops := [anOp] }
    let empty := withCu (fun k => { k with lines := [] }) ready
    let x : Fetching := ⟨0, 0, 0x100000, none, false⟩
    let filling := withCu (fun k => { k with lines := [], fetching := [x] }) ready
    (copy.group? 1 = some (groupOf copy) ∧ (h 6 0).engine ≠ 7 ∧ (groupOf copy).role < 4 ∧ ¬ admitsClass (groupOf copy) 1)
    ∧ (admitsClass (groupOf busy) 6 ∧ ¬ headerPasses (groupOf busy) 0 (h 6 1)) ∧ headerPasses (groupOf busy) 0 (h 6 0x7E)
    ∧ (empty.missOf (groupOf empty) (empty.fronts (groupOf empty))).isSome = true
    ∧ (Coherent filling ∧ tableRead filling ∧ filling.peerGone x.pa = false ∧ (filling.cu 0).fetching.find? (fun y => y.asid == x.asid && y.va == x.va) = some x ∧ x.pa % 128 = 0
      ∧ inPeer x.pa = false ∧ x.count = none ∧ filling.accessWaits 0 x.asid none x.access x.pa true = false ∧ noneSent filling) := by
  intro h at' copy busy empty x filling
  have bare : ∀ c, (filling.cu c).l1 = [] := fun c => by
    show ((sget Cu.empty [(0, _)] c)).l1 = []
    by_cases hc : c = 0
    · subst hc; rfl
    · simp [sget, show ¬ 0 = c from fun h' => hc h'.symm, Cu.empty]
  refine ⟨?_, ?_, ?_, ?_, coherent_bare (by rfl) bare, tableRead_bare (by rfl) bare, ?_, ?_, ?_, ?_, rfl, ?_, noneSent_bare bare⟩
  · unfold admitsClass; decide +kernel
  · unfold admitsClass headerPasses; decide +kernel
  · unfold headerPasses; decide +kernel
  all_goals decide +kernel

/-- WalksAndPageRequests: a walk that succeeds and one that fails; a request to send, one that is answered, for a group that is
parked on it; and a capability. -/
theorem witness_WalksAndPageRequests :
    let c := (ready.context? 0).getD (contextOf 0 0 0 false [] 0)
    let q (b : Bool) : PageRequest := ⟨3, 0, 0, 0, 0x5000, false, false, b, [1]⟩
    let s (b : Bool) : State := { withGroup (fun g => { g with parked := some ⟨0x120, 1, 0, 8, 0x5010⟩ }) ready with pageReqs := [q b] }
    (ready.context? c.asid = some c ∧ c.hosttab = false ∧ (match (ready.translate 0 .data c 0x1000 .readWrite).1 with | .ok _ => true | .error _ => false) = true
      ∧ (match (ready.translate 0 .data c 0x5000 .read).1 with | .ok _ => true | .error _ => false) = false)
    ∧ (findId PageRequest.id (s false).pageReqs 3 = some (q false)
      ∧ (s false).pageReqs.find? (fun p => !p.sent && p.func == 0) = some (q false) ∧ ((s false).func 0).failed = false
      ∧ ((s false).pageReqs.filter fun p => p.sent && p.func == 0).length < min 512 ((s false).func 0).alloc)
    ∧ (findId PageRequest.id (s true).pageReqs 3 = some (q true) ∧ (q true).va % 4096 = 0
      ∧ (s true).group? 1 = some (groupOf (s true)) ∧ (s true).groups.filter (fun h => (parkedFor (q true) h).isSome) = [groupOf (s true)]
      ∧ parkedFor (q true) (groupOf (s true)) = some ⟨0x120, 1, 0, 8, 0x5010⟩ ∧ (groupOf (s true)).redirect = none)
    ∧ ({ ready with input := { Input.none with fn := 63 } } : State).input.fn < 64 := by
  decide +kernel

/-! ### The spec's worked results -/

/-- The table of BWIN (R133). -/
theorem test_bwin : [0x0000_0008, 0x0000_0E07, 0x0000_00C2, 0x0000_0005].map (bwin 0x4433_2211 0x8877_6655)
    = [0x1122_3344, 0xFFFF_FF88, 0x0000_4433, 0x1188_7766] := by
  decide

/-- The example of ASUB and AADD: one shared symbol cancels, and a centre's rounding error goes into the residue (R222). -/
theorem test_affine_sums :
    let x : Form := ⟨0x4024_0000_0000_0000, 0, [⟨70, 0x3F00_0000⟩], false⟩
    let y : Form := ⟨0x4010_0000_0000_0000, 0, [⟨70, 0x3F00_0000⟩, ⟨71, 0x3E80_0000⟩], false⟩
    aaddsub true x y = ⟨0x4018_0000_0000_0000, 0, [⟨71, 0xBE80_0000⟩], false⟩
    ∧ aaddsub false x y = ⟨0x402C_0000_0000_0000, 0, [⟨70, 0x3F80_0000⟩, ⟨71, 0x3E80_0000⟩], false⟩
    ∧ (aaddsub false { x with terms := [] } ⟨0x3C30_0000_0000_0000, 0, [], false⟩)
      = ⟨0x4024_0000_0000_0000, 0x2180_0000, [], false⟩ := by
  decide +kernel

/-- The example of term overflow (R224). -/
theorem test_affine_fold :
    foldTerms (some (0x3D80_0000, [⟨70, 0x3F00_0000⟩, ⟨71, 0x3E00_0000⟩, ⟨72, 0xBE80_0000⟩, ⟨80, 0x3E00_0000⟩, ⟨81, 0x3F80_0000⟩,
      ⟨90, 0xC000_0000⟩, ⟨130, 0x3E00_0000⟩]))
      = some (0x3E40_0000, [⟨70, 0x3F00_0000⟩, ⟨71, 0x3E00_0000⟩, ⟨72, 0xBE80_0000⟩, ⟨80, 0x3E00_0000⟩, ⟨81, 0x3F80_0000⟩,
        ⟨90, 0xC000_0000⟩]) := by
  decide +kernel

/-! ### Scheduling -/

/-- The context, and queue 2 with one entry at HEAD: its header at 0x1040, its 16 entries at 0x1400. -/
def aContext : Context := (ready.context? 0).getD (contextOf 0 0 0 false [] 0)
def queued (entry : Nat) : State :=
  (ready.setBytes 0x200040 (bytesOfNat 32 (0x1400 + 4 * 2 ^ 64 + 3 * 2 ^ 128 + 4 * 2 ^ 144))).setBytes 0x200460 (bytesOfNat 32 entry)
def aQueue : Queue := ⟨0x1400, 4, 3, 4⟩

/-- LaunchesRun: a doorbell that fills the queue, one that is not taken, and an entry at HEAD. -/
theorem witness_Queues :
    let s : State := { queued 1 with input := ⟨64, 0, BitVec.ofNat 64 (19 * 2 ^ 32 + 2 * 2 ^ 10), [], []⟩ }
    rings s aContext 2 19 aQueue
    ∧ (∀ c q tail h, ¬ rings { queued 1 with input := ⟨64, 0, BitVec.ofNat 64 (20 * 2 ^ 32 + 7 * 2 ^ 10), [], []⟩ } c q tail h)
    ∧ (s.context? aContext.asid = some aContext ∧ aContext.state = .running ∧ aContext.ckptWanted = false
      ∧ aContext.again.find? (fun e => e.1 == 2) = none ∧ s.queue? aContext 2 = some aQueue ∧ aQueue.count ≠ 0
      ∧ s.readVa aContext (aQueue.entry aQueue.head) 32 = some (bytesOfNat 32 1)
      ∧ s.writesFree aContext [(aContext.header 2, 32)] = true ∧ s.writesFree aContext (aQueue.writes aContext 2 aQueue.head) = true) := by
  intro s
  refine ⟨⟨?_, ?_, ?_, ?_, ?_, ?_, .inl rfl, ?_, ?_⟩, fun c q tail h ⟨_, _, h3, h4, _⟩ => h4 (h3.trans ?_), ?_⟩ <;> decide +kernel

/-- LaunchesRun: a node whose predecessor has completed; a group that retires alone and one with another in its team; and a
launch that is over: with a checkpoint kept, without, and in a graph of which a node has not completed. -/
theorem witness_LaunchEvents :
    let l : Launch := { fetchLaunch with started := false, graph := 8, node := 1, preds := 1 }
    let r : Graph := ⟨8, 0, 0, 0, 0, 0x1800, true, 3, 1⟩
    let n : State := { ready with launches := [l], graphs := [r] }
    let e : State := withGroup (fun g => { g with lanes := g.lanes.map fun x => { x with pos := Pos.fall exitedPc } }) ready
    let two : State := { e with groups := e.groups ++ [{ groupOf e with id := 7, index := 1 }] }
    let o (graph : Nat) : Launch := { fetchLaunch with retired := 1, graph := graph, node := 1 }
    let done (graph : Nat) (c : Context) : State :=
      { ready with launches := [o graph], contexts := [c], graphs := [r], teams := [], groups := [] }
    (n.launch? l.id = some l ∧ l.started = false ∧ l.graph ≠ 0 ∧ findId Graph.id n.graphs l.graph = some r
      ∧ (∀ k, k < 64 → l.preds.getLsbD k = true → r.ended.getLsbD k = true)
      ∧ ∀ h ∈ n.graphs, h.asid = r.asid → h.header = r.header → r.id ≤ h.id)
    ∧ (e.group? 1 = some (groupOf e) ∧ (groupOf e).live = 0 ∧ (groupOf e).ops = [] ∧ e.contextOf? (groupOf e) = some aContext
      ∧ aContext.state ≠ .ending ∧ (e.team? (groupOf e).team).isSome = true
      ∧ ∀ h ∈ (delId Group.id e.groups 1), h.team ≠ 1)
    ∧ (∃ h ∈ (delId Group.id two.groups 1), h.team = 1)
    ∧ overNow (done 0 aContext) (o 0) aContext ∧ overNow (done 8 aContext) (o 8) aContext ∧ (aContext.checkpoint = none
      ∧ (∃ v, (done 0 aContext).performAllSent = some v ∧ v.reportFree 0 (v.finishWrites (o 0)) = true)
      ∧ (done 8 aContext).performAllSent.isSome = true)
    ∧ (∃ k, k < r.count ∧ k ≠ (o 8).node ∧ r.ended.getLsbD k = false) ∧ r.count ≤ 64 ∧ findId Graph.id (done 8 aContext).graphs 8 = some r
    ∧ (let c : Context := { aContext with checkpoint := some ⟨0, [], [], [], [], [], [], [], [], [], []⟩ }
      overNow (done 0 c) (o 0) c ∧ c.checkpoint.isSome = true) := by
  unfold overNow
  intro l r n e two o done
  refine ⟨?_, ?_, ?_, ?_, ?_, ⟨?_, ⟨_, (Option.some_get (by decide +kernel)).symm, ?_⟩, ?_⟩, ⟨2, ?_⟩, ?_, ?_, ?_⟩ <;> decide +kernel

/-- A partition of one cluster, whose eight CUs a team of eight holds; launch 2, of a higher class, has a team to place. -/
def crowded (tm : Team) : State :=
  { ready with
    parts := [⟨1, 0xFFFFFF⟩]
    teams := [tm]
    launches := [fetchLaunch, { fetchLaunch with id := 2, placed := 0, info := { fetchRecord with sclass := 1 } }] }
def aTeam : Team := Team.new 1 1 0 0 false [0, 1, 2, 3, 4, 5, 6, 7] 64 0 0

/-- TeamsArePlaced: work that fits; a first team, a team that comes back, and a way to convert, on a coherent state. -/
theorem witness_TeamsArePlaced :
    let roomy : State := withCu (fun k => { k with scratchBlocks := 2 })
      { crowded aTeam with teams := [], groups := [], launches := [{ fetchLaunch with placed := 0 }] }
    let back : State := { crowded { aTeam with cus := [3], residency := .waiting } with launches := [fetchLaunch] }
    let narrow : State := withCu (fun k => { k with scratchBlocks := 0 }) roomy
    (∃ w, roomy.nextWork = some w ∧ w.job = .first 1 ∧ roomy.launch? 1 = some { fetchLaunch with placed := 0 }
      ∧ roomy.setOf w 0 none = some [0] ∧ ∀ c ∈ [0], roomy.converted w c = true)
    ∧ (∃ w tm, back.nextWork = some w ∧ w.job = .back tm.id ∧ back.team? tm.id = some tm ∧ tm.residency = .waiting
      ∧ back.setOf w 0 none = some [0] ∧ (∀ c ∈ [0], back.converted w c = true) ∧ (back.groups.map Group.id).Nodup
      ∧ (back.settleCus (back.sentToWatched tm)).isSome = true)
    ∧ (∃ w, narrow.nextWork = some w ∧ narrow.setOf w 0 none = some [0] ∧ narrow.converted w 0 = false) ∧ Coherent narrow ∧ noneSent narrow := by
  intro roomy back narrow
  have bare : ∀ c, (narrow.cu c).l1 = [] := fun c => by
    show ((sget Cu.empty [(0, _)] c)).l1 = []
    by_cases hc : c = 0
    · subst hc; rfl
    · simp [sget, show ¬ 0 = c from fun h' => hc h'.symm, Cu.empty]
  refine ⟨⟨_, (Option.some_get (by decide +kernel)).symm, ?_, ?_, ?_, ?_⟩,
    ⟨_, { aTeam with cus := [3], residency := .waiting }, (Option.some_get (by decide +kernel)).symm, ?_, ?_, ?_, ?_, ?_, ?_, ?_⟩,
    ⟨_, (Option.some_get (by decide +kernel)).symm, ?_, ?_⟩, coherent_bare (by rfl) bare, noneSent_bare bare⟩ <;> decide +kernel

/-- TeamsAreSwapped: a CU that is not quiet, and one that is, with a blocked team and work to serve; work of a higher class, for
which a bank switch can be made and one for which it can not; and a team in the Waste whose CUs another team holds. -/
theorem witness_TeamsAreSwapped :
    let s := crowded aTeam
    let late : State := withGroup (fun g => { g with wait0 := .slots 1, ops := [anOp] }) { s with clock := 2 ^ 16 }
    let deep : State := { s with
      launches := [fetchLaunch, { fetchLaunch with id := 2, placed := 0, info := { fetchRecord with sclass := 1, scratchKib := 896 } }] }
    let waste : State := { crowded aTeam with
      parts := [⟨3, 0xFFFFFF⟩]
      teams := [{ aTeam with residency := .waste }, { aTeam with id := 9, launch := 2 }]
      launches := [fetchLaunch, { fetchLaunch with id := 2 }] }
    (s.quiet 0 = false ∧ late.quiet 0 = true ∧ ∃ w ∈ late.works, late.setOf w 0 (some 0) = none
      ∧ (late.roomBy w 0 (some 0) (late.blockedOn 0)).isSome = true)
    ∧ (∃ w x, s.preempting = some w ∧ s.classOn w 0 = some x)
    ∧ (∃ x, s.switchOn 0 = some x ∧ s.bankable x = true ∧ s.claimed x.work x.cus = [] ∧ s.mayLeave x.out = true
      ∧ 1 ∈ x.out ∧ s.team? 1 = some aTeam ∧ x.work.job ≠ .back 1)
    ∧ (∃ x, deep.switchOn 0 = some x ∧ deep.bankable x = false ∧ (deep.swapOut false x.out).1 = true ∧ 1 ∈ x.out
      ∧ deep.team? 1 = some aTeam ∧ x.work.job ≠ .back 1)
    ∧ (∃ tm, waste.team? tm.id = some tm ∧ 7 ∈ tm.cus ∧ waste.spillDue tm = true ∧ (waste.settleCus tm.cus).isSome = true
      ∧ (withGroup (fun g => { g with ops := [anOp] }) waste).spillDue tm = false) := by
  intro s late deep waste
  refine ⟨⟨?_, ?_, ?_⟩, ⟨_, _, (Option.some_get (by decide +kernel)).symm, (Option.some_get (by decide +kernel)).symm⟩,
    ⟨_, (Option.some_get (by decide +kernel)).symm, ?_, ?_, ?_, ?_, ?_, ?_⟩,
    ⟨_, (Option.some_get (by decide +kernel)).symm, ?_, ?_, ?_, ?_, ?_⟩,
    { aTeam with residency := .waste }, ?_, ?_, ?_, ?_, ?_⟩ <;> decide +kernel

/-! ### Coherence -/

/-- A state with one line in the tables, and nothing in an L1 but, where its word 0 is registered, that word in CU 0's, is
coherent. -/
theorem coherent_line {s : State} {n : Nat} {x : Line} (hl : s.lines = [(n, x)])
    (hx : x.total = 32 ∧ known x.owner = true ∧ 0 < x.tokens x.owner ∧ x.dirty = []) (v : Word)
    (h : (x.regs = [] ∧ ∀ c, (s.cu c).l1 = [])
      ∨ (x.regs = [(0, 0)] ∧ (∀ c, (s.cu c).l1 = if c = 0 then [(32 * n, ⟨.registered, v⟩)] else [])
        ∧ sget PageClass.untouched s.classes (32 * n / 1024) = .shared)) : Coherent s := by
  have line : ∀ l, s.line l = if n = l then x else Line.reset := fun l => by simp [State.line, hl, sget]
  have reset : known Line.reset.owner = true ∧ 0 < Line.reset.tokens Line.reset.owner := ⟨rfl, by decide⟩
  have regs : ∀ l, (s.line l).regs = [] ∨ (n = l ∧ (s.line l).regs = [(0, 0)]) := fun l => by
    rw [line]
    split
    · rename_i e
      rcases h with h | h
      · exact .inl h.1
      · exact .inr ⟨e, h.1⟩
    · exact .inl rfl
  have dirty : ∀ l, (s.line l).dirty = [] := fun l => by
    rw [line]
    split
    · exact hx.2.2.2
    · rfl
  have l1 : ∀ c w y, s.l1? c w = some y → c = 0 ∧ w = 32 * n ∧ y = ⟨.registered, v⟩ ∧ x.regs = [(0, 0)] := fun c w y hy => by
    rcases h with ⟨-, h⟩ | ⟨hr, h, -⟩
    · simp [State.l1?, h] at hy
    · rw [State.l1?, h] at hy
      split at hy
      · rename_i e
        simp only [List.lookup_cons, List.lookup_nil] at hy
        split at hy
        · rename_i e'
          exact ⟨e, beq_iff_eq.1 e', (Option.some.inj hy).symm, hr⟩
        · cases hy
      · cases hy
  refine ⟨fun l => ?_, fun l => ?_, fun l => ?_, fun c => ?_, fun l => ?_, fun w c hw => ?_, fun w c y hy => ?_, fun w c y hy => ?_⟩
  · rw [line]
    split
    · exact hx.1
    · rfl
  · rw [line]
    split
    · exact ⟨hx.2.1, hx.2.2.1⟩
    · exact reset
  · rw [dirty]
    rcases regs l with e | ⟨-, e⟩ <;> rw [e] <;> simp
  · rcases h with ⟨-, h⟩ | ⟨-, h, -⟩ <;> rw [h]
    · exact .nil
    · split <;> simp
  · rw [dirty]
    rcases regs l with e | ⟨-, e⟩ <;> rw [e] <;> simp
  · rcases regs (w / 32) with e | ⟨e', e⟩
    · rw [State.registered?, e] at hw
      cases hw
    · rw [State.registered?, e] at hw
      have hr : x.regs = [(0, 0)] := by rw [← e, line, if_pos e']
      simp only [List.lookup_cons, List.lookup_nil] at hw
      split at hw
      · rename_i e''
        cases hw
        have hw' : w = 32 * n := by
          have := beq_iff_eq.1 e''
          omega
        rcases h with ⟨h, -⟩ | ⟨-, hc, hp⟩
        · rw [hr] at h
          cases h
        · exact ⟨⟨v, by rw [State.l1?, hc, hw']; simp⟩, by rw [hw']; exact hp⟩
      · cases hw
  · obtain ⟨rfl, rfl, -, hr⟩ := l1 c w _ hy
    rw [State.registered?, line, if_pos (by omega), hr]
    simp
  · obtain ⟨-, -, e, -⟩ := l1 c w _ hy
    cases e

/-- A state without lines in the tables, whose CU 0 holds one valid word, is coherent. -/
theorem coherent_valid {s : State} (line : ∀ l, s.line l = Line.reset) (w : Nat) (v : Word)
    (hc : ∀ c, (s.cu c).l1 = if c = 0 then [(w, ⟨.valid, v⟩)] else []) : Coherent s := by
  have l1 : ∀ c u y, s.l1? c u = some y → y.state = .valid := fun c u y hy => by
    rw [State.l1?, hc] at hy
    split at hy
    · simp only [List.lookup_cons, List.lookup_nil] at hy
      split at hy
      · cases hy; rfl
      · cases hy
    · cases hy
  refine ⟨fun l => ?_, fun l => ?_, fun l => ?_, fun c => ?_, fun l => ?_, fun u c hu => ?_, fun u c y hy => ?_, fun u c y hy => ?_⟩
  · rw [line]; rfl
  · rw [line]; exact ⟨rfl, by decide⟩
  · rw [line]; exact ⟨.nil, .nil⟩
  · rw [hc]; split <;> simp
  · rw [line]; simp [Line.reset]
  · rw [State.registered?, line] at hu; cases hu
  · cases l1 c u _ hy
  · cases l1 c u _ hy

/-- A state with one line, and what CU 0 holds of it. -/
def withLine (n : Nat) (x : Line) (l1 : List (Nat × L1Word)) (s : State) : State :=
  withCu (fun k => { k with l1 := l1 }) { s with lines := [(n, x)] }

theorem withLine_l1 {s : State} {n : Nat} {x : Line} {l1 : List (Nat × L1Word)} (hs : s.cus = ready.cus) (c : Nat) :
    ((withLine n x l1 s).cu c).l1 = if c = 0 then l1 else [] := by
  show (sget Cu.empty (supd Cu.empty s.cus 0 fun k => { k with l1 := l1 }) c).l1 = _
  rw [hs, sget_supd]
  by_cases e : c = 0
  · rw [if_pos e, if_pos e.symm]
  · rw [if_neg e, if_neg fun e' => e e'.symm]
    exact cus_bare rfl c

theorem withLine_reset {s : State} {l1 : List (Nat × L1Word)} (l : Nat) : (withLine 0 Line.reset l1 s).line l = Line.reset := by
  show sget Line.reset [(0, Line.reset)] l = Line.reset
  by_cases e : 0 = l <;> simp [sget, e]

theorem withLine_noneSent {s : State} {n : Nat} {x : Line} {l1 : List (Nat × L1Word)} (hs : s.cus = ready.cus)
    (h : ∀ y ∈ l1, y.2.state = .registered) : noneSent (withLine n x l1 s) := fun c => by
  simp only [Cu.sentWords, withLine_l1 hs, List.map_eq_nil_iff, List.filter_eq_nil_iff]
  intro y hy
  split at hy
  · split
    · rename_i e
      rw [h y hy] at e
      cases e
    · simp
  · cases hy

theorem mem_of_lookup {b : L1Word} {a : Nat} : ∀ l : List (Nat × L1Word), l.lookup a = some b → (a, b) ∈ l
  | [], h => by cases h
  | (k, x) :: l, h => by
    rw [List.lookup_cons] at h
    split at h
    · rename_i e
      rw [beq_iff_eq.1 e, ← Option.some.inj h]
      exact .head _
    · exact .tail _ (mem_of_lookup l h)

theorem withLine_tableRead {s : State} {n : Nat} {x : Line} {l1 : List (Nat × L1Word)} (hs : s.cus = ready.cus)
    (h : ∀ y ∈ l1, y.2.state = .registered) (hb : 128 * n + 128 ≤ s.regs.frameBase.toNat) : tableRead (withLine n x l1 s) := by
  intro w hw
  have hw' : s.regs.frameBase.toNat ≤ 4 * w := by
    simp only [State.inTable, Bool.and_eq_true, decide_eq_true_eq] at hw
    exact hw.1
  have line : (withLine n x l1 s).line (w / 32) = Line.reset := by
    show sget Line.reset [(n, x)] (w / 32) = Line.reset
    simp [sget, show ¬ n = w / 32 by omega]
  refine word_home (by rw [State.registered?, line]; rfl) (privateDirty_none fun c y hy e => ?_) (by rw [line]; rfl)
  rw [State.l1?, withLine_l1 hs] at hy
  split at hy
  · have := h _ (mem_of_lookup _ hy)
    rw [e] at this
    cases this
  · cases hy

theorem withLine_coherent {s : State} {n : Nat} {x : Line} {l1 : List (Nat × L1Word)} (hs : s.cus = ready.cus)
    (hx : x.total = 32 ∧ known x.owner = true ∧ 0 < x.tokens x.owner ∧ x.dirty = []) (v : Word)
    (h : (x.regs = [] ∧ l1 = []) ∨ (x.regs = [(0, 0)] ∧ l1 = [(32 * n, ⟨.registered, v⟩)]
      ∧ sget PageClass.untouched s.classes (32 * n / 1024) = .shared)) : Coherent (withLine n x l1 s) := by
  have hc := withLine_l1 (n := n) (x := x) (l1 := l1) hs
  refine coherent_line (n := n) (x := x) rfl hx v ?_
  rcases h with ⟨h, rfl⟩ | ⟨h, rfl, hp⟩
  · exact .inl ⟨h, fun c => (hc c).trans (by split <;> rfl)⟩
  · exact .inr ⟨h, hc, hp⟩

def trumped : State :=
  withLine 0x4000 ⟨0, 32, 0, 0, 0, 0, 0, .die 0, [], [], [], false, []⟩ [] { ready with
    trumps := [⟨true, true, .die 0, 0x4000⟩], attempts := [⟨.die 1, 0x4001, true, 16, 0, none⟩] }

theorem cus_classed (s : State) (c : List (Nat × PageClass)) : ({ s with classes := c } : State).cus = s.cus := rfl

/-- CheckpointsAndEnds: a context that awaits a checkpoint, with a CKPT of all lanes; one without a checkpoint and one with;
memory; a context at its time limit and one a tick before it; and one that ends. -/
theorem witness_CheckpointsAndEnds :
    let withC (F : Context → Context) (s : State) : State := withContext F s
    let w := withGroup (fun g => { g with ckpt := some (5, Mask.all) }) (withC (fun c => { c with ckptWanted := true }) ready)
    let k : Checkpoint := ⟨0, [groupOf ready], [], [], [], [], [], [], [], [], []⟩
    let kept := withC (fun c => { c with checkpoint := some k }) ready
    let limit : State := { ready with clock := BitVec.ofNat 64 (700000 * 10000) }
    let e := withC (fun c => { c with state := .ending, ended := some aFatal }) ready
    let written := withLine 0x4000 ⟨0, 32, 0, 0, 0, 0, 0, .die 0, [], [(0, 0)], [0], false, []⟩ [(32 * 0x4000, ⟨.registered, 7⟩)]
      { ready with classes := [(0x200, .shared)] }
    let clean := withLine 0 Line.reset [(0x80000, ⟨.valid, 7⟩)] ready
    ((∃ c, w.context? 0 = some c ∧ c.ckptWanted = true ∧ c.state = .running) ∧ (w.groups.map Group.id).Nodup
      ∧ (∀ g ∈ w.groups, w.asidOf g = 0 → g.ops = []) ∧ ∃ u, w.performAllSent = some u ∧ u.reportFree 0 (u.entryWrites 0
        (u.closeAll (u.launches.filter fun l => l.asid == 0 && l.complete)).1) = true)
    ∧ (ready.group? 1 = some (groupOf ready) ∧ ready.contextOf? (groupOf ready) = some aContext ∧ aContext.state = .running
      ∧ aContext.checkpoint = none)
    ∧ (∃ c, kept.contextOf? (groupOf kept) = some c ∧ c.state = .running ∧ c.checkpoint = some k)
    ∧ (Coherent ready ∧ ready.registered? 0x80000 = none ∧ (ready.line 0x4000).dirty.lookup 0 = none)
    ∧ (Coherent written ∧ written.l1? 0 0x80000 = some ⟨.registered, 7⟩ ∧ written.registered? 0x80000 = some 0
      ∧ ∀ x ∈ written.cus, x.1 ≠ 0 → 0x80000 ∉ x.2.sentWords)
    ∧ (Coherent clean ∧ clean.l1? 0 0x80000 = some ⟨.valid, 7⟩)
    ∧ ((limit.context? 0 = some aContext) ∧ limit.regs.hangMs ≠ 0 ∧ aContext.lastProgress + 700000 * limit.regs.hangMs ≤ limit.now)
    ∧ (let early : State := { ready with clock := BitVec.ofNat 64 (700000 * 10000 - 1) }
      ¬(early.regs.hangMs ≠ 0 ∧ aContext.lastProgress + 700000 * early.regs.hangMs ≤ early.now))
    ∧ ∃ c, e.context? 0 = some c ∧ c.state = .ending ∧ c.ended = some aFatal
      ∧ e.reportFree 0 (e.entryWrites 0 (e.entriesOf 0)) = true := by
  intro withC w k kept limit e written clean
  refine ⟨⟨⟨_, (Option.some_get (by decide +kernel)).symm, ?_, ?_⟩, ?_, ?_,
      ⟨_, (Option.some_get (by decide +kernel)).symm, ?_⟩⟩, ?_,
    ⟨_, (Option.some_get (by decide +kernel)).symm, ?_, ?_⟩, ⟨ready_coherent, ?_, ?_⟩,
    ⟨withLine_coherent (cus_classed _ _) (by decide) 7 (.inr ⟨rfl, rfl, rfl⟩), ?_, ?_, ?_⟩,
    ⟨coherent_valid withLine_reset _ _ (withLine_l1 rfl), ?_⟩, ?_, ?_, ?_⟩
  rotate_right 1
  · exact ⟨_, (Option.some_get (by decide +kernel)).symm, by decide +kernel, by decide +kernel, by decide +kernel⟩
  all_goals decide +kernel

theorem cus_trumped (s : State) (t : List Trump) (a : List Attempt) : ({ s with trumps := t, attempts := a } : State).cus = s.cus := rfl

theorem lines_classed (s : State) (c : List (Nat × PageClass)) : ({ s with classes := c } : State).lines = s.lines := rfl

theorem ready_classed (c : List (Nat × PageClass)) : Coherent { ready with classes := c } :=
  coherent_bare ((lines_classed _ _).trans (by decide +kernel)) (cus_bare (cus_classed _ _))

theorem trumped_coherent : Coherent trumped := withLine_coherent (cus_trumped _ _ _) (by decide) 0 (.inl ⟨rfl, rfl⟩)

theorem trumped_noneSent : noneSent trumped := withLine_noneSent (cus_trumped _ _ _) fun _ h => by cases h

theorem trumped_tableRead : tableRead trumped := withLine_tableRead (cus_trumped _ _ _) (fun _ h => by cases h) (by decide +kernel)

/-- CopiesMove: a page of CU 1's own, that CU 0 touches; a word that CU 0 has registered, which CU 1 reads; a line of which die 0 has all
tokens and the active trump entry; and requests that are new, and that have failed 16 times, before a table with room and a full one. -/
theorem witness_CopiesMove :
    (let c : State := { ready with classes := [(0x200, .priv 1)] };
      (Coherent c ∧ noneSent c ∧ tableRead c) ∧ c.pageClass 0x200 = .priv 1)
    ∧ (let r := withLine 0x4000 ⟨0, 32, 0, 0, 0, 0, 0, .die 0, [], [(0, 0)], [0], false, []⟩ [(32 * 0x4000, ⟨.registered, 7⟩)]
        { ready with classes := [(0x200, .shared)] };
      (Coherent r ∧ noneSent r ∧ tableRead r) ∧ r.registered? (32 * 0x4000 + 0) = some 0 ∧ 0 ≠ 1 ∧ 0 / 64 = 1 / 64
        ∧ r.l1? 1 (32 * 0x4000 + 0) = none ∧ r.hasRoomL1 1 0x4000 = true)
    ∧ (Coherent trumped ∧ noneSent trumped ∧ tableRead trumped ∧ ∀ a ∈ trumped.attempts, a.counter = none)
    ∧ (∀ l, l = 0x4000 ∨ l = 0x4001 → trumped.populated (128 * l) = true ∧ inPeer (128 * l) = false ∧ trumped.flipping (128 * l) = false)
    ∧ (has' trumped 0x4001 (.die 1) = 0 ∧ unserved trumped 0x4001 ∧ trumped.hostServes 0x4001 = false ∧ has' trumped 0x4001 .host = 0)
    ∧ (has' trumped (2 ^ 48 / 128) (.die 1) = 0 ∧ trumped.hostServes (2 ^ 48 / 128) = true)
    ∧ (let q (full : Bool) : State := if full then { trumped with trumps := List.replicate 64 ⟨false, true, .die 0, 0x4001⟩ } else trumped;
      ∀ full, (q full).escalates (.die 1) 0x4001 true = true
        ∧ (∀ x ∈ (q full).trumps ++ (q full).trumpQueue, ¬(x.requester = .die 1 ∧ x.line = 0x4001))
        ∧ (64 ≤ ((q full).trumps.filter fun x => (q full).homeOf x.line == (q full).homeOf 0x4001).length ↔ full = true))
    ∧ ¬ unserved trumped 0x4000
    ∧ (trumped.activeTrump 0x4000 = some ⟨true, true, .die 0, 0x4000⟩ ∧ has' trumped 0x4000 (.die 0) = 32
      ∧ trumped.wants (.die 0) 0x4000 = false ∧ (∀ q ∈ trumped.trumpQueue, trumped.homeOf q.line ≠ trumped.homeOf 0x4000)
      ∧ ∀ y ∈ trumped.trumps.erase ⟨true, true, .die 0, 0x4000⟩, y.line = 0x4000 → y.active = false)
    ∧ trumped.activeTrump 0x4001 = none := by
  refine ⟨⟨⟨ready_classed _, noneSent_bare (cus_bare (cus_classed _ _)),
      tableRead_bare ((lines_classed _ _).trans (by decide +kernel)) (cus_bare (cus_classed _ _))⟩, ?_⟩,
    ⟨⟨withLine_coherent (cus_classed _ _) (by decide) 7 (.inr ⟨rfl, rfl, rfl⟩), withLine_noneSent (cus_classed _ _) (by simp),
      withLine_tableRead (cus_classed _ _) (by simp) (by decide +kernel)⟩, ?_⟩,
    ⟨trumped_coherent, trumped_noneSent, trumped_tableRead, by decide +kernel⟩, ?_, ?_, ?_, ?_, ?_, ?_, ?_⟩
  · decide +kernel
  · decide +kernel
  · rintro l (rfl | rfl) <;> decide +kernel
  · unfold unserved; decide +kernel
  · decide +kernel
  · decide +kernel
  · unfold unserved; decide +kernel
  all_goals decide +kernel

/-- A line that is being snooped, of which die 1 has asked for all tokens; and one that the host has, with all tokens. -/
def snooped : State := withLine 0x4000 ⟨0, 0, 0, 0, 0, 32, 0, .host, [], [], [], true, [(1, true, none)]⟩ [] ready
def lost : State := withLine 0x4000 ⟨0, 0, 0, 0, 0, 32, 0, .host, [], [], [], false, []⟩ [] ready

theorem snooped_coherent : Coherent snooped := withLine_coherent rfl (by decide) 0 (.inl ⟨rfl, rfl⟩)
theorem lost_coherent : Coherent lost := withLine_coherent rfl (by decide) 0 (.inl ⟨rfl, rfl⟩)

/-- OutsideAccesses: a line the host may read; bytes of an image, of a frame not in use, bytes no filter watches and bytes one watches,
with room in the buffer and without; a snoop of a line and its response; a request of a die; and a frame in each state of its zeroing, with a line
of the host and without. -/
theorem witness_OutsideAccesses :
    let i : State := { ready with images := [some ⟨0, 8, 0x200000, 1⟩] }
    let d : State := ready.setFrame 0x200 .zeroing
    let b : List Byte := [1, 2, 3, 4]
    let h : Held := ⟨7, .host, 0x200000, .store b, [], true, [], false, [], []⟩
    let w (n : Nat) : State := { ready with
      held := List.replicate n h, slots := [(5, { aSlot .live with watches := [⟨0x1000, 0x200000, 0x200000, 8⟩] })] }
    let free (s : State) (who : Holder) (write : Bool) : Prop := ∀ l ∈ linesOf 0x200000 4, s.mustWait who l write = false
    let z : State := snooped.setFrame 0x200 .zeroing
    ((Coherent ready ∧ noneSent ready ∧ tableRead ready) ∧ (Coherent snooped ∧ noneSent snooped ∧ tableRead snooped))
    ∧ (0x200000 % 4096 + b.length ≤ 4096 ∧ ready.inDevice 0x200000 = true
      ∧ (∀ l ∈ linesOf 0x200000 4, ready.inDevice (128 * l) = true ∧ inT1 (128 * l) = true)
      ∧ free ready .host false ∧ free ready .host true ∧ free ready .link true ∧ free ready .link false ∧ ready.trumps = []
      ∧ offTable ready (wordsOf 0x200000 4) ∧ ready.inFrameTable 0x300 = false)
    ∧ (i.imageAt? 0x200000).isSome = true
    ∧ (d.imageAt? 0x200000 = none ∧ d.frame 0x200 = .zeroing)
    ∧ (ready.imageAt? 0x200000 = none ∧ ready.frame 0x200 ≠ .zeroing ∧ ready.frame 0x200 ≠ .freeDirty
      ∧ ready.caught 0x200000 (.store b) = false ∧ ready.behindHeld 0x200000 4 = false)
    ∧ ((w 0).imageAt? 0x200000 = none ∧ (w 0).frame 0x200 ≠ .zeroing ∧ (w 0).frame 0x200 ≠ .freeDirty
      ∧ (w 0).caught 0x200004 (.store b) = true ∧ (w 0).holdRoom .host 0x200004 = true ∧ (w 64).holdRoom .host 0x200004 = false
      ∧ (w 64).caught 0x200004 (.store b) = true ∧ (w 0).caught 0x200008 (.store b) = false)
    ∧ (ready.hostServes (2 ^ 48 / 128) = true ∧ snooped.activeTrump 0x4000 = none ∧ (snooped.line 0x4000).snooped = true)
    ∧ ((snooped.line 0x4000).asked.find? (fun x => x.1 == 1) = some (1, true, none) ∧ snooped.flipping (128 * 0x4000) = false)
    ∧ (inT1 0x200000 = true ∧ inT1 (2 ^ 38 - 1) = true ∧ inT1 (2 ^ 38) = false)
    ∧ (∀ st, (st = .freeDirty ∨ st = .zeroing) → (ready.setFrame 0x300 st).frame 0x300 = st
      ∧ (ready.setFrame 0x300 st).hostLines 0x300 = [])
    ∧ (z.frame 0x200 = .zeroing ∧ z.hostLines 0x200 ≠ []) ∧ ready.inDevice (4096 * 0x300) = true := by
  intro i d b h w free z
  refine ⟨⟨⟨ready_coherent, ready_noneSent, ready_tableRead⟩, snooped_coherent, withLine_noneSent rfl fun _ h => (by cases h),
    withLine_tableRead rfl (fun _ h => (by cases h)) (by decide +kernel)⟩, ?_⟩
  refine ⟨?_, ?_, ?_, ?_, ?_, ?_, ?_, ?_, ?_, ?_, ?_⟩
  rotate_left 8
  · rintro st (rfl | rfl) <;> decide +kernel
  all_goals first | decide +kernel | (unfold offTable; decide +kernel)

/-- CommandsAnswer: a mailbox that is idle and ready, one that is not ready, one whose command runs; a freeze without one. -/
theorem witness_CommandsAnswer :
    let s (offset : Nat) (res : DWord) (r : Bool) (fn : Nat) : State :=
      { ready with
        mail := [(fn, { Mailbox.reset with cmd := 0x43, res := res :: List.replicate 7 0 })]
        regs := { ready.regs with ready := r }
        input := ⟨fn, offset, 0x43, [0], []⟩ }
    (∀ r fn, fn = 3 ∨ fn = 64 → idle (s 0 (2 ^ 63) r fn) ∧ (s 0 (2 ^ 63) r fn).regs.ready = r)
    ∧ (¬ idle (s 0 0 true 64) ∧ ¬ idle (s 1 0 true 64) ∧ ((s 1 0 true 64).mailbox 64).cmd = 0x43)
    ∧ (.imgQuery, 0x43, true, imgQuery) ∈ commands
    ∧ ({ s 0 0 true 64 with freeze := none } : State).input.nums = [0] ∧ ∃ c ∈ ready.contexts, c.state = .running := by
  refine ⟨?_, by unfold idle; decide +kernel, by simp [commands], by decide +kernel, by decide +kernel⟩
  rintro (_ | _) fn (rfl | rfl) <;> unfold idle <;> decide +kernel

/-- CommandsTakeEffect: an image of one word, in the cache and to be put there. -/
theorem witness_ImageCommands :
    let d : Nat := natOfBytes (sha256 (bytesOfNat 8 (0xCB00 * 2 ^ 48)))
    let s : State := { ready.setBytes 0x200000 (bytesOfNat 8 (0xCB00 * 2 ^ 48)) with images := [none, some ⟨BitVec.ofNat 256 d, 8, 0x200000, 9⟩] }
    (s.images[1]? = some (some ⟨BitVec.ofNat 256 d, 8, 0x200000, 9⟩) ∧ (9 : BitVec 64).getLsbD 3 = true ∧ s.images.getD 0 none = none)
    ∧ (s.populated 0x200000 = true ∧ s.populated (0x200000 + 8 - 1) = true
      ∧ validate (recordsOf 8 (8 / 8) (s.peek 0x200000 8)) 0 0 0 = none
      ∧ BitVec.ofNat 256 d = BitVec.ofNat 256 (natOfBytes (sha256 (s.peek 0x200000 8)))) := by
  decide +kernel

/-- CommandsTakeEffect: descriptors, partitions, functions, frames and loans. -/
theorem witness_TableCommands :
    let s : State := { ready with
      parts := [⟨0x0000FFFF, 0x00000F⟩], loans := [], regs := { ready.regs with biasSet := true }
      frames := ready.frames, slots := [(5, aSlot .live)] }
    let l : State := { s with parts := [⟨0x00FF, 0xF⟩, ⟨0xFF00, 0xF0⟩], loans := [(2, 1)] }
    let x : Nat := 0x300000 + 2 ^ 144 * 7 + 2 ^ 160
    let t : State := s.setBytes 0x200000 (bytesOfNat 32 x)
    let h : State := { snooped with regs := { snooped.regs with biasSet := true } }
    (s.regs.biasSet = true ∧ inT1 0x200000 = true ∧ s.hostLines 0x200 = [] ∧ h.regs.biasSet = true ∧ h.hostLines 0x200 ≠ [])
    ∧ (s.slot 5).state = .live
    ∧ (t.populated 0x200000 = true ∧ natOfBytes (t.peek 0x200000 32) = x ∧ tdescOk x = true ∧ t.context? 7 = none
      ∧ (t.func 0).bound.isSome = true ∧ ∀ c ∈ t.contexts, ¬(c.func = 0 ∧ c.pasid = 1))
    ∧ (s.context? 0 = some aContext ∧ (s.contexts.map Context.asid).Nodup)
    ∧ (1 < l.parts.length ∧ (∀ j, j < 8 → j ≠ 1 → (l.part j).clusters &&& BitVec.ofNat 32 0xFF00 = 0
        ∧ (l.part j).memports &&& BitVec.ofNat 24 0xF0 = 0)
      ∧ (∀ v, v < 64 → (l.func v).bound ≠ some 1) ∧ ∀ y ∈ ([] : List (Nat × Nat)), y.2 ≠ 1 ∧ (l.part 1).clusters.getLsbD y.1 = false)
    ∧ (s.partDefined 0 = true ∧ ∀ c ∈ s.contexts, c.func ≠ 3) ∧ bwOk (2048 * 2 ^ 16 + 2048) = true
    ∧ (l.portOwner 3 = some 0 ∧ l.partDefined 1 = true ∧ (∀ y ∈ l.loans, y.1 ≠ 3)
      ∧ ∀ t ∈ l.teams, t.residency = .resident ∨ t.residency = .waste → ∀ k ∈ t.cus, k / 8 ≠ 3)
    ∧ (let there := (l.teams.filter fun t => (t.residency == .resident || t.residency == .waste) && t.cus.any fun k => k / 8 == 2).map Team.id;
      (∃ y ∈ l.loans, y.1 = 2) ∧ (l.swapWhole there).1 = true)
    ∧ (l.freeze = none ∧ (l.teams.map Team.id).Nodup ∧ l.held = [] ∧ (∀ g ∈ l.groups, g.ops = [] ∧ l.unacked g = false) ∧ l.lines = []
      ∧ (l.stopContext aContext).1 = true ∧ ((l.stopContext aContext).2.dropHeldIn aContext.frames).heldIn aContext.frames = false)
    ∧ (∀ f, frameIn 0x400000 2 f → s.inDevice (4096 * f) = true ∧ s.frame f = .clean)
    ∧ ∀ f, frameIn 0x400000 2 f → ∃ k, (s.func 0).bound = some k
      ∧ (s.part k).memports.getLsbD ((s.memPort (4096 * f)).getD 24) = true := by
  intro s l x t h
  refine ⟨?_, ?_, ?_, ?_, ?_, ?_, ?_, ?_, ?_, ?_, ?_, ?_⟩
  rotate_left 10
  · rintro f ⟨h1, h2⟩
    have : f = 0x400 ∨ f = 0x401 := by omega
    rcases this with rfl | rfl <;> decide +kernel
  · rintro f ⟨h1, h2⟩
    have : f = 0x400 ∨ f = 0x401 := by omega
    rcases this with rfl | rfl <;> exact ⟨0, by decide +kernel⟩
  all_goals decide +kernel

/-- HostWrites: a write of a management register by the physical function and by another; a summary where one runs and where
none does, of an address that fits; a function's reset that ends. -/
theorem witness_HostWrites :
    let s (fn : Nat) (res : DWord) : State :=
      { ready with
        mail := [(fn, { Mailbox.reset with sumRes := res, sumLen := 0x100000 })]
        input := ⟨fn, 0x48, 0x200000, [], []⟩ }
    ((s 64 0).input.offset < 0x1000 ∧ (s 63 0).input.fn ≠ 64 ∧ (s 65 0).input.fn = 65) ∧ ((s 3 0).mailbox 3).sumRes.getLsbD 63 = false
    ∧ (((s 3 (2 ^ 63)).mailbox 3).sumRes.getLsbD 63 = true
      ∧ 0x200000 % 4096 = 0 ∧ (s 3 (2 ^ 63)).populated 0x200000 = true
      ∧ (s 3 (2 ^ 63)).populated (0x200000 + ((s 3 (2 ^ 63)).summary 3).length - 1) = true
      ∧ ((s 3 (2 ^ 63)).summary 3).length ≤ ((s 3 (2 ^ 63)).mailbox 3).sumLen.toNat
      ∧ inPeer 0x200000 = false ∧ ((s 3 (2 ^ 63)).summary 3).length ≤ 2 ^ 20
      ∧ (∀ w ∈ wordsOf 0x200000 ((s 3 (2 ^ 63)).summary 3).length, (s 3 (2 ^ 63)).inTable (4 * w) = false)
      ∧ ∀ f, f < 256 → (s 3 (2 ^ 63)).frame (0x200 + f) ≠ .zeroing)
    ∧ (match ready.resetFunc 3 with | .done _ _ _ => true | .running _ => false) = true := by
  decide +kernel

/-- PowerAndLinks: a link that is up at each number of replays, one with launches over it, packets; the loss of a link. -/
theorem witness_PowerAndLinks :
    let s (retries : Nat) (nums : List Nat) : State :=
      { ready with
        links := ready.links.set 0 ⟨true, 0, 0, 0, retries⟩
        launches := [{ fetchLaunch with links := [0], pods := [3] }]
        packets := [⟨3, 0, 1, 0, 0, 0⟩]
        clock := BitVec.ofNat 64 700000000
        input := ⟨64, 0, 0, nums, []⟩ }
    (0 < (s 0 []).linkCount ∧ 0 < (s 0 []).links.length ∧ ((s 0 [0]).link 0).up = true ∧ given (s 0 [0]) 0 18 = 0)
    ∧ (given (s 14 [0, 1]) 1 0 = 1 ∧ ((s 14 [0, 0]).link 0).retries < 15 ∧ 15 ≤ ((s 15 [0, 0]).link 0).retries)
    ∧ (∃ l ∈ (s 0 []).launches, 0 ∈ l.links) ∧ (∃ c, (s 0 []).context? 0 = some c ∧ c.state ≠ .ending)
    ∧ ((s 0 [1, 3, 0, 1]).input.nums = [1, 3, 0, 1] ∧ (s 0 [0, 0, 5, 1, 0, 4, 2]).input.nums = [0, 0, 5, 1, 0, 4] ++ [2]
      ∧ ((s 0 []).context? 0).isSome = true)
    ∧ ((s 0 []).packets.find? fun p => p.first + 700000000 ≤ (s 0 []).now) = some ⟨3, 0, 1, 0, 0, 0⟩
    ∧ (Coherent lost ∧ lost.trumps = [] ∧ noneSent lost ∧ (lost.lines.map Prod.fst).Nodup ∧ (lost.line 0x4000).owner = .host) := by
  intro s
  refine ⟨?_, ?_, ?_, ⟨aContext, ?_⟩, ?_, ?_, lost_coherent, ?_, withLine_noneSent rfl fun _ h => (by cases h), ?_, ?_⟩ <;> decide +kernel

end Sys2Proof.Tests
end

section
/-!
SUPPORT. Row 1 (R67, R127 to R135): the model's operations on words said in the spec's terms, and from them what each
integer, move and cross-lane instruction writes.
-/
namespace Sys2Proof.Proofs

open Sys2Proof.Machine Sys2Proof.Safety Sys2Proof.Claims Sys2Proof.Laws

/-! ### What a fixed-latency instruction writes -/

/-- A 32-bit result of each participant, under a condition on what the instruction sees. -/
theorem writesIf_each {i : Instr} {f : Fields} {guard : State → Group → Fields → Guard} {pre : Ictx → Prop}
    {own : Ictx → State → Effect} {v w : Ictx → Nat → Word} (he : ∀ s, exec i s = issue i f .whole guard own s)
    (ho : ∀ c s, c.f = f → pre c → own c s = .done (s.writeResults c (c.each (v c))))
    (hv : ∀ c l, c.f = f → c.parts.has l = true → v c l = w c l) : WritesIf i f guard pre (into w) := by
  refine writes_of he ho fun c h r l hr hl hf => ?_
  rw [reg_each _ _ _ _ _ hr hl]
  unfold into
  by_cases hp : c.parts.has l = true
  · by_cases hd : r = c.f.dst.toNat
    · simp [hp, hd, hv c l hf hp]
    · simp [hp, hd]
  · simp [hp]

/-- A 32-bit result that is said for the participants alone. -/
theorem writes_participants {i : Instr} {f : Fields} {guard : State → Group → Fields → Guard} {v w : Ictx → Nat → Word}
    (he : ∀ s, exec i s = issue i f .whole guard (fun c s => .done (s.writeResults c (c.each (v c)))) s)
    (hv : ∀ c l, c.f = f → c.parts.has l = true → v c l = w c l) : Writes i f guard (into w) :=
  writesIf_each he (fun _ _ _ _ => rfl) hv

/-! ### Arithmetic of the S and X families (R128) -/

/-- The reading of an operand under the S code. -/
theorem readInt_S {w : Nat} (f : Fields) (x : BitVec w) : readInt (low f.mod == 3) x = exact f x := by
  simp [readInt, exact]

/-- The reading of an operand under the X code. -/
theorem readInt_X (f : Fields) (x : Word) : readInt (signedX f) x = underX f x := by
  simp [readInt, signedX, underX]

theorem narrowS_eq (w : Nat) (f : Fields) (x : Int) : narrowS w (low f.mod) x = narrowed w f x := by
  simp only [narrowS, narrowed, clamp, beq_iff_eq, apply_ite (BitVec.ofInt w)]

/-- The S family: the operation on the operands as they are read, narrowed once. -/
theorem arithS_eq {w : Nat} (f : Fields) (op : Int → Int → Int → Int) (a b c : BitVec w) :
    arithS f op a b c = narrowed w f (op (exact f a) (exact f b) (exact f c)) := by
  simp only [arithS, readInt_S, narrowS_eq]

/-- Settles O14: each form is its exact operation on the operands as R128 reads them, and the narrowing. -/
theorem integerArithmetic : Obligations.IntegerArithmetic := by
  intro f
  refine ⟨?iadd, ?isub, ?imul, ?imad, ?iaddi, ?iadd64, ?iaddi64, ?imulh, ?imin, ?imax⟩
  case iadd => exact writes_each (fun _ => rfl) fun _ _ _ => arithS_eq f _ _ _ _
  case isub => exact writes_each (fun _ => rfl) fun _ _ _ => arithS_eq f _ _ _ _
  case imul => exact writes_each (fun _ => rfl) fun _ _ _ => arithS_eq f _ _ _ _
  case imad => exact writes_each (fun _ => rfl) fun _ _ _ => arithS_eq f _ _ _ _
  case iadd64 => exact writes_each64 (fun _ => rfl) fun _ _ _ => arithS_eq f _ _ _ _
  case iaddi =>
    refine writes_each (fun _ => rfl) fun c l hf => ?_
    rw [narrowS_eq, readInt_S, Ictx.simm, hf]
  case iaddi64 =>
    refine writes_each64 (fun _ => rfl) fun c l hf => ?_
    rw [narrowS_eq, readInt_S, Ictx.simm, hf]
  case imulh =>
    refine writes_each (fun _ => rfl) fun c l _ => ?_
    rw [readInt_X, readInt_X]
  case imin =>
    refine writes_each (fun _ => rfl) fun c l _ => ?_
    simp only [readInt_X, ← not_lt, ite_not]
  case imax =>
    refine writes_each (fun _ => rfl) fun c l _ => ?_
    simp only [readInt_X, ← not_lt, ite_not]

/-! ### Words bit by bit -/

theorem getLsbD_maskOf (p : Nat → Bool) (k : Nat) (hk : k < 32) : (maskOf p).getLsbD k = p k := by
  have h := has_maskOf p k
  simpa [Mask.has, hk] using h

/-- A word is the mask of its bits. -/
theorem eq_maskOf {x : Word} {p : Nat → Bool} (h : ∀ k, k < 32 → x.getLsbD k = p k) : x = maskOf p :=
  BitVec.eq_of_getLsbD_eq fun k hk => (h k hk).trans (getLsbD_maskOf p k hk).symm

theorem toNat_div_two_pow_of_le {b : Nat} (a : Word) (hb : 32 ≤ b) : a.toNat / 2 ^ b = 0 :=
  Nat.div_eq_of_lt (a.isLt.trans_le (Nat.pow_le_pow_right (by decide) hb))

/-! ### Shifts and bit fields (R129) -/

/-- SHL multiplies by a power of two, modulo 2^32. -/
theorem shl32_eq (a b : Word) : shl32 a b = BitVec.ofNat 32 (a.toNat * 2 ^ b.toNat) := by
  apply BitVec.eq_of_toNat_eq
  unfold shl32
  split
  · next hb =>
    obtain ⟨d, hd⟩ := Nat.exists_eq_add_of_le hb
    have : a.toNat * 2 ^ (32 + d) = 2 ^ 32 * (a.toNat * 2 ^ d) := by ring
    simp [hd, this]
  · simp [Nat.shiftLeft_eq]

/-- An arithmetic right shift by 31 or more gives copies of bit 31. -/
theorem toInt_div_two_pow_min (a : Word) (n : Nat) : a.toInt / 2 ^ (min n 31) = a.toInt / 2 ^ n := by
  by_cases hn : n ≤ 31
  · rw [min_eq_left hn]
  · have h31 : (2 : Int) ^ 31 ≤ 2 ^ n := by exact_mod_cast Nat.pow_le_pow_right (by decide) (by omega)
    have hlo := BitVec.le_toInt a
    have hhi := BitVec.toInt_lt (x := a)
    rw [min_eq_right (by omega)]
    by_cases hs : 0 ≤ a.toInt
    · rw [Int.ediv_eq_zero_of_lt hs (by omega), Int.ediv_eq_zero_of_lt hs (by omega)]
    · have key : ∀ m : Int, 2 ^ 31 ≤ m → a.toInt / m = -1 := fun m hm =>
        Int.ediv_eq_neg_one_of_neg_of_le (by omega) (by omega)
      rw [key _ le_rfl, key _ h31]

/-- SHR divides by a power of two, rounding down. -/
theorem shr32_eq (f : Fields) (a b : Word) : shr32 (signedX f) a b = BitVec.ofInt 32 (underX f a / 2 ^ b.toNat) := by
  rw [← readInt_X]
  cases signedX f
  case true =>
    show BitVec.ofInt 32 (a.toInt >>> min b.toNat 31) = BitVec.ofInt 32 (a.toInt / 2 ^ b.toNat)
    rw [Int.shiftRight_eq_div_pow, ← toInt_div_two_pow_min a b.toNat]
    norm_cast
  case false =>
    have hcast : ((a.toNat : Int) / 2 ^ b.toNat) = ((a.toNat / 2 ^ b.toNat : Nat) : Int) := by norm_cast
    simp only [readInt, shr32, Bool.false_eq_true, if_false, hcast, BitVec.ofInt_natCast]
    split
    · next hb => rw [toNat_div_two_pow_of_le a hb]; rfl
    · apply BitVec.eq_of_toNat_eq
      rw [BitVec.toNat_ushiftRight, Nat.shiftRight_eq_div_pow, BitVec.toNat_ofNat,
        Nat.mod_eq_of_lt ((Nat.div_le_self _ _).trans_lt a.isLt)]

/-- The bits of a word between two positions, as a field of its own. -/
theorem bitsOf_eq_toNat (a : Word) (pos e : Nat) : bitsOf a pos e = (a.extractLsb' pos (e - pos)).toNat := by
  rw [BitVec.extractLsb'_toNat, Nat.shiftRight_eq_div_pow, bitsOf]

/-- The top bit of a field. -/
theorem msb_extractLsb' (a : Word) {pos e : Nat} (he : pos < e) :
    (a.extractLsb' pos (e - pos)).msb = a.getLsbD (e - 1) := by
  rw [BitVec.msb_eq_getLsbD_last, BitVec.getLsbD_extractLsb']
  have h1 : e - pos - 1 < e - pos := by omega
  have h2 : pos + (e - pos - 1) = e - 1 := by omega
  simp [h1, h2]

/-- BFE's field, extended by its sign or by zeros. -/
theorem extended_field (s : Bool) (a : Word) {pos e : Nat} (he : pos < e) :
    (if s && a.getLsbD (e - 1) then BitVec.ofInt 32 ((bitsOf a pos e : Int) - 2 ^ (e - pos))
      else BitVec.ofNat 32 (bitsOf a pos e))
    = maskOf fun k => if pos + k < e then a.getLsbD (pos + k) else s && a.getLsbD (e - 1) := by
  rw [bitsOf_eq_toNat, ← msb_extractLsb' a he]
  generalize hx : a.extractLsb' pos (e - pos) = x
  have hbit : ∀ k, pos + k < e → x.getLsbD k = a.getLsbD (pos + k) := fun k hk => by
    rw [← hx, BitVec.getLsbD_extractLsb', decide_eq_true (by omega), Bool.true_and]
  split
  · next hs =>
    have hmsb : x.msb = true := (Bool.and_eq_true_iff.mp hs).2
    have hint : (x.toNat : Int) - 2 ^ (e - pos) = x.toInt := by
      rw [BitVec.toInt_eq_msb_cond, if_pos hmsb]
      norm_cast
    refine eq_maskOf fun k hk => ?_
    rw [hint, ← BitVec.signExtend, BitVec.getLsbD_signExtend, decide_eq_true hk, Bool.true_and]
    by_cases hke : pos + k < e
    · rw [if_pos (by omega), if_pos hke, hbit k hke]
    · rw [if_neg (by omega), if_neg hke, hs, hmsb]
  · next hs =>
    refine eq_maskOf fun k hk => ?_
    rw [BitVec.getLsbD_ofNat, decide_eq_true hk, Bool.true_and, BitVec.testBit_toNat]
    by_cases hke : pos + k < e
    · rw [if_pos hke, hbit k hke]
    · rw [if_neg hke, BitVec.getLsbD_of_ge _ _ (by omega), Bool.eq_false_iff.mpr hs]

/-- The position and the length that BFE and BFI take from b. -/
theorem fieldOf_pos (b : Word) : fieldOf b 0 8 = b.toNat % 256 := by
  simp only [fieldOf, Nat.shiftRight_zero, Nat.reducePow]

theorem fieldOf_len (b : Word) : fieldOf b 8 8 = b.toNat / 256 % 256 := by
  simp only [fieldOf, Nat.shiftRight_eq_div_pow, Nat.reducePow]

theorem bfe32_eq (f : Fields) (a b : Word) : bfe32 (signedX f) a b = extracted f a b := by
  unfold bfe32 extracted
  simp only [fieldOf_pos, fieldOf_len]
  generalize b.toNat % 256 = pos, b.toNat / 256 % 256 = len
  by_cases h : len = 0 ∨ 32 ≤ pos
  · simp [h]
  · have he : pos < min (pos + len) 32 := by omega
    rw [extended_field _ a he]
    simp [h, signedX]

/-- The sum of the three parts of BFI, bit by bit. -/
theorem testBit_three_parts {pos e lo mid hi : Nat} (he : pos ≤ e) (hlo : lo < 2 ^ pos) (hmid : mid < 2 ^ (e - pos)) (k : Nat) :
    (lo + mid * 2 ^ pos + hi * 2 ^ e).testBit k =
      if k < pos then lo.testBit k else if k < e then mid.testBit (k - pos) else hi.testBit (k - e) := by
  have hsum : lo + mid * 2 ^ pos + hi * 2 ^ e = 2 ^ pos * (2 ^ (e - pos) * hi + mid) + lo := by
    obtain ⟨n, rfl⟩ := Nat.exists_eq_add_of_le he
    simp only [Nat.add_sub_cancel_left, pow_add]
    ring
  rw [hsum, Nat.testBit_two_pow_mul_add _ hlo]
  split
  · rfl
  · rw [Nat.testBit_two_pow_mul_add _ hmid]
    have h1 : k - pos < e - pos ↔ k < e := by omega
    simp only [h1, show k - pos - (e - pos) = k - e by omega]

theorem bfi32_eq (a b c : Word) : bfi32 a b c = inserted a b c := by
  unfold bfi32 inserted
  simp only [fieldOf_pos, fieldOf_len]
  generalize b.toNat % 256 = pos, b.toNat / 256 % 256 = len
  by_cases h : len = 0 ∨ 32 ≤ pos
  · simp [h]
  · have he : pos ≤ min (pos + len) 32 := by omega
    generalize min (pos + len) 32 = e at he
    simp only [h, if_false, Bool.or_eq_true, decide_eq_true_eq]
    refine eq_maskOf fun k hk => ?_
    rw [BitVec.getLsbD_ofNat, decide_eq_true hk, Bool.true_and,
      testBit_three_parts he (Nat.mod_lt _ (by positivity)) (Nat.mod_lt _ (by positivity))]
    by_cases h1 : k < pos
    · have h2 : ¬ (pos ≤ k ∧ k < e) := by omega
      simp [h1, h2, BitVec.getLsbD]
    · by_cases h2 : k < e
      · have h3 : pos ≤ k := by omega
        have h4 : k - pos < e - pos := by omega
        simp [h1, h2, h3, h4, BitVec.getLsbD]
      · have h3 : k - e + e = k := by omega
        simp only [h1, h2, if_false, and_false, Nat.testBit_div_two_pow, h3, BitVec.testBit_toNat]

/-- The shifts and the bit fields. -/
theorem shiftsAndBitFields : Claims.ShiftsAndBitFields := by
  intro f
  refine ⟨?shl, ?shr, ?bfe, ?bfi⟩
  case shl => exact writes_each (fun _ => rfl) fun _ _ _ => shl32_eq _ _
  case shr => exact writes_each (fun _ => rfl) fun _ _ _ => shr32_eq f _ _
  case bfe => exact writes_each (fun _ => rfl) fun _ _ _ => bfe32_eq f _ _
  case bfi => exact writes_each (fun _ => rfl) fun _ _ _ => bfi32_eq _ _ _

/-! ### Logic, counts, compares and constants (R127, R130, R131) -/

theorem popcount_eq_countP (x : Word) : popcount x = (List.range 32).countP fun k => x.getLsbD k := by
  rw [List.countP_eq_length_filter]; rfl

/-- How many elements of a range pass a test before one fails it. -/
theorem length_takeWhile_range {p : Nat → Bool} {n m : Nat} (hm : m ≤ n) (hp : ∀ k, k < m → p k = true)
    (hend : m < n → p m = false) : ((List.range n).takeWhile p).length = m := by
  rcases hm.eq_or_lt with rfl | hlt
  · rw [List.takeWhile_eq_self_iff.mpr fun k hk => hp k (List.mem_range.mp hk), List.length_range]
  · have hidx : (List.range n).findIdx (fun k => !p k) = m :=
      (List.findIdx_eq (by simpa using hlt)).mpr ⟨by simp [hend hlt], fun k hk => by simp [hp k hk]⟩
    rw [List.takeWhile_eq_take_findIdx_not, hidx, List.length_take, List.length_range, min_eq_left hm]

/-- CLZ: the clear bits above the highest set bit. -/
theorem leadingZeros_eq (x : Word) :
    (if x == 0 then 32 else 31 - Nat.log2 x.toNat) = ((List.range 32).takeWhile fun k => !x.getLsbD (31 - k)).length := by
  symm
  by_cases hx : x = 0
  · subst hx
    exact length_takeWhile_range le_rfl (fun k _ => by simp) (by simp)
  · have hn : x.toNat ≠ 0 := fun h => hx (BitVec.eq_of_toNat_eq h)
    have hlog : Nat.log2 x.toNat < 32 := (Nat.log2_lt hn).mpr x.isLt
    rw [if_neg (by simpa using hx)]
    refine length_takeWhile_range (by omega) (fun k hk => ?_) fun _ => ?_
    · have hlt : x.toNat < 2 ^ (31 - k) := (Nat.log2_lt hn).mp (by omega)
      simp [BitVec.getLsbD, Nat.testBit_lt_two_pow hlt]
    · have hback : 31 - (31 - Nat.log2 x.toNat) = Nat.log2 x.toNat := by omega
      simp [BitVec.getLsbD, hback, Nat.testBit_log2 hn]

/-- The codes of MOD. -/
theorem mod_cases : ∀ m : BitVec 3, m = 0 ∨ m = 1 ∨ m = 2 ∨ m = 3 ∨ m = 4 ∨ m = 5 ∨ m = 6 ∨ m = 7 := by decide

/-- The conditions of ISET. -/
theorem cond_eq_compared (m : BitVec 3) (a b : Int) : Machine.cond m a b = compared m a b := by
  rcases mod_cases m with rfl | rfl | rfl | rfl | rfl | rfl | rfl | rfl
  case inr.inl => exact (decide_not (p := a = b)).symm
  all_goals rfl

theorem ones_eq (p : Bool) : ones p = if p then 0xFFFFFFFF else 0 := rfl

/-- The reading of ISET's operands. -/
theorem readInt_C (f : Fields) (x : Word) : readInt (f.srcc == 0) x = underC f x := by
  simp [readInt, underC]

/-- MOVI: the immediate extended by its sign or by zeros. -/
theorem extended_imm (f : Fields) :
    (if low f.mod == 1 then f.imm.signExtend 32 else f.imm.zeroExtend 32)
      = if low f.mod = 1 then BitVec.ofInt 32 f.imm.toInt else BitVec.ofNat 32 f.imm.toNat := by
  have hnat : f.imm.zeroExtend 32 = BitVec.ofNat 32 f.imm.toNat := BitVec.eq_of_toNat_eq (by simp)
  simp only [beq_iff_eq, hnat, BitVec.signExtend]

/-- MOVHI: the immediate above the low 24 bits of what the register held. -/
theorem high_imm (x : BitVec 24) (d : Word) :
    (x.zeroExtend 32 <<< (24 : Nat)) ||| (d &&& 0x00FFFFFF#32) = BitVec.ofNat 32 (x.toNat * 2 ^ 24 + d.toNat % 2 ^ 24) := by
  apply BitVec.eq_of_getLsbD_eq
  intro k hk
  have hlow : (0x00FFFFFF#32).getLsbD k = decide (k < 24) := by
    rw [BitVec.getLsbD_ofNat, decide_eq_true hk, Bool.true_and]
    exact Nat.testBit_two_pow_sub_one 24 k
  rw [BitVec.getLsbD_ofNat, decide_eq_true hk, Bool.true_and, Nat.mul_comm,
    Nat.testBit_two_pow_mul_add _ (Nat.mod_lt _ (by positivity)), BitVec.getLsbD_or, BitVec.getLsbD_and, hlow,
    BitVec.getLsbD_shiftLeft, decide_eq_true hk, Bool.true_and]
  by_cases h : k < 24
  · rw [if_pos h, Nat.testBit_mod_two_pow, BitVec.testBit_toNat]
    simp [h]
  · have h' : k - 24 < 32 := by omega
    rw [if_neg h, BitVec.testBit_toNat]
    simp [h, h']

/-- The logic instructions, moves and constants. -/
theorem logicMovesAndConstants : Claims.LogicMovesAndConstants := by
  intro f
  refine ⟨?zero, ?and, ?or, ?xor, ?andn, ?popc, ?clz, ?brev, ?sel, ?mov, ?iset, ?movi, ?movhi⟩
  case zero => exact fun g l => rfl
  case and => exact writes_each (fun _ => rfl) fun _ _ _ => eq_maskOf fun k _ => BitVec.getLsbD_and
  case or => exact writes_each (fun _ => rfl) fun _ _ _ => eq_maskOf fun k _ => BitVec.getLsbD_or
  case xor => exact writes_each (fun _ => rfl) fun _ _ _ => eq_maskOf fun k _ => BitVec.getLsbD_xor
  case andn => exact writes_each (fun _ => rfl) fun _ _ _ => eq_maskOf fun k hk => by simp [hk]
  case popc => exact writes_each (fun _ => rfl) fun _ _ _ => by rw [popcount_eq_countP]
  case clz => exact writes_each (fun _ => rfl) fun _ _ _ => by rw [leadingZeros_eq]
  case brev =>
    refine writes_each (fun _ => rfl) fun _ _ _ => eq_maskOf fun k hk => ?_
    rw [BitVec.getLsbD_reverse, BitVec.getMsbD, decide_eq_true hk, Bool.true_and]
  case sel =>
    refine writes_each (fun _ => rfl) fun c l _ => ?_
    simp only [bne_iff_ne, ne_eq, ite_not]
  case mov => exact writes_each (fun _ => rfl) fun _ _ _ => rfl
  case iset =>
    refine writes_each (fun _ => rfl) fun c l _ => ?_
    rw [ones_eq, cond_eq_compared, readInt_C, readInt_C]
  case movi => exact writes_each (fun _ => rfl) fun _ _ _ => extended_imm f
  case movhi =>
    exact writes_each (fun _ => rfl) fun _ _ _ => high_imm _ _

/-- Settles O15: each operation on words is its result bit by bit, or by value. -/
theorem bitsAndConstants : Obligations.BitsAndConstants := ⟨shiftsAndBitFields, logicMovesAndConstants⟩

/-! ### Indexed moves (R132) -/

theorem badIndex_eq (c : Ictx) : c.badIndex = misindexed c := rfl

/-- No participant's index is out of the group's registers where each names one. -/
theorem misindexed_eq_zero_iff (c : Ictx) : misindexed c = 0 ↔ namesRegister c := by
  rw [show (0 : Mask) = 0#32 from rfl, mask_zero_iff]
  constructor
  · intro h l hl
    have := h l (has_lt hl)
    simp only [misindexed, has_maskOf, has_lt hl, hl, decide_true, Bool.true_and, Bool.or_eq_false_iff,
      decide_eq_false_iff_not, beq_eq_false_iff_ne, not_le] at this
    exact this
  · intro h l hl
    by_cases hp : c.parts.has l = true
    · have hlt := (h l hp).1
      simp [misindexed, has_maskOf, hl, hp, (h l hp).2, hlt]
    · simp [misindexed, has_maskOf, hp]

/-- A mask is zero where it has no lowest lane. -/
theorem lowest_eq_none_iff (m : Mask) : lowest m = none ↔ m = 0 := by
  rw [show (0 : Mask) = 0#32 from rfl, mask_zero_iff, lowest, List.head?_eq_none_iff, List.eq_nil_iff_forall_not_mem]
  simp only [mem_lanesOf, Bool.not_eq_true]
  exact ⟨fun h i _ => h i, fun h i => Bool.eq_false_iff.mpr fun hi => by simp [h i (has_lt hi)] at hi⟩

/-- No fault where every participant's index names a register. -/
theorem indexFault_eq_none {c : Ictx} (h : namesRegister c) : c.indexFault = none := by
  rw [Ictx.indexFault, badIndex_eq, (lowest_eq_none_iff _).mpr ((misindexed_eq_zero_iff c).mpr h), Option.map_none]

/-- REG_INDEX otherwise, with the lanes at fault and the index of the lowest of them. -/
theorem indexFault_eq_some {c : Ictx} (h : ¬ namesRegister c) :
    c.indexFault = some ⟨BitVec.ofNat 32 0x08, misindexed c, BitVec.ofNat 32 c.g.nregs, c.addr,
      BitVec.ofNat 64 ((c.a ((lowest (misindexed c)).getD 0)).toNat + c.f.srcc.toNat)⟩ := by
  cases hl : lowest (misindexed c) with
  | none => exact absurd ((misindexed_eq_zero_iff c).mp ((lowest_eq_none_iff _).mp hl)) h
  | some i => rw [Ictx.indexFault, badIndex_eq, hl]; rfl

/-- A result in a register of each participant's own choice. -/
theorem reg_indexed (h : Group) (c : Ictx) (r l : Nat) (hr : r ≠ 255) (hl : l < 32) :
    (h.writeRegs ((lanesOf c.parts).map fun i => ⟨c.index i, i, c.b i⟩)).reg r l
      = if c.parts.has l then (intoIndexed (fun c l => c.b l) c r l).getD (h.reg r l) else h.reg r l := by
  rw [reg_writeRegs _ _ _ _ hr hl, List.map_eq_flatMap, lastResult_flatMap _ (nodup_lanesOf _)]
  · by_cases hp : c.parts.has l = true
    · by_cases hx : r = c.index l
      · have hx' : r = (c.a l).toNat + c.f.srcc.toNat := hx
        simp [hp, lastResult, intoIndexed, ← hx, ← hx']
      · have hx' : ¬ r = (c.a l).toNat + c.f.srcc.toNat := hx
        simp [hp, lastResult, intoIndexed, hx', Ne.symm hx]
    · simp [hp]
  · simp
  · intro w hw
    simp only [List.mem_map, mem_lanesOf] at hw
    obtain ⟨i, hi, rfl⟩ := hw
    exact has_lt hi

/-- MOVX and MOVXW. -/
theorem indexedMoves : Claims.IndexedMoves := by
  intro f
  refine ⟨?movx, ?movxw, ?faults⟩
  case movx =>
    refine writesIf_each (v := fun c i => c.g.reg (c.index i) i) (fun _ => rfl)
      (fun c s _ hn => by simp only [indexFault_eq_none hn]) fun c l hf _ => ?_
    rw [Ictx.index, hf]
  case movxw =>
    exact writes_of (fun _ => rfl) (fun c s _ hn => by simp only [indexFault_eq_none hn]) fun c h r l hr hl _ =>
      reg_indexed h c r l hr hl
  case faults =>
    intro i hi
    simp only [List.mem_cons, List.not_mem_nil, or_false] at hi
    rcases hi with rfl | rfl
    · exact faults_whole (fun _ => rfl) fun s cur g hn _ => by simp only [indexFault_eq_some hn]; rfl
    · exact faults_whole (fun _ => rfl) fun s cur g hn _ => by simp only [indexFault_eq_some hn]; rfl

/-! ### Byte windows (R133) -/

/-- A byte of the eight that two words make. -/
theorem byte_of_append (a b : Word) {j : Nat} (hj : j < 8) :
    (b ++ a).toNat / 2 ^ (8 * j) % 256 = if j < 4 then a.toNat / 256 ^ j % 256 else b.toNat / 256 ^ (j - 4) % 256 := by
  have ha := a.isLt
  have hsum : (b ++ a).toNat = b.toNat * 2 ^ 32 + a.toNat := by
    rw [BitVec.toNat_append, ← Nat.shiftLeft_add_eq_or_of_lt ha, Nat.shiftLeft_eq]
  rw [hsum]
  interval_cases j <;> norm_num <;> omega

/-- BWIN's window, before ZERO and EXT. -/
def windowList (a b c : Word) : List Nat :=
  let win := (List.range 4).map fun k => (b ++ a).toNat / 2 ^ (8 * ((k + fieldOf c 0 3) % 8)) % 256
  if c.getLsbD 3 then win.reverse else win

/-- BWIN's next byte, after those that stand. -/
def windowStep (c : Word) (win acc : List Nat) (k : Nat) : List Nat :=
  acc ++ [if c.getLsbD (4 + k) then 0
    else if c.getLsbD (8 + k) && 0 < k then (if 128 ≤ acc.getD (k - 1) 0 then 255 else 0) else win.getD k 0]

theorem bwin_eq_steps (a b c : Word) : bwin a b c =
    let out := (List.range 4).foldl (windowStep c (windowList a b c)) []
    BitVec.ofNat 32 (out.getD 0 0 + 256 * out.getD 1 0 + 65536 * out.getD 2 0 + 16777216 * out.getD 3 0) := rfl

theorem windowList_getD (a b c : Word) {k : Nat} (hk : k < 4) : (windowList a b c).getD k 0 = window a b c k := by
  have hsh : fieldOf c 0 3 = c.toNat % 8 := rfl
  have hbyte : ∀ m, (b ++ a).toNat / 2 ^ (8 * (m % 8)) % 256
      = if m % 8 < 4 then a.toNat / 256 ^ (m % 8) % 256 else b.toNat / 256 ^ (m % 8 - 4) % 256 :=
    fun m => byte_of_append a b (Nat.mod_lt _ (by decide))
  have hmod : ∀ m, (m + c.toNat % 8) % 8 = (m + c.toNat) % 8 := fun m => by omega
  unfold windowList window
  cases c.getLsbD 3 <;> simp [hsh, hmod, hbyte, hk]

theorem window_lt (a b c : Word) (k : Nat) : window a b c k < 256 := by
  unfold window
  dsimp only
  split_ifs <;> exact Nat.mod_lt _ (Nat.succ_pos 255)

theorem windowByte_lt (a b c : Word) (k : Nat) : windowByte a b c k < 256 := by
  cases k with
  | zero =>
    unfold windowByte
    split
    · decide
    · exact window_lt a b c 0
  | succ k =>
    unfold windowByte
    split_ifs
    · decide
    · decide
    · decide
    · exact window_lt a b c (k + 1)

/-- The bytes of BWIN, one after another. -/
theorem windowStep_foldl (a b c : Word) {n : Nat} (hn : n ≤ 4) :
    (List.range n).foldl (windowStep c (windowList a b c)) [] = (List.range n).map (windowByte a b c) := by
  induction n with
  | zero => rfl
  | succ n ih =>
    rw [List.range_succ, List.foldl_append, ih (by omega), List.map_append]
    simp only [List.foldl_cons, List.foldl_nil, windowStep, windowList_getD a b c (show n < 4 by omega)]
    congr 2
    cases n with
    | zero => simp [windowByte]
    | succ n =>
      have hb := windowByte_lt a b c n
      have h128 : 128 ≤ windowByte a b c n ↔ windowByte a b c n / 128 % 2 = 1 := by omega
      simp [windowByte, List.getD, h128]

theorem bwin_eq (a b c : Word) : bwin a b c =
    let w := windowByte a b c
    BitVec.ofNat 32 (w 0 + w 1 * 2 ^ 8 + w 2 * 2 ^ 16 + w 3 * 2 ^ 24) := by
  rw [bwin_eq_steps, windowStep_foldl a b c le_rfl]
  simp [List.range_succ, Nat.mul_comm]

/-! ### Exchanges between lanes (R134, R166) -/

theorem lxchLane_eq (c : Ictx) {i : Nat} (hi : i < 32) :
    lxchLane c.g.fwd (low c.f.mod) (c.b i + c.f.srcc.zeroExtend 32) i = exchanged c i := by
  have hs : c.b i + c.f.srcc.zeroExtend 32 = BitVec.ofNat 32 ((c.b i).toNat + c.f.srcc.toNat) :=
    BitVec.eq_of_toNat_eq (by simp)
  have hm : ∀ m : BitVec 2, m = 0 ∨ m = 1 ∨ m = 2 ∨ m = 3 := by decide
  unfold lxchLane exchanged
  rw [hs]
  generalize BitVec.ofNat 32 ((c.b i).toNat + c.f.srcc.toNat) = s
  have h1 : i % 32 = i := Nat.mod_eq_of_lt hi
  have h0 : i / 32 = 0 := Nat.div_eq_of_lt hi
  cases c.g.fwd with
  | false => rcases hm (low c.f.mod) with h | h | h | h <;> simp [h, h1, h0]
  | true => rcases hm (low c.f.mod) with h | h | h | h <;> simp [h]

/-! ### Combinations over lanes (R135, R167) -/

theorem mem_combined (c : Ictx) (i j : Nat) :
    j ∈ combined c i ↔ c.parts.has j = true ∧ (c.g.fwd = true → j / 16 = i / 16) := by
  simp only [combined, List.mem_filter, List.mem_range, Bool.and_eq_true, Bool.or_eq_true, Bool.not_eq_true',
    beq_iff_eq]
  constructor
  · rintro ⟨_, hp, h | h⟩
    · exact ⟨hp, by simp [h]⟩
    · exact ⟨hp, fun _ => h⟩
  · rintro ⟨hp, h⟩
    refine ⟨has_lt hp, hp, ?_⟩
    cases hf : c.g.fwd
    · exact .inl rfl
    · exact .inr (h hf)

theorem combined_sorted (c : Ictx) (i : Nat) : (combined c i).Pairwise (· < ·) :=
  List.Pairwise.filter _ List.pairwise_lt_range

/-- What is combined for a lane lies in the lanes of its set. -/
theorem combined_bounds {c : Ictx} {i j : Nat} (h : j ∈ combined c i) :
    firstLane c i ≤ j ∧ j - firstLane c i < laneCount c := by
  obtain ⟨hp, hh⟩ := (mem_combined c i j).mp h
  have := has_lt hp
  unfold firstLane laneCount
  cases hf : c.g.fwd
  · simpa using this
  · have := hh hf
    simp only [if_true]
    omega

/-- The halves of the lanes. -/
theorem has_halfMask : ∀ h < 2, ∀ j < 32, (halfMask h).has j = (j / 16 == h) := by decide

/-- The model's set of LMASK is the one that R135 and R167 give. -/
theorem lmaskSet_eq (c : Ictx) {i : Nat} (hi : i < 32) :
    lanesOf (lmaskSet c i).1 = combined c i ∧ (lmaskSet c i).2 = (firstLane c i, laneCount c) := by
  unfold lmaskSet firstLane laneCount
  cases hf : c.g.fwd
  · refine ⟨List.filter_congr fun j _ => ?_, rfl⟩
    simp [hf]
  · refine ⟨List.filter_congr fun j hj => ?_, rfl⟩
    have hhalf := has_halfMask (i / 16) (by omega) j (List.mem_range.mp hj)
    unfold Mask.has at hhalf ⊢
    simp [hf, hhalf]

/-- LMASK.BALLOT's bits, set one after another. -/
theorem foldl_or_eq_maskOf (ls : List Nat) (base : Nat) (h : ∀ j ∈ ls, j - base < 32) :
    ls.foldl (fun x j => x ||| (1#32 <<< (j - base))) 0 = maskOf fun k => ls.any fun j => j - base == k := by
  refine eq_maskOf fun k hk => ?_
  have := maskOf_foldl (fun _ => true) (ls.map (· - base)) 0 k hk (by simpa using h)
  simpa [List.foldl_map, Function.comp_def] using this

/-- The first of an ascending list is its least. -/
theorem head_eq_foldr_min (ls : List Nat) (base n : Nat) (hs : ls.Pairwise (· < ·)) (hn : ∀ j ∈ ls, j - base ≤ n) :
    (ls.head?.map (· - base)).getD n = ls.foldr (fun j m => min (j - base) m) n := by
  induction ls with
  | nil => rfl
  | cons a as ih =>
    obtain ⟨hlt, hs'⟩ := List.pairwise_cons.mp hs
    rw [List.foldr_cons, ← ih hs' fun j hj => hn j (by simp [hj])]
    cases as with
    | nil => simpa using hn a
    | cons b bs =>
      have := hlt b (by simp)
      simp only [List.head?_cons, Option.map_some, Option.getD_some]
      omega

/-- The last of an ascending list is its greatest. -/
theorem getLast_eq_foldr_max (ls : List Nat) (base n : Nat) (hs : ls.Pairwise (· < ·)) (hne : ls ≠ []) :
    (ls.getLast?.map (· - base)).getD n = ls.foldr (fun j m => max (j - base) m) 0 := by
  induction ls with
  | nil => exact absurd rfl hne
  | cons a as ih =>
    obtain ⟨hlt, hs'⟩ := List.pairwise_cons.mp hs
    cases as with
    | nil => simp
    | cons b bs =>
      rw [List.foldr_cons, ← ih hs' (by simp), List.getLast?_cons_cons]
      obtain ⟨z, hz⟩ := Option.ne_none_iff_exists'.mp (show (b :: bs).getLast? ≠ none by simp)
      have := hlt z (List.mem_of_getLast? hz)
      simp only [hz, Option.map_some, Option.getD_some]
      omega

/-- The number of the greatest of an ascending list, or `n` where it is empty. -/
theorem ofNat_getLast (ls : List Nat) (base n : Nat) (hs : ls.Pairwise (· < ·)) :
    BitVec.ofNat 32 ((ls.getLast?.map (· - base)).getD n) =
      if ls = [] then BitVec.ofNat 32 n else BitVec.ofNat 32 (ls.foldr (fun j m => max (j - base) m) 0) := by
  split
  · next h => rw [h]; rfl
  · next h => rw [getLast_eq_foldr_max ls base n hs h]

/-- All of a list have one value where each has the first's. -/
theorem all_eq_head_iff {α : Type} [DecidableEq α] (v : Nat → α) (ls : List Nat) :
    (ls.all fun j => v j == v (ls.headD 0)) = true ↔ ∀ j ∈ ls, ∀ k ∈ ls, v j = v k := by
  cases ls with
  | nil => simp
  | cons a as =>
    simp only [List.all_eq_true, beq_iff_eq, List.headD_cons]
    exact ⟨fun h j hj k hk => (h j hj).trans (h k hk).symm, fun h j hj => h j hj a (by simp)⟩

theorem lmask_eq (c : Ictx) {i : Nat} (hi : i < 32) : lmask c i = maskResult c i := by
  obtain ⟨hset, hrest⟩ := lmaskSet_eq c hi
  have hsort := (combined_sorted c i).filter fun j => decide (c.bt j ≠ 0)
  have hbound : ∀ j ∈ (combined c i).filter fun j => decide (c.bt j ≠ 0), j - firstLane c i < laneCount c :=
    fun j hj => (combined_bounds (List.mem_filter.mp hj).1).2
  have hcount : laneCount c ≤ 32 := by unfold laneCount; split <;> decide
  have hbne : (fun j => c.bt j != 0) = fun j => decide (c.bt j ≠ 0) := by
    funext j
    rw [Bool.eq_iff_iff, bne_iff_ne, decide_eq_true_iff]
  unfold lmask maskResult
  rw [show lmaskSet c i = ((lmaskSet c i).1, firstLane c i, laneCount c) by rw [← hrest]]
  simp only [hset, hbne, ones_eq]
  generalize c.f.mod = m
  rcases mod_cases m with rfl | rfl | rfl | rfl | rfl | rfl | rfl | rfl
  · exact foldl_or_eq_maskOf _ _ fun j hj => (hbound j hj).trans_le hcount
  · rfl
  · refine if_congr ?_ rfl rfl
    simp only [beq_iff_eq, List.length_filter_eq_length_iff, decide_eq_true_eq]
  · refine if_congr ?_ rfl rfl
    simp only [Bool.not_eq_true', List.isEmpty_eq_false_iff_exists_mem, List.mem_filter, decide_eq_true_eq]
  · exact if_congr (all_eq_head_iff c.bt _) rfl rfl
  · exact congrArg (BitVec.ofNat 32) (head_eq_foldr_min _ _ _ hsort fun j hj => (hbound j hj).le)
  · exact ofNat_getLast _ _ _ hsort
  · exact ofNat_getLast _ _ _ hsort

/-- A fold of values from the first one is the fold of their images from a unit. -/
theorem image_foldl {α β : Type} (φ : α → β) (op : α → α → α) (op' : β → β → β) (e : β)
    (hom : ∀ x y, φ (op x y) = op' (φ x) (φ y)) (assoc : ∀ x y z, op' (op' x y) z = op' x (op' y z))
    (unit : ∀ x, op' (φ x) e = φ x) (x : α) (xs : List α) :
    φ (xs.foldl op x) = ((x :: xs).map φ).foldr op' e := by
  induction xs generalizing x with
  | nil => exact (unit x).symm
  | cons y ys ih =>
    rw [List.foldl_cons, ih]
    simp only [List.map_cons, List.foldr_cons, hom, assoc]

/-- The sum of words, modulo 2^32. -/
theorem ofNat_sum (vs : List Word) : BitVec.ofNat 32 (vs.map BitVec.toNat).sum = vs.foldr (· + ·) 0 := by
  induction vs with
  | nil => rfl
  | cons v vs ih => rw [List.map_cons, List.sum_cons, BitVec.ofNat_add, ih, BitVec.ofNat_toNat]; simp

/-- The result of R135 for an operation's code, from the values that it combines. -/
def combinedValue (m : BitVec 3) (vs : List Word) : Word :=
  match m.toNat with
  | 0 => BitVec.ofNat 32 ((vs.map BitVec.toNat).sum)
  | 1 => BitVec.ofInt 32 ((vs.map BitVec.toInt).foldr min (2 ^ 31 - 1))
  | 2 => BitVec.ofInt 32 ((vs.map BitVec.toInt).foldr max (-2 ^ 31))
  | 3 => BitVec.ofNat 32 ((vs.map BitVec.toNat).foldr min (2 ^ 32 - 1))
  | 4 => BitVec.ofNat 32 ((vs.map BitVec.toNat).foldr max 0)
  | 5 => vs.foldr (· &&& ·) 0xFFFFFFFF
  | 6 => vs.foldr (· ||| ·) 0
  | _ => vs.foldr (· ^^^ ·) 0

/-- LCOMB's operation over values, one after another from the first. -/
theorem foldl_lcombOp (m : BitVec 3) (x : Word) (xs : List Word) :
    xs.foldl (lcombOp m) x = combinedValue m (x :: xs) := by
  rcases mod_cases m with rfl | rfl | rfl | rfl | rfl | rfl | rfl | rfl
  · show xs.foldl (· + ·) x = BitVec.ofNat 32 ((x :: xs).map BitVec.toNat).sum
    have h := image_foldl id (· + ·) (· + ·) 0 (fun _ _ => rfl) BitVec.add_assoc BitVec.add_zero x xs
    rwa [List.map_id, ← ofNat_sum] at h
  · have h := image_foldl BitVec.toInt (lcombOp 1) min (2 ^ 31 - 1)
      (fun y z => (apply_ite BitVec.toInt _ y z).trans (min_def _ _).symm) min_assoc
      (fun y => min_eq_left (Int.le_sub_one_of_lt BitVec.toInt_lt)) x xs
    exact BitVec.ofInt_toInt.symm.trans (congrArg _ h)
  · have h := image_foldl BitVec.toInt (lcombOp 2) max (-2 ^ 31)
      (fun y z => (apply_ite BitVec.toInt _ z y).trans (max_def _ _).symm) max_assoc
      (fun y => max_eq_left (BitVec.le_toInt y)) x xs
    exact BitVec.ofInt_toInt.symm.trans (congrArg _ h)
  · have h := image_foldl BitVec.toNat (lcombOp 3) min (2 ^ 32 - 1)
      (fun y z => (apply_ite BitVec.toNat _ y z).trans (min_def _ _).symm) min_assoc
      (fun y => min_eq_left (Nat.le_sub_one_of_lt y.isLt)) x xs
    exact ((BitVec.ofNat_toNat 32 _).trans (BitVec.setWidth_eq _)).symm.trans (congrArg _ h)
  · have h := image_foldl BitVec.toNat (lcombOp 4) max 0
      (fun y z => (apply_ite BitVec.toNat _ z y).trans (max_def _ _).symm) max_assoc
      (fun y => max_eq_left (Nat.zero_le _)) x xs
    exact ((BitVec.ofNat_toNat 32 _).trans (BitVec.setWidth_eq _)).symm.trans (congrArg _ h)
  · have h := image_foldl id (lcombOp 5) (· &&& ·) 0xFFFFFFFF (fun _ _ => rfl) BitVec.and_assoc
      (fun y => BitVec.and_allOnes) x xs
    rwa [List.map_id] at h
  · have h := image_foldl id (lcombOp 6) (· ||| ·) 0 (fun _ _ => rfl) BitVec.or_assoc (fun y => BitVec.or_zero) x xs
    rwa [List.map_id] at h
  · have h := image_foldl id (lcombOp 7) (· ^^^ ·) 0 (fun _ _ => rfl) BitVec.xor_assoc (fun y => BitVec.xor_zero) x xs
    rwa [List.map_id] at h

/-- Blocks of at most 16 lanes are the blocks of any size within each 16 lanes. -/
theorem div_two_pow_min_four_iff (n i j : Nat) :
    j / 2 ^ min n 4 = i / 2 ^ min n 4 ↔ j / 2 ^ n = i / 2 ^ n ∧ j / 16 = i / 16 := by
  have hdiv : ∀ m, min n 4 ≤ m → ∀ k : Nat, k / 2 ^ m = k / 2 ^ min n 4 / 2 ^ (m - min n 4) := fun m hm k => by
    rw [Nat.div_div_eq_div_mul, ← pow_add, Nat.add_sub_cancel' hm]
  constructor
  · intro h
    have hfine : ∀ m, min n 4 ≤ m → j / 2 ^ m = i / 2 ^ m := fun m hm => by rw [hdiv m hm j, hdiv m hm i, h]
    exact ⟨hfine n (min_le_left n 4), hfine 4 (min_le_right n 4)⟩
  · rintro ⟨h1, h2⟩
    rcases le_total n 4 with h | h
    · rwa [min_eq_left h]
    · rwa [min_eq_right h]

/-- The lane block of R135 within the lanes that R167 combines: a block of 32 is one of 16 in forerunner mode. -/
theorem block_eq (c : Ictx) (i : Nat) :
    ((lanesOf c.parts).filter fun j =>
        j / 2 ^ (if c.g.fwd then min c.f.srcc.toNat 4 else c.f.srcc.toNat)
          == i / 2 ^ (if c.g.fwd then min c.f.srcc.toNat 4 else c.f.srcc.toNat))
      = (combined c i).filter fun j => decide (j / 2 ^ c.f.srcc.toNat = i / 2 ^ c.f.srcc.toNat) := by
  generalize c.f.srcc.toNat = n
  unfold lanesOf combined
  rw [List.filter_filter, List.filter_filter]
  refine List.filter_congr fun j hj => ?_
  cases hf : c.g.fwd
  · simp [Bool.and_comm, beq_eq_decide]
  · simp only [if_true, Bool.not_true, Bool.false_or, beq_eq_decide, div_two_pow_min_four_iff, Bool.decide_and]
    ac_rfl

theorem blockResult_eq (c : Ictx) (i : Nat) : blockResult c i = combinedValue c.f.mod
    (((combined c i).filter fun j => decide (j / 2 ^ c.f.srcc.toNat = i / 2 ^ c.f.srcc.toNat)).map c.bt) := rfl

theorem lcomb_eq (c : Ictx) {i : Nat} (hp : c.parts.has i = true) : lcomb c i = blockResult c i := by
  rw [blockResult_eq]
  unfold lcomb
  dsimp only
  rw [block_eq c i]
  have hmem : i ∈ (combined c i).filter fun j => decide (j / 2 ^ c.f.srcc.toNat = i / 2 ^ c.f.srcc.toNat) := by
    simp [mem_combined, hp]
  split
  · next h => simp [List.map_eq_nil_iff.mp h] at hmem
  · next h => rw [h, foldl_lcombOp]

/-- BWIN, LXCH, LMASK and LCOMB. -/
theorem windowsAndLanes : Claims.WindowsAndLanes := by
  intro f
  refine ⟨?bwin, ?lxch, ?lmask, ?lcomb⟩
  case bwin => exact writes_each (fun _ => rfl) fun c l _ => bwin_eq _ _ _
  case lxch =>
    refine writes_participants (v := fun c i => c.a (lxchLane c.g.fwd (low f.mod) (c.b i + f.srcc.zeroExtend 32) i))
      (fun _ => rfl) fun c l hf hp => ?_
    rw [← hf, lxchLane_eq c (has_lt hp)]
  case lmask => exact writes_participants (fun _ => rfl) fun c l _ hp => lmask_eq c (has_lt hp)
  case lcomb => exact writes_participants (fun _ => rfl) fun c l _ hp => lcomb_eq c hp

/-- Settles O16: an index that names no register is a fault at once; what is read, exchanged and combined is as the spec
gives it, lane by lane. -/
theorem indexesWindowsAndLanes : Obligations.IndexesWindowsAndLanes := ⟨indexedMoves, windowsAndLanes⟩

end Sys2Proof.Proofs
end

section
/-!
SUPPORT. Rounding and the arithmetic of row 2 (R171, R179, R180, R193, R194, R196): the model's rounding of an integer
multiple of a power of two is that of R179, and the operations on codes are exact up to it.
-/
namespace Sys2Proof.Proofs

open Sys2Proof.Machine Sys2Proof.Claims

/-! ### The arithmetic formats -/

/-- What the arithmetic formats share (R170, R172): infinities, NaNs above them, and a mantissa with a quiet bit. -/
structure Ieee (F : Fmt) : Prop where
  inf : F.inf = true
  ieeeNan : F.ieeeNan = true
  m_pos : 0 < F.m
  w_pos : 0 < F.w

theorem ieee_of_mem {F : Fmt} (h : F ∈ arithmetic) : Ieee F := by
  simp only [arithmetic, List.mem_cons, List.not_mem_nil, or_false] at h
  obtain rfl | rfl | rfl | rfl := h <;> exact ⟨rfl, rfl, by decide, by decide⟩

theorem Ieee.two_le_pow_w {F : Fmt} (hF : Ieee F) : 2 ≤ 2 ^ F.w := Nat.le_self_pow hF.w_pos.ne' 2

theorem Ieee.top_pos {F : Fmt} (hF : Ieee F) : 0 < F.top :=
  Nat.mul_pos (by have := hF.two_le_pow_w; omega) (by positivity)

theorem Ieee.two_dvd_pow_m {F : Fmt} (hF : Ieee F) : 2 ∣ 2 ^ F.m := dvd_pow_self 2 hF.m_pos.ne'

/-- The top code and the mantissas above it fill the last binade of the magnitudes. -/
theorem top_add_pow (F : Fmt) : F.top + 2 ^ F.m = 2 ^ (F.w + F.m) := by
  have h : 2 ^ F.w - 1 + 1 = 2 ^ F.w := Nat.sub_add_cancel Nat.one_le_two_pow
  rw [Fmt.top, ← Nat.succ_mul, Nat.succ_eq_add_one, h, pow_add]

/-! ### Magnitudes (R171) -/

/-- Between two powers of two, and below the first of them, the magnitudes are the multiples of one quantum: the code of
t × 2^(qmin + j) is t + j × 2^m. -/
theorem magnitude_eq {F : Fmt} {t j : Nat} (ht : t ≤ 2 ^ (F.m + 1)) (hj : j = 0 ∨ 2 ^ F.m ≤ t) :
    magnitude F (t + j * 2 ^ F.m) = t * (2 : ℝ) ^ (F.qmin + j) := by
  have hp : 0 < 2 ^ F.m := by positivity
  have two : (2 : ℝ) ≠ 0 := two_ne_zero
  rcases lt_or_ge t (2 ^ F.m) with hlt | hge
  · obtain rfl : j = 0 := hj.resolve_right hlt.not_ge
    simp [magnitude, hlt]
  · obtain ⟨d, rfl⟩ := Nat.exists_eq_add_of_le hge
    have hk : 2 ^ F.m + d + j * 2 ^ F.m = d + 2 ^ F.m * (j + 1) := by ring
    have hge' : ¬ d + 2 ^ F.m * (j + 1) < 2 ^ F.m := by rw [Nat.mul_succ]; omega
    rw [hk, magnitude, if_neg hge', Nat.add_mul_mod_self_left, Nat.add_mul_div_left _ _ hp]
    rcases lt_or_ge d (2 ^ F.m) with hd | hd
    · rw [Nat.mod_eq_of_lt hd, Nat.div_eq_of_lt hd, Nat.add_comm d]
      congr 2
      push_cast
      ring
    · obtain rfl : d = 2 ^ F.m := by rw [pow_succ] at ht; omega
      have he : F.qmin + ((1 + (j + 1) : Nat) : Int) - 1 = F.qmin + j + 1 := by push_cast; ring
      rw [Nat.mod_self, Nat.div_self hp, he, zpow_add_one₀ two]
      push_cast
      ring

/-! ### Rounding (R179, R180) -/

/-- A code below the top is the code of its magnitude; any other overflows as R180 says. -/
theorem codeOf_eq {F : Fmt} (hF : Ieee F) {mode : Nat} (hm : mode < 4) (s : Bool) (k : Nat) :
    (if F.maxCode < k then F.overflow mode false s else F.signed s k) = codeOf F mode s k := by
  have hmax : F.maxCode = F.top - 1 := by simp [Fmt.maxCode, hF.inf]
  have htop := hF.top_pos
  unfold codeOf
  by_cases hk : k < F.top
  · rw [if_pos hk, if_neg (by omega)]
  · rw [if_neg hk, if_pos (by omega), Fmt.overflow, hmax]
    interval_cases mode <;> cases s <;> simp [hF.inf]

/-- The quantum of a format at n × 2^e, as an exponent: a mantissa's length below the leading bit, and no less than that
of the subnormals. -/
def quantum (F : Fmt) (n : Nat) (e : Int) : Int := max F.qmin ((Nat.log2 n : Int) + e - F.m)

/-- How many binades a quantum lies above that of the subnormals. -/
def binade (F : Fmt) (n : Nat) (e : Int) : Nat := (quantum F n e - F.qmin).toNat

theorem qmin_add_binade (F : Fmt) (n : Nat) (e : Int) : F.qmin + binade F n e = quantum F n e := by
  have : F.qmin ≤ quantum F n e := le_max_left _ _
  unfold binade
  omega

theorem round_eq_codeOf {F : Fmt} (hF : Ieee F) {mode : Nat} (hm : mode < 4) (s : Bool) {n : Nat} (hn : 0 < n) (e : Int) :
    F.round mode s n e =
      codeOf F mode s (roundAt mode s n e (quantum F n e) false + binade F n e * 2 ^ F.m) := by
  simp only [Fmt.round, Fmt.roundTo, hn.ne', quantum, binade, decide_false, Bool.false_and, Bool.false_eq_true, if_false]
  exact codeOf_eq hF hm s _

theorem roundAt_of_le (mode : Nat) (s : Bool) (n : Nat) {e q : Int} (h : q ≤ e) :
    roundAt mode s n e q false = n * 2 ^ (e - q).toNat := if_pos h

theorem roundAt_of_lt (mode : Nat) (s : Bool) (n : Nat) {e q : Int} (h : e < q) :
    roundAt mode s n e q false =
      if roundsUp mode s (n / 2 ^ (q - e).toNat) (n % 2 ^ (q - e).toNat) (q - e).toNat false then
        n / 2 ^ (q - e).toNat + 1
      else n / 2 ^ (q - e).toNat := if_neg h.not_ge

/-- The multiple of the quantum 2^q that lies at n × 2^e or next below it: what rounding to zero takes. -/
def truncated (n : Nat) (e q : Int) : Nat := roundAt 1 false n e q false

theorem truncated_of_le {n : Nat} {e q : Int} (h : q ≤ e) : truncated n e q = n * 2 ^ (e - q).toNat :=
  roundAt_of_le 1 false n h

theorem truncated_of_lt {n : Nat} {e q : Int} (h : e < q) : truncated n e q = n / 2 ^ (q - e).toNat :=
  (roundAt_of_lt 1 false n h).trans (if_neg Bool.false_ne_true)

theorem zpow_eq_pow_mul {e q : Int} (h : q ≤ e) : (2 : ℝ) ^ e = 2 ^ (e - q).toNat * (2 : ℝ) ^ q := by
  rw [← zpow_natCast, ← zpow_add₀ two_ne_zero]
  congr 1
  omega

/-- A number whose exponent is no less than the quantum's is a multiple of the quantum. -/
theorem truncated_exact {n : Nat} {e q : Int} (h : q ≤ e) : n * (2 : ℝ) ^ e = truncated n e q * (2 : ℝ) ^ q := by
  rw [truncated_of_le h, zpow_eq_pow_mul h]
  push_cast
  ring

/-- Below the quantum, n × 2^e is a multiple of the quantum and a remainder. -/
theorem truncated_add_rem {n : Nat} {e q : Int} (h : e < q) :
    n * (2 : ℝ) ^ e = truncated n e q * (2 : ℝ) ^ q + (n % 2 ^ (q - e).toNat : Nat) * (2 : ℝ) ^ e := by
  have hn : (n : ℝ) = ((2 ^ (q - e).toNat * (n / 2 ^ (q - e).toNat) + n % 2 ^ (q - e).toNat : Nat) : ℝ) := by
    rw [Nat.div_add_mod]
  rw [truncated_of_lt h, zpow_eq_pow_mul h.le]
  conv_lhs => rw [hn]
  push_cast
  ring

theorem truncated_le (n : Nat) (e q : Int) : truncated n e q * (2 : ℝ) ^ q ≤ n * (2 : ℝ) ^ e := by
  rcases le_or_gt q e with h | h
  · exact (truncated_exact h).ge
  · rw [truncated_add_rem h]
    exact le_add_of_nonneg_right (by positivity)

theorem lt_truncated_succ (n : Nat) (e q : Int) : n * (2 : ℝ) ^ e < (truncated n e q + 1 : Nat) * (2 : ℝ) ^ q := by
  have hq : (0 : ℝ) < 2 ^ q := by positivity
  rcases le_or_gt q e with h | h
  · rw [truncated_exact h]
    push_cast
    linarith
  · have hr : ((n % 2 ^ (q - e).toNat : Nat) : ℝ) < 2 ^ (q - e).toNat := by
      exact_mod_cast Nat.mod_lt n (by positivity : 0 < 2 ^ (q - e).toNat)
    have hlt := mul_lt_mul_of_pos_right hr (by positivity : (0 : ℝ) < 2 ^ e)
    rw [← zpow_eq_pow_mul h.le] at hlt
    rw [truncated_add_rem h]
    push_cast
    linarith

/-- At its quantum a number has at most a whole mantissa. -/
theorem truncated_lt (F : Fmt) (n : Nat) (e : Int) : truncated n e (quantum F n e) < 2 ^ (F.m + 1) := by
  have hq : (0 : ℝ) < 2 ^ quantum F n e := by positivity
  have hn : (n : ℝ) < 2 ^ (n.log2 + 1) := by exact_mod_cast Nat.lt_log2_self
  have key : (truncated n e (quantum F n e) : ℝ) * 2 ^ quantum F n e < 2 ^ (F.m + 1) * 2 ^ quantum F n e := by
    calc (truncated n e (quantum F n e) : ℝ) * 2 ^ quantum F n e ≤ n * 2 ^ e := truncated_le _ _ _
      _ < 2 ^ (n.log2 + 1) * 2 ^ e := mul_lt_mul_of_pos_right hn (by positivity)
      _ = 2 ^ ((n.log2 : Int) + 1 + e) := by rw [zpow_add₀ two_ne_zero]; norm_cast
      _ ≤ 2 ^ ((F.m : Int) + 1 + quantum F n e) :=
        zpow_le_zpow_right₀ one_le_two (by have := le_max_right F.qmin ((n.log2 : Int) + e - F.m); unfold quantum; omega)
      _ = 2 ^ (F.m + 1) * 2 ^ quantum F n e := by rw [zpow_add₀ two_ne_zero]; norm_cast
  exact_mod_cast lt_of_mul_lt_mul_right key hq.le

/-- At its quantum a number has a whole mantissa, unless it is subnormal. -/
theorem le_truncated (F : Fmt) {n : Nat} (hn : 0 < n) (e : Int) :
    binade F n e = 0 ∨ 2 ^ F.m ≤ truncated n e (quantum F n e) := by
  rcases le_or_gt ((n.log2 : Int) + e - F.m) F.qmin with h | h
  · exact .inl (by simp [binade, quantum, max_eq_left h])
  · right
    have hqe : quantum F n e = (n.log2 : Int) + e - F.m := max_eq_right h.le
    have hq : (0 : ℝ) < 2 ^ quantum F n e := by positivity
    have hlog : (2 : ℝ) ^ n.log2 ≤ n := by exact_mod_cast Nat.log2_self_le hn.ne'
    have key : (2 : ℝ) ^ F.m * 2 ^ quantum F n e
        < (truncated n e (quantum F n e) + 1 : Nat) * 2 ^ quantum F n e := by
      calc (2 : ℝ) ^ F.m * 2 ^ quantum F n e = 2 ^ n.log2 * 2 ^ e := by
            rw [← zpow_natCast, ← zpow_natCast, ← zpow_add₀ two_ne_zero, ← zpow_add₀ two_ne_zero, hqe]
            congr 1
            ring
        _ ≤ n * 2 ^ e := mul_le_mul_of_nonneg_right hlog (by positivity)
        _ < _ := lt_truncated_succ _ _ _
    exact Nat.lt_succ_iff.mp (by exact_mod_cast lt_of_mul_lt_mul_right key hq.le)

theorem taken_magnitude (F : Fmt) (mode : Nat) (s : Bool) (k : Nat) : taken F mode s (magnitude F k) k = k := if_pos rfl

/-- Where a number lies between two neighbours, and on which side of their midpoint, is seen from its remainder. -/
theorem remainder_iff {lo hi x u : ℝ} {t half rem : Nat} (hu : 0 < u) (hlo : lo = t * (2 * half * u))
    (hhi : hi = (t + 1) * (2 * half * u)) (hx : x = lo + rem * u) :
    (x = lo ↔ rem = 0) ∧ (2 * x < lo + hi ↔ rem < half) ∧ (lo + hi < 2 * x ↔ half < rem) := by
  have mid : lo + hi - 2 * x = 2 * (((half : ℝ) - rem) * u) := by
    rw [hx, hlo, hhi]
    ring
  refine ⟨by simp [hx, hu.ne'], ?_, ?_⟩
  · rw [← sub_pos, mid, mul_pos_iff_of_pos_left two_pos, mul_pos_iff_of_pos_right hu, sub_pos, Nat.cast_lt]
  · rw [← sub_pos, ← neg_sub, mid, ← mul_neg, ← neg_mul, neg_sub, mul_pos_iff_of_pos_left two_pos,
      mul_pos_iff_of_pos_right hu, sub_pos, Nat.cast_lt]

/-- Rounding to a quantum takes the magnitude that R179 names: it looks at the remainder where R179 looks at the two
magnitudes around the number. -/
theorem taken_eq {F : Fmt} (mode : Nat) (s : Bool) {n : Nat} {e q : Int} {k : Nat}
    (hk : magnitude F k = truncated n e q * (2 : ℝ) ^ q)
    (hk' : magnitude F (k + 1) = (truncated n e q + 1 : Nat) * (2 : ℝ) ^ q) (hpar : k % 2 = truncated n e q % 2) :
    taken F mode s (n * (2 : ℝ) ^ e) k + truncated n e q = roundAt mode s n e q false + k := by
  rcases le_or_gt q e with h | h
  · rw [truncated_exact h, ← hk, taken_magnitude, roundAt_of_le mode s n h, truncated_of_le h, Nat.add_comm]
  · obtain ⟨sh, hsh⟩ : ∃ sh, (q - e).toNat = sh + 1 := ⟨(q - e).toNat - 1, by omega⟩
    have hx := truncated_add_rem (n := n) h
    have hr := roundAt_of_lt mode s n h
    have hq : (2 : ℝ) ^ q = 2 * (2 ^ sh : Nat) * 2 ^ e := by
      rw [zpow_eq_pow_mul h.le, hsh]
      push_cast
      ring
    rw [← hk, hsh] at hx
    rw [← truncated_of_lt h, hsh] at hr
    rw [hq] at hk hk'
    push_cast at hk'
    obtain ⟨exact_iff, below_iff, above_iff⟩ :=
      remainder_iff (u := (2 : ℝ) ^ e) (by positivity) hk (by exact_mod_cast hk') hx
    have hhalf : 0 < 2 ^ sh := by positivity
    generalize n % 2 ^ (sh + 1) = rem at hr exact_iff below_iff above_iff
    rw [hr]
    simp only [taken, exact_iff, below_iff, above_iff, roundsUp]
    match mode with
    | 0 => grind
    | 1 => grind
    | 2 => cases s <;> grind
    | _ + 3 => cases s <;> grind

/-- Rounding takes the neighbour that the mode names, of every positive n × 2^e. -/
theorem rounded_round {F : Fmt} (hF : Ieee F) {mode : Nat} (hm : mode < 4) (s : Bool) {n : Nat} (hn : 0 < n) (e : Int) :
    Rounded F mode s (n * (2 : ℝ) ^ e) (F.round mode s n e) := by
  have hlt := truncated_lt F n e
  have hj := le_truncated F hn e
  have hk := magnitude_eq hlt.le hj
  have hk' := magnitude_eq (Nat.succ_le_of_lt hlt) (hj.imp_right Nat.le_succ_of_le)
  rw [qmin_add_binade, Nat.succ_eq_add_one] at hk'
  rw [qmin_add_binade] at hk
  rw [Nat.add_right_comm] at hk'
  have htaken := taken_eq mode s hk hk' (by
    obtain ⟨d, hd⟩ := hF.two_dvd_pow_m
    rw [hd, Nat.mul_left_comm, Nat.add_mul_mod_self_left])
  refine ⟨truncated n e (quantum F n e) + binade F n e * 2 ^ F.m, ?_, ?_, ?_⟩
  · exact hk.trans_le (truncated_le _ _ _)
  · exact (lt_truncated_succ _ _ _).trans_eq hk'.symm
  · rw [round_eq_codeOf hF hm s hn]
    congr 1
    omega

/-! ### Codes: sign and magnitude, numbers and NaNs (R171, R172) -/

/-- The number that a sign, a magnitude and a power of two stand for. -/
noncomputable def finValue (s : Bool) (n : Nat) (e : Int) : ℝ := (if s then -1 else 1) * n * (2 : ℝ) ^ e

theorem finValue_true (n : Nat) (e : Int) : finValue true n e = -(n * (2 : ℝ) ^ e) := by simp [finValue]
theorem finValue_false (n : Nat) (e : Int) : finValue false n e = n * (2 : ℝ) ^ e := by simp [finValue]

theorem finValue_not (s : Bool) (n : Nat) (e : Int) : finValue (!s) n e = -finValue s n e := by
  cases s <;> simp [finValue_true, finValue_false]

theorem abs_finValue (s : Bool) (n : Nat) (e : Int) : |finValue s n e| = n * (2 : ℝ) ^ e := by
  have h : (0 : ℝ) ≤ n * (2 : ℝ) ^ e := by positivity
  cases s
  · rw [finValue_false, abs_of_nonneg h]
  · rw [finValue_true, abs_neg, abs_of_nonneg h]

theorem finValue_eq_zero_iff (s : Bool) (n : Nat) (e : Int) : finValue s n e = 0 ↔ n = 0 := by
  have h2 : (2 : ℝ) ^ e ≠ 0 := by positivity
  rw [← abs_eq_zero, abs_finValue, mul_eq_zero, or_iff_left h2, Nat.cast_eq_zero]

theorem finValue_neg_iff {n : Nat} (hn : 0 < n) (s : Bool) (e : Int) : finValue s n e < 0 ↔ s = true := by
  have h : (0 : ℝ) < n * (2 : ℝ) ^ e := by positivity
  cases s
  · simp [finValue_false, h.le]
  · simp [finValue_true, h]

theorem finValue_mul (s t : Bool) (n k : Nat) (e d : Int) :
    finValue s n e * finValue t k d = finValue (s != t) (n * k) (e + d) := by
  have h2 : (2 : ℝ) ^ (e + d) = 2 ^ e * 2 ^ d := zpow_add₀ two_ne_zero e d
  cases s <;> cases t <;> simp [finValue, h2] <;> ring

theorem read_fin_sign {F : Fmt} {c : Nat} {s : Bool} {n : Nat} {e : Int} (h : F.read c = .fin s n e) : s = signOf F c := by
  unfold Fmt.read at h
  dsimp only at h
  split_ifs at h <;> cases h <;> rfl

/-- A code that stands for a number is read as that number. -/
theorem read_of_realOf {F : Fmt} {c : Nat} {x : ℝ} (h : realOf F c = some x) :
    ∃ n e, F.read c = .fin (signOf F c) n e ∧ x = finValue (signOf F c) n e := by
  unfold realOf at h
  split at h
  · next s n e hr =>
    obtain rfl := read_fin_sign hr
    exact ⟨n, e, hr, (Option.some.inj h).symm⟩
  · cases h

theorem testBit_signed {F : Fmt} {mag : Nat} (h : mag < 2 ^ (F.w + F.m)) (s : Bool) :
    (F.signed s mag).testBit (F.w + F.m) = s := by
  cases s
  · simp [Fmt.signed, Nat.testBit_lt_two_pow h]
  · simp [Fmt.signed, Nat.testBit_two_pow_add_eq, Nat.testBit_lt_two_pow h]

theorem mod_signed {F : Fmt} {mag : Nat} (h : mag < 2 ^ (F.w + F.m)) (s : Bool) :
    F.signed s mag % 2 ^ (F.w + F.m) = mag := by
  cases s <;> simp [Fmt.signed, Nat.mod_eq_of_lt h]

/-- Every code of a format is a sign and a magnitude. -/
theorem exists_signed {F : Fmt} {c : Nat} (h : c < 2 ^ F.width) : ∃ s mag, mag < 2 ^ (F.w + F.m) ∧ c = F.signed s mag := by
  have hw : 2 ^ F.width = 2 ^ (F.w + F.m) + 2 ^ (F.w + F.m) := by rw [Fmt.width, Nat.add_assoc, Nat.add_comm, pow_succ]; ring
  rcases lt_or_ge c (2 ^ (F.w + F.m)) with hc | hc
  · exact ⟨false, c, hc, by simp [Fmt.signed]⟩
  · exact ⟨true, c - 2 ^ (F.w + F.m), by omega, by simp [Fmt.signed]; omega⟩

theorem neg_signed {F : Fmt} {mag : Nat} (h : mag < 2 ^ (F.w + F.m)) (s : Bool) :
    F.neg (F.signed s mag) = F.signed (!s) mag := by
  rw [Fmt.neg, testBit_signed h]
  cases s <;> simp [Fmt.signed, Nat.add_comm]

/-- The negation of a code of a number is read with the other sign. -/
theorem read_neg {F : Fmt} {c : Nat} (hc : c < 2 ^ F.width) {s : Bool} {n : Nat} {e : Int} (h : F.read c = .fin s n e) :
    F.read (F.neg c) = .fin (!s) n e := by
  obtain ⟨t, mag, hmag, rfl⟩ := exists_signed hc
  rw [neg_signed hmag]
  unfold Fmt.read at h ⊢
  rw [testBit_signed hmag, mod_signed hmag] at *
  dsimp only at h ⊢
  split_ifs at h ⊢ <;> cases h <;> rfl

/-- Above the top code, the exponent field is full and the mantissa field is not zero. -/
theorem top_lt_iff {F : Fmt} {mag : Nat} (h : mag < 2 ^ (F.w + F.m)) :
    F.top < mag ↔ mag / 2 ^ F.m = 2 ^ F.w - 1 ∧ mag % 2 ^ F.m ≠ 0 := by
  have hp : 0 < 2 ^ F.m := by positivity
  have hle : mag / 2 ^ F.m ≤ 2 ^ F.w - 1 :=
    Nat.le_sub_one_of_lt (Nat.div_lt_of_lt_mul (by rwa [← pow_add, Nat.add_comm]))
  have hdiv := Nat.div_add_mod' mag (2 ^ F.m)
  constructor
  · intro hlt
    have hE : mag / 2 ^ F.m = 2 ^ F.w - 1 := le_antisymm hle ((Nat.le_div_iff_mul_le hp).mpr hlt.le)
    rw [hE] at hdiv
    exact ⟨hE, by unfold Fmt.top at hlt; omega⟩
  · rintro ⟨hE, hM⟩
    rw [hE] at hdiv
    unfold Fmt.top
    omega

/-- The NaNs are the codes above infinity. -/
theorem read_isNan_iff {F : Fmt} (hF : Ieee F) (c : Nat) : (F.read c).isNan = true ↔ isNan F c := by
  rw [isNan, top_lt_iff (Nat.mod_lt _ (by positivity))]
  unfold Fmt.read
  dsimp only
  by_cases hE : c % 2 ^ (F.w + F.m) / 2 ^ F.m = 2 ^ F.w - 1
  · by_cases hM : c % 2 ^ (F.w + F.m) % 2 ^ F.m = 0 <;> simp [hF.inf, hE, hM, Num.isNan]
  · simp only [hF.inf, hE, Bool.not_true, Bool.and_false, Bool.false_and, decide_false, Bool.false_eq_true, if_false, false_and]
    split <;> simp [Num.isNan]

theorem read_signed_top {F : Fmt} (hF : Ieee F) (s : Bool) : F.read (F.signed s F.top) = .inf s := by
  have hmag : F.top < 2 ^ (F.w + F.m) := by rw [← top_add_pow]; exact Nat.lt_add_of_pos_right (by positivity)
  unfold Fmt.read
  rw [testBit_signed hmag, mod_signed hmag]
  simp [hF.inf, Fmt.top]

theorem read_zero {F : Fmt} (hF : Ieee F) : F.read (F.signed false 0) = .fin false 0 F.qmin := by
  have := hF.two_le_pow_w
  have h0 : ¬ 0 = 2 ^ F.w - 1 := by omega
  simp [Fmt.signed, Fmt.read, hF.inf, h0]

/-- Adding a power of two to a number in which that bit is clear sets the bit. -/
theorem add_two_pow_eq_or {c i : Nat} (h : c.testBit i = false) : c + 2 ^ i = c ||| 2 ^ i := by
  have hbit : c / 2 ^ i % 2 = 0 := by
    rw [Nat.testBit_eq_decide_div_mod_eq, decide_eq_false_iff_not] at h
    omega
  have hlow : c % 2 ^ (i + 1) = c % 2 ^ i := by rw [Nat.mod_pow_succ, hbit, Nat.mul_zero, Nat.add_zero]
  have hlt : c % 2 ^ (i + 1) < 2 ^ i := hlow ▸ Nat.mod_lt c (by positivity)
  have hsplit := Nat.div_add_mod c (2 ^ (i + 1))
  have hset : 2 ^ i + c % 2 ^ (i + 1) < 2 ^ (i + 1) := by rw [pow_succ 2 i] at hlt ⊢; omega
  calc c + 2 ^ i = 2 ^ (i + 1) * (c / 2 ^ (i + 1)) + (2 ^ i + c % 2 ^ (i + 1)) := by omega
    _ = 2 ^ (i + 1) * (c / 2 ^ (i + 1)) ||| (2 ^ i ||| c % 2 ^ (i + 1)) := by
      rw [Nat.two_pow_add_eq_or_of_lt hset, ← Nat.mul_one (2 ^ i), Nat.two_pow_add_eq_or_of_lt hlt]
    _ = (2 ^ (i + 1) * (c / 2 ^ (i + 1)) ||| c % 2 ^ (i + 1)) ||| 2 ^ i := by rw [Nat.or_comm (2 ^ i), Nat.or_assoc]
    _ = c ||| 2 ^ i := by
      rw [← Nat.two_pow_add_eq_or_of_lt (hlt.trans (Nat.pow_lt_pow_succ one_lt_two)), hsplit]

theorem or_two_pow_eq_self {c i : Nat} (h : c.testBit i = true) : c ||| 2 ^ i = c := by
  refine Nat.eq_of_testBit_eq fun j => ?_
  rw [Nat.testBit_or, Nat.testBit_two_pow]
  by_cases hj : i = j <;> simp [hj, ← h]

theorem quiet_eq_quieted (F : Fmt) (c : Nat) : F.quiet c = quieted F c := by
  unfold Fmt.quiet quieted
  split
  · next h => exact (or_two_pow_eq_self h).symm
  · next h => exact add_two_pow_eq_or (Bool.eq_false_of_not_eq_true h)

/-! ### NaN operands (R193) -/

theorem firstNan_nil (F : Fmt) : F.firstNan [] = none := rfl

theorem firstNan_cons_of_nan {F : Fmt} (hF : Ieee F) {c : Nat} (h : isNan F c) (cs : List Nat) :
    F.firstNan (c :: cs) = some (quieted F c) := by
  simp [Fmt.firstNan, (read_isNan_iff hF c).mpr h, quiet_eq_quieted]

theorem firstNan_cons_of_not {F : Fmt} (hF : Ieee F) {c : Nat} (h : ¬ isNan F c) (cs : List Nat) :
    F.firstNan (c :: cs) = F.firstNan cs := by
  have hc : (F.read c).isNan = false := by rw [← read_isNan_iff hF] at h; simpa using h
  simp [Fmt.firstNan, hc]

/-! ### Sums (R194) -/

theorem alignTo_mul (s : Bool) (n : Nat) {e q : Int} (h : q ≤ e) : (alignTo s n e q : ℝ) * (2 : ℝ) ^ q = finValue s n e := by
  have hn : (n : ℝ) * 2 ^ e = ((n * 2 ^ (e - q).toNat : Nat) : ℝ) * 2 ^ q := by
    rw [zpow_eq_pow_mul h]
    push_cast
    ring
  cases s
  · rw [finValue_false, hn]
    exact congrArg (· * (2 : ℝ) ^ q) (Int.cast_natCast _)
  · rw [finValue_true, hn, ← neg_mul, alignTo, if_pos rfl, Int.cast_neg, Int.cast_natCast]

/-- Two numbers at the lesser of their exponents: an integer multiple of that power of two is their sum. -/
def alignedSum (s : Bool) (n : Nat) (e : Int) (t : Bool) (k : Nat) (d : Int) : Int :=
  alignTo s n e (min e d) + alignTo t k d (min e d)

theorem alignedSum_mul (s : Bool) (n : Nat) (e : Int) (t : Bool) (k : Nat) (d : Int) :
    (alignedSum s n e t k d : ℝ) * (2 : ℝ) ^ min e d = finValue s n e + finValue t k d := by
  rw [alignedSum, Int.cast_add, add_mul, alignTo_mul s n (min_le_left e d), alignTo_mul t k (min_le_right e d)]

theorem alignedSum_eq_zero_iff (s : Bool) (n : Nat) (e : Int) (t : Bool) (k : Nat) (d : Int) :
    alignedSum s n e t k d = 0 ↔ finValue s n e + finValue t k d = 0 := by
  have h2 : (2 : ℝ) ^ min e d ≠ 0 := by positivity
  rw [← alignedSum_mul, mul_eq_zero, or_iff_left h2, Int.cast_eq_zero]

theorem sum_of_ne_zero {F : Fmt} {mode : Nat} {s t : Bool} {n k : Nat} {e d : Int} (h : alignedSum s n e t k d ≠ 0) :
    F.sum mode s n e t k d =
      F.round mode (decide (alignedSum s n e t k d < 0)) (alignedSum s n e t k d).natAbs (min e d) := if_neg h

/-- A sum that is not zero is exact and rounded once. -/
theorem rounded_sum {F : Fmt} (hF : Ieee F) {mode : Nat} (hm : mode < 4) {s t : Bool} {n k : Nat} {e d : Int}
    (h : finValue s n e + finValue t k d ≠ 0) :
    Rounded F mode (decide (finValue s n e + finValue t k d < 0)) |finValue s n e + finValue t k d|
      (F.sum mode s n e t k d) := by
  have hv : alignedSum s n e t k d ≠ 0 := (alignedSum_eq_zero_iff s n e t k d).not.mpr h
  have h2 : (0 : ℝ) < 2 ^ min e d := by positivity
  have hneg : finValue s n e + finValue t k d < 0 ↔ alignedSum s n e t k d < 0 := by
    rw [← alignedSum_mul, ← not_le, mul_nonneg_iff_of_pos_right h2, Int.cast_nonneg_iff, not_le]
  have habs : |finValue s n e + finValue t k d| = ((alignedSum s n e t k d).natAbs : ℝ) * 2 ^ min e d := by
    rw [← alignedSum_mul, abs_mul, abs_of_pos h2, Nat.cast_natAbs, Int.cast_abs]
  simp only [hneg, habs, sum_of_ne_zero hv]
  exact rounded_round hF hm _ (Int.natAbs_pos.mpr hv) _

/-- A sum that is zero has the sign of its terms where both are zeros of that sign, and otherwise that of the mode. -/
theorem sum_of_zero {F : Fmt} {mode : Nat} {s t : Bool} {n k : Nat} {e d : Int}
    (h : finValue s n e + finValue t k d = 0) :
    F.sum mode s n e t k d = F.signed (if finValue s n e = 0 ∧ s = t then s else decide (mode = 2)) 0 := by
  have hv : alignTo s n e (min e d) + alignTo t k d (min e d) = 0 := (alignedSum_eq_zero_iff s n e t k d).mpr h
  have hnk : n = 0 ↔ k = 0 := by
    rw [← finValue_eq_zero_iff s n e, ← finValue_eq_zero_iff t k d, eq_neg_of_add_eq_zero_left h, neg_eq_zero]
  simp only [Fmt.sum, if_pos hv, finValue_eq_zero_iff]
  by_cases hz : n = 0 ∧ s = t
  · simp [hz, hnk.mp hz.1]
  · simp only [if_neg hz, Bool.and_eq_true, decide_eq_true_eq, beq_iff_eq]
    rw [if_neg fun hall => hz ⟨hall.1.1, hall.2⟩, beq_eq_decide]

/-- The same, said of the second term. -/
theorem sum_of_zero_right {F : Fmt} {mode : Nat} {s t : Bool} {n k : Nat} {e d : Int}
    (h : finValue s n e + finValue t k d = 0) :
    F.sum mode s n e t k d = F.signed (if finValue t k d = 0 ∧ s = t then t else decide (mode = 2)) 0 := by
  have hxy : finValue s n e = 0 ↔ finValue t k d = 0 := by rw [eq_neg_of_add_eq_zero_left h, neg_eq_zero]
  rw [sum_of_zero h]
  simp only [hxy]
  congr 1
  split_ifs with hz
  · exact hz.2
  · rfl

/-! ### Operands that are numbers (R194, R196) -/

/-- No operand of an operation is a NaN where all are numbers. -/
theorem not_isNan_of_read {F : Fmt} (hF : Ieee F) {c : Nat} {s : Bool} {n : Nat} {e : Int} (h : F.read c = .fin s n e) :
    ¬ isNan F c := by
  rw [← read_isNan_iff hF, h]
  exact Bool.false_ne_true

section Finite

variable {F : Fmt} {mode a b c : Nat} {s t u : Bool} {n k i : Nat} {e d j : Int}

theorem add_of_read (hF : Ieee F) (ha : F.read a = .fin s n e) (hb : F.read b = .fin t k d) :
    F.add mode a b = F.sum mode s n e t k d := by
  simp [Fmt.add, firstNan_cons_of_not hF (not_isNan_of_read hF ha), firstNan_cons_of_not hF (not_isNan_of_read hF hb),
    firstNan_nil, ha, hb]

theorem sub_of_read (hF : Ieee F) (hbw : b < 2 ^ F.width) (ha : F.read a = .fin s n e) (hb : F.read b = .fin t k d) :
    F.sub mode a b = F.sum mode s n e (!t) k d := by
  rw [← add_of_read hF ha (read_neg hbw hb)]
  simp [Fmt.sub, firstNan_cons_of_not hF (not_isNan_of_read hF ha), firstNan_cons_of_not hF (not_isNan_of_read hF hb),
    firstNan_nil]

theorem mul_of_read (hF : Ieee F) (ha : F.read a = .fin s n e) (hb : F.read b = .fin t k d) :
    F.mul mode a b = if n * k = 0 then F.signed (s != t) 0 else F.round mode (s != t) (n * k) (e + d) := by
  simp only [Fmt.mul, firstNan_cons_of_not hF (not_isNan_of_read hF ha),
    firstNan_cons_of_not hF (not_isNan_of_read hF hb), firstNan_nil, ha, hb]

theorem fma_of_read (hF : Ieee F) (ha : F.read a = .fin s n e) (hb : F.read b = .fin t k d) (hc : F.read c = .fin u i j) :
    F.fma mode a b c = F.sum mode (s != t) (n * k) (e + d) u i j := by
  simp only [Fmt.fma, firstNan_cons_of_not hF (not_isNan_of_read hF ha),
    firstNan_cons_of_not hF (not_isNan_of_read hF hb), firstNan_cons_of_not hF (not_isNan_of_read hF hc), firstNan_nil,
    ha, hb, hc]

end Finite

/-- A product that is not zero is exact and rounded once. -/
theorem rounded_mul {F : Fmt} (hF : Ieee F) {mode : Nat} (hm : mode < 4) {a b : Nat} {s t : Bool} {n k : Nat} {e d : Int}
    (ha : F.read a = .fin s n e) (hb : F.read b = .fin t k d) (h : finValue s n e * finValue t k d ≠ 0) :
    Rounded F mode (decide (finValue s n e * finValue t k d < 0)) |finValue s n e * finValue t k d| (F.mul mode a b) := by
  rw [finValue_mul] at h ⊢
  have hnk : n * k ≠ 0 := (finValue_eq_zero_iff _ _ _).not.mp h
  have hpos := Nat.pos_of_ne_zero hnk
  simp only [mul_of_read hF ha hb, if_neg hnk, abs_finValue, finValue_neg_iff hpos, Bool.decide_eq_true]
  exact rounded_round hF hm _ hpos _

/-- A product that is zero has the sign of its factors' signs together. -/
theorem mul_of_zero {F : Fmt} (hF : Ieee F) {mode a b : Nat} {s t : Bool} {n k : Nat} {e d : Int}
    (ha : F.read a = .fin s n e) (hb : F.read b = .fin t k d) (h : finValue s n e * finValue t k d = 0) :
    F.mul mode a b = F.signed (s != t) 0 := by
  rw [finValue_mul, finValue_eq_zero_iff] at h
  rw [mul_of_read hF ha hb, if_pos h]

/-! ### NaN operands and invalid operations (R193) -/

section FirstNan

variable {F : Fmt} {a b c q : Nat} (mode : Nat)

theorem add_of_firstNan (h : F.firstNan [a, b] = some q) : F.add mode a b = q := by simp only [Fmt.add, h]
theorem sub_of_firstNan (h : F.firstNan [a, b] = some q) : F.sub mode a b = q := by simp only [Fmt.sub, h]
theorem mul_of_firstNan (h : F.firstNan [a, b] = some q) : F.mul mode a b = q := by simp only [Fmt.mul, h]
theorem fma_of_firstNan (h : F.firstNan [a, b, c] = some q) : F.fma mode a b c = q := by simp only [Fmt.fma, h]

end FirstNan

theorem nan_eq {F : Fmt} (hF : Ieee F) : F.nan = F.top + 2 ^ (F.m - 1) := by simp [Fmt.nan, Fmt.nanCode, hF.ieeeNan]

theorem not_isNan_top {F : Fmt} (hF : Ieee F) (s : Bool) : ¬ isNan F (F.signed s F.top) := by
  rw [← read_isNan_iff hF, read_signed_top hF]
  exact Bool.false_ne_true

/-- Infinities of opposite signs have no sum. -/
theorem add_opposite_infinities {F : Fmt} (hF : Ieee F) (mode : Nat) (s : Bool) :
    F.add mode (F.signed s F.top) (F.signed (!s) F.top) = F.top + 2 ^ (F.m - 1) := by
  simp only [Fmt.add, firstNan_cons_of_not hF (not_isNan_top hF _), firstNan_nil, read_signed_top hF, nan_eq hF]
  cases s <;> rfl

/-- An infinity and a zero have no product. -/
theorem mul_infinity_zero {F : Fmt} (hF : Ieee F) (mode : Nat) (s : Bool) :
    F.mul mode (F.signed s F.top) (F.signed false 0) = F.top + 2 ^ (F.m - 1) := by
  simp only [Fmt.mul, firstNan_cons_of_not hF (not_isNan_top hF _),
    firstNan_cons_of_not hF (not_isNan_of_read hF (read_zero hF)), firstNan_nil, read_signed_top hF, read_zero hF,
    if_true, nan_eq hF]

/-- Settles O26: what an operation computes of numbers is an integer multiple of a power of two, which `rounded_round`
rounds once; zeros, NaNs and invalid operations are the cases before it. -/
theorem arithmeticRoundsOnce : Obligations.ArithmeticRoundsOnce := by
  intro F hmem mode a b c hm _ hbw _
  have hF := ieee_of_mem hmem
  refine ⟨fun x y z hx hy hz => ?numbers, fun ha => ?nanA, fun ha hb => ?nanB, fun ha hb hc => ?nanC,
    fun s => ⟨add_opposite_infinities hF mode s, mul_infinity_zero hF mode s⟩⟩
  case numbers =>
    obtain ⟨n, e, ha, rfl⟩ := read_of_realOf hx
    obtain ⟨k, d, hb, rfl⟩ := read_of_realOf hy
    obtain ⟨i, j, hc, rfl⟩ := read_of_realOf hz
    rw [add_of_read hF ha hb, sub_of_read hF hbw ha hb, fma_of_read hF ha hb hc, sub_eq_add_neg, ← finValue_not]
    refine ⟨rounded_sum hF hm, rounded_sum hF hm, rounded_mul hF hm ha hb, ?fma, sum_of_zero, fun h => ?sub0,
      mul_of_zero hF ha hb, ?fma0⟩
    case fma =>
      rw [finValue_mul]
      exact rounded_sum hF hm
    case sub0 =>
      rw [sum_of_zero h]
      simp only [Bool.eq_not_iff]
    case fma0 =>
      rw [finValue_mul]
      exact sum_of_zero_right
  case nanA =>
    have h := firstNan_cons_of_nan hF ha
    exact ⟨add_of_firstNan mode (h _), sub_of_firstNan mode (h _), mul_of_firstNan mode (h _), fma_of_firstNan mode (h _)⟩
  case nanB =>
    have h := fun cs => (firstNan_cons_of_not hF ha (b :: cs)).trans (firstNan_cons_of_nan hF hb cs)
    exact ⟨add_of_firstNan mode (h _), sub_of_firstNan mode (h _), mul_of_firstNan mode (h _), fma_of_firstNan mode (h _)⟩
  case nanC =>
    refine fma_of_firstNan mode ?_
    rw [firstNan_cons_of_not hF ha, firstNan_cons_of_not hF hb, firstNan_cons_of_nan hF hc]

end Sys2Proof.Proofs
end
